-- ==== Sys2Proof/Word.lean ====
section
/-! DEFINITION. The word types of the machine and their plainest arithmetic (R2, R4). -/

namespace Sys2Proof

/-- A 32-bit word: one lane of a register. -/
abbrev Word := BitVec 32

/-- A 64-bit word: a slot, a clause header, a global address. -/
abbrev Dword := BitVec 64

/-- A byte of memory. -/
abbrev Byte := BitVec 8

/-- A list of bytes in ascending address order. -/
abbrev Bytes := List (BitVec 8)

end Sys2Proof
end

