-- ==== Sys2Proof/Syntax.lean ====
section
/-! DEFINITION. The syntax of the machine: the fields of the instruction formats (R86-R95) and `Instr`, one
constructor for each row of spec/opcode_table.json: the instructions of Volyel and the indivisible steps of
the device, its firmware, the host and the fabric.  The arguments of a device step name the unit that acts, or
carry what comes from outside the machine (a flit, sensor readings, the results of self-tests). -/

namespace Sys2Proof

/-- Format V (R86).  `B` and `C` together are `IMM16` (bits 32:17) when `BK` is 10. -/
structure VFields where
  y : Bool
  q : Bool
  ty : BitVec 3
  bk : BitVec 2
  d : BitVec 8
  a : BitVec 8
  b : BitVec 8
  c : BitVec 8
  cb : BitVec 3
  cw : Bool
  sel : BitVec 3
  hi : Bool
  mod : BitVec 4
  sub : BitVec 5
  deriving DecidableEq, Repr

/-- Format P, the prefix (R90). -/
structure PFields where
  msk : BitVec 3
  mz : Bool
  rnd : BitVec 3
  sat : Bool
  e : BitVec 8
  ev : Bool
  lv : Bool
  lit : Word
  deriving DecidableEq, Repr

/-- Format M, memory (R92). -/
structure MFields where
  y : Bool
  d : BitVec 8
  a : BitVec 8
  b : BitVec 8
  sp : BitVec 3
  sco : BitVec 3
  ord : BitVec 2
  ch : BitVec 2
  bo : Bool
  off : BitVec 19
  deriving DecidableEq, Repr

/-- Format K, control (R93). -/
structure KFields where
  y : Bool
  m : BitVec 3
  neg : Bool
  a : BitVec 8
  tgt : Word
  deriving DecidableEq, Repr

/-- Format X, matrix (R94). -/
structure XFields where
  y : Bool
  fa : BitVec 3
  fb : BitVec 3
  fc : BitVec 3
  shape : BitVec 5
  a : BitVec 8
  b : BitVec 8
  c : BitVec 8
  kc : BitVec 8
  zc : Bool
  sp : Bool
  st : Bool
  ce : Bool
  sub : BitVec 4
  deriving DecidableEq, Repr

/-- Format E, engine (R95). -/
structure EFields where
  y : Bool
  desc : BitVec 8
  tok : BitVec 8
  a : BitVec 8
  sub : BitVec 5
  imm : BitVec 25
  deriving DecidableEq, Repr

/-- Format S, synchronisation and system (R96). -/
structure SFields where
  y : Bool
  d : BitVec 8
  a : BitVec 8
  b : BitVec 8
  sub : BitVec 5
  id : BitVec 5
  imm : BitVec 20
  deriving DecidableEq, Repr

/-- One request in a request flit (R454): a write with its data, or a read or an atomic without. `tag` names the
requester's access, so that the response can be matched to it. -/
structure FlitReq where
  tag : Nat
  addr : Dword
  write : Bool
  len : Nat
  data : Bytes
  /-- an atomic's operation word of R253, or `none` -/
  atom : Option (BitVec 19)
  /-- the atomic is a CAS -/
  cas : Bool
  /-- the compare value of a CAS; unused otherwise -/
  cmp : Dword
  /-- further operands of an ATOMU follow under the same tag in the next flit, which this one has no room for -/
  more : Bool := false
  deriving DecidableEq, Repr

/-- One answer in a response or acknowledgement flit (R243, R457, R459). `cause` is 0, or the owner cause. -/
structure FlitAns where
  tag : Nat
  cause : Nat
  data : Bytes
  /-- bit i: sector i of the data (32 bytes) is poisoned (R228) -/
  poison : BitVec 7
  /-- further data follow under the same tag in the next flit, which this one has no room for -/
  more : Bool := false
  deriving DecidableEq, Repr

/-- A pose (R470): orientation w, x, y, z in FP32, the time of capture and the sequence number. -/
structure Pose where
  qw : Word
  qx : Word
  qy : Word
  qz : Word
  time : Dword
  seq : Word
  deriving DecidableEq, Repr

/-- A 256-byte flit of the Volyel link (R454): bytes 0 to 7 as fields, the header bytes 8 to 27, `FCRC` and the payload; behind
them what header and payload say, whose coding no rule gives: acknowledgement and resend (R455), requests, answers, pose. -/
structure Flit where
  ftyp : Nat
  fseq : BitVec 8
  sdev : Nat
  ddev : Nat
  slan : Nat
  dlan : Nat
  psn : BitVec 7
  fdom : Nat
  hdr : Bytes
  fcrc : Word
  payload : Bytes
  /-- the last `FSEQ` that the sender acknowledges, if it names one -/
  ack : Option (BitVec 8)
  /-- the `FSEQ` from which the sender asks for a resend -/
  resend : Option (BitVec 8)
  reqs : List FlitReq
  answers : List FlitAns
  /-- the payload of a pose flit -/
  pose : Option Pose
  deriving DecidableEq, Repr

/-- A rail that a voltage comparator watches in a column (R481). -/
inductive Rail where
  | cacheDie
  | computeDie
  deriving DecidableEq, Repr

/-- What one sampling slot reads (R452, R481): column temperatures in 1/16 degree C, GDDR 7 device temperatures in
the same unit, ring-oscillator counts per quad, core-rail millivolts per lantern, and the errors found since the
last sample: corrected ones per column. -/
structure Readings where
  colTemp : List Int
  memTemp : List Int
  ring : List Word
  milliVolt : List Word
  corrected : List Nat
  deriving DecidableEq, Repr, Inhabited

/-- What the steps of a start find (R471, R472): the step that fails, the vault banks that fail self-test, the
trained ports, the device id given by the switch, and whether the verification of a warm start fails. -/
structure StartReport where
  failStep : Option Nat
  badBanks : List (Nat × Nat)
  ports : List Nat
  devid : Nat
  verifyFails : Bool
  deriving DecidableEq, Repr, Inhabited

/-- Where a block of the block store lies (R226, R260). -/
inductive BlockPlace where
  | vault (col base : Nat)
  | gddr (lan base : Nat)
  deriving DecidableEq, Repr

/-- One constructor for each row of spec/opcode_table.json: those with arguments in its order, then the others. -/
inductive Instr where
  /-- CLAUSE_START (R43): At a clause boundary the partition picks an eligible warp by round robin, fetches and decodes the whole clause, and begins issuing its slots for the current PC group. -/
  | clauseStart (col part : Nat)
  /-- FAIRNESS_PERIOD (R48): The fairness count reaches the launch's period, and the warp changes its current PC group at the next clause boundary. -/
  | fairnessPeriod (grp wid : Nat)
  /-- RESULT_WRITTEN (R98): A variable-latency result is written, its destination registers stop being pending, and any counter it holds falls. -/
  | resultWritten (grp wid flight : Nat)
  /-- STORE_COMPLETION (R99): A store is performed at its scope and its ST or SPX counter decrements. -/
  | storeCompletion (grp wid flight : Nat)
  /-- TRAP_DELIVERY (R397): A cause raised after issue is delivered at the warp's next clause boundary, by the handler route or the firmware route. -/
  | trapDelivery (grp wid : Nat)
  /-- HANDLER_ENTRY (R404): Once the trapped warp's stores and loads have drained, its thread state is saved and the warp enters the trap handler in handler mode. -/
  | handlerEntry (grp wid : Nat)
  /-- GROUP_PLACEMENT (R451): A core with free resources pulls a lit group or the next group of a started launch and places it. -/
  | groupPlacement (col p0 : Nat)
  /-- TAPER_BINDING_COMPLETE (R333): A Taper binding finishes filling its scratchpad lines and sets their presence bits. -/
  | taperBindingComplete (grp binding : Nat)
  /-- WARP_RETIRE (R75): A warp whose last thread has exited frees its slot and registers once its accesses have performed and its fabric writes are acknowledged. -/
  | warpRetire (grp wid : Nat)
  /-- TRIANGLE_SETUP (R370): The raster engine takes a submitted cluster, sets up and culls each triangle, and bins it to the home columns of the tiles it touches. -/
  | triangleSetup (ctx : Nat)
  /-- TILE_RASTERISE (R373): A home column's raster engine rasterises a binned triangle into its tile and updates each covered sample's depth and identifier atomically. -/
  | tileRasterise (ctx work : Nat)
  /-- PASS_CLOSE_EFFECT (R367): A PASSCLOSE takes effect once the pass's launches have completed and its triangles are rasterised, and every tile becomes CLOSED. -/
  | passCloseEffect (ctx : Nat)
  /-- CLASSIFY (R380): The classify engine takes a CLOSED tile, scans its pixel quads and appends one unit of four pixel records per identifier to the material bins. -/
  | classify (ctx tile : Nat)
  /-- BIN_TIMER_LAPSE (R63): A bin's oldest record reaches the node's period and the bin lights. -/
  | binTimerLapse (ctx node : Nat) (key : Word) (lan : Nat)
  /-- RECORD_FITS (R64): A record waiting on a full node queue enters the queue once room is made. -/
  | recordFits (ctx node : Nat)
  /-- BARRIER_TIMEOUT (R342): A barrier phase not completed within the watchdog period raises 0x30 with a capture of the group. -/
  | barrierTimeout (grp bar : Nat)
  /-- COLLECTIVE_TIMEOUT (R415): A PC group parked at a collective for the watchdog period raises 0x31 with a capture of the group. -/
  | collectiveTimeout (grp wid : Nat)
  /-- FAULT_QUEUE_ROOM (R410): A translation fault waiting on a full fault record queue enters it once an entry frees. -/
  | faultQueueRoom (lan : Nat)
  /-- FAULT_SERVICE (R480): A fault-service core takes the next entry in SEQ order and maps it on demand, refuses it, or forwards it to the host. -/
  | faultService (lan : Nat)
  /-- DRT_ACC_WRITEBACK (R222): 2^20 cycles after a TLB entry gains DRT or ACC, the gathered bits are written into the page-table entry. -/
  | drtAccWriteback (ctx : Nat) (va : Dword)
  /-- ENGINE_LINE_WRITTEN (R307): An engine finishes writing a scratchpad destination line and sets its presence bit. -/
  | engineLineWritten (grp slot line : Nat)
  /-- ENGINE_OPERATION_COMPLETE (R305): An engine operation completes: its status is set, its range locks and counter are freed, and its completion releases at its scope. -/
  | engineOperationComplete (grp slot : Nat)
  /-- MERGE_SESSION_OPEN (R325): A waiting merge session opens once the core's merge network is free, completing MRGO's token. -/
  | mergeSessionOpen (grp : Nat)
  /-- LOOP_STEP (R287): A matrix loop completes one K step into its accumulator tile, or stops with a recorded cause, and at its last step completes on MAT. -/
  | loopStep (grp wid tile : Nat)
  /-- CBLOAD_COMPLETE (R348): Once no issued instruction holds the shadow generation, CBLOAD replaces the shadow with its image in one step and SPX falls. -/
  | cbloadComplete (grp wid flight : Nat)
  /-- WAITV_WAKE (R257): A repeated WAITV read finds the condition true and the parked PC group becomes eligible. -/
  | waitvWake (grp wid lane : Nat)
  /-- SLEEP_EXPIRY (R353): A sleeping PC group's count runs out and it becomes eligible again. -/
  | sleepExpiry (grp wid lane : Nat)
  /-- WAITTOK_SATISFIED (R443): A WAITTOK completes once its token's COUNT reaches the target. -/
  | waittokSatisfied (queue : Nat)
  /-- CONTEXT_SAVE (R418): A requested save begins once no non-pre-emptible launch runs and no young raster pass is open, and the context drains in the order given. -/
  | contextSave (ctx : Nat)
  /-- CONTEXT_SAVE_COMPLETE (R423): With every drain done, the save area is written and the context's resources are freed. -/
  | contextSaveComplete (ctx : Nat)
  /-- MAXRT_EXCEEDED (R440): A launch's run-time count exceeds MAXRT and the context is terminated with 0x51, reason word 0xFFFF_0001. -/
  | maxrtExceeded (launch : Nat)
  /-- LAUNCH (R443): Queue command LAUNCH checks and starts a launch and on completion adds 1 to its queue token. -/
  | launch (queue : Nat)
  /-- WAITTOK (R443): Queue command WAITTOK waits until a queue token's COUNT reaches a target. -/
  | waittok (queue : Nat)
  /-- SIGNAL (R448): Queue command SIGNAL adds n to a queue token's COUNT with release at scope 6. -/
  | signal (queue : Nat)
  /-- NODES (R445): Queue command NODES replaces the context's node table and zeroes the node queue counters. -/
  | nodes (queue : Nat)
  /-- PASSOPEN (R366): Queue command PASSOPEN checks a pass descriptor and opens the raster pass. -/
  | passopen (queue : Nat)
  /-- PASSCLOSE (R367): Queue command PASSCLOSE closes the open pass and completes when the pass completes. -/
  | passclose (queue : Nat)
  /-- DRAIN (R443): Queue command DRAIN waits for every earlier command of the queue and completes at its start. -/
  | drain (queue : Nat)
  /-- REQUEST_FLIT (R457): A request flit from a peer is checked, taken in order, and served under the address space bound to its fabric domain. -/
  | requestFlit (port : Nat) (flit : Flit)
  /-- PORT_RETRAIN (R455): The firmware completes retraining of a downed port, which returns to service. -/
  | portRetrain (port : Nat)
  /-- RESPONSE_FLIT (R243): A response or acknowledgement flit arrives, decrementing the warp's count of unacknowledged writes or returning a remote atomic's value. -/
  | responseFlit (port : Nat) (flit : Flit)
  /-- FABRIC_ACKNOWLEDGEMENT_TIMEOUT (R243): A write unacknowledged for 2^22 cycles raises 0x50 in the writing context. -/
  | fabricAcknowledgementTimeout (grp wid : Nat)
  /-- BEACON (R468): A beacon from the switch keeps sr.ftime within 50 ns, or performs frame-lock acquisition after a start or holdover. -/
  | beacon (port : Nat) (time : Dword)
  /-- POSE_FLIT (R470): A pose flit is applied to the pose register when its sequence number is newer, and the pose page is written. -/
  | poseFlit (port : Nat) (pose : Pose)
  /-- FRAME_LATCH (R466): A display output latches a committed frame descriptor, checks it, and lets FRAMEC's ST counter fall. -/
  | frameLatch (out : Nat)
  /-- FRAME_DEADLINE (R466): At a frame's deadline the output fixes the last latched commit for the frame, or selects Vigil. -/
  | frameDeadline (out : Nat)
  /-- FRAME_START (R466): When sr.ftime reaches PHASE plus k times PERIOD, frame k begins scanning. -/
  | frameStart (out : Nat)
  /-- FRAME_RETIRE (R467): At the end of a frame's scan the output writes its retire record with release at scope 6. -/
  | frameRetire (out : Nat)
  /-- MONITOR_SAMPLE (R481): In the monitor sampling slot every sensor is sampled and the threshold actions are applied. -/
  | monitorSample (readings : Readings)
  /-- L2_SHUTDOWN_WINDOW_END (R233): At the end of the 28,800-cycle window, the pages of unwritten dirty lines are poisoned and the slice powers down. -/
  | l2ShutdownWindowEnd (col : Nat)
  /-- RAIL_TRIP (R481): A rail stays outside ±8 % for 200 ns, and the slice shuts down or the core stops. -/
  | railTrip (col : Nat) (rail : Rail)
  /-- RAIL_RECOVERY (R481): After a rail has stayed within ±4 % for 1 ms below 85 °C, the vault returns to normal, poisoned, and the slice or core comes back. -/
  | railRecovery (col : Nat) (rail : Rail)
  /-- COLD_START (R471): Power-on or a PCI Express fundamental reset runs the cold start steps, then builds the discovery table and increments GEN. -/
  | coldStart (report : StartReport)
  /-- MBST_WRITE (R462): A write of 1 to MBST bits 1 or 2 clears response ready or doorbell overrun. -/
  | mbstWrite (value : Word)
  /-- QWAKE (R463): An 8-byte write of a queue header address marks that queue for the next scheduling boundary, or sets overflow beyond 256 marks. -/
  | qwake (value : Dword)
  /-- QWST_WRITE (R462): A write of 1 to QWST bit 0 clears the wake overflow. -/
  | qwstWrite (value : Word)
  /-- IRQC_WRITE (R462): A write of 1 to IRQC bit v clears the raised mark of MSI-X vector v. -/
  | irqcWrite (value : Word)
  /-- BAR0_WRITE (R462): A write to another BAR0 register, such as MBCMD, is stored or ignored as the register allows. -/
  | bar0Write (offset : Nat) (data : Bytes)
  /-- RESET_COLD (R473): Pelonar RESET with mode 0 terminates every context and runs a cold start. -/
  | resetCold (report : StartReport)
  /-- RESET_WARM (R472): Pelonar RESET with mode 1 terminates every context and runs a warm start. -/
  | resetWarm (report : StartReport)
  /-- IADD (R150): Integer add per element, wrapping or saturating. -/
  | iadd (v : VFields)
  /-- ISUB (R150): Integer subtract per element. -/
  | isub (v : VFields)
  /-- IMUL (R150): Integer multiply per element, low bits. -/
  | imul (v : VFields)
  /-- IMULH (R150): Integer multiply per element, high half. -/
  | imulh (v : VFields)
  /-- IMAD (R150): Integer multiply-add per element. -/
  | imad (v : VFields)
  /-- IMADW (R150): 32-bit multiply plus 64-bit addend into a pair. -/
  | imadw (v : VFields)
  /-- IADDC (R152): 32-bit add with carry in and carry out through mask registers. -/
  | iaddc (v : VFields)
  /-- ISUBB (R152): 32-bit subtract with borrow in and borrow out through mask registers. -/
  | isubb (v : VFields)
  /-- IMIN (R150): Integer minimum per element. -/
  | imin (v : VFields)
  /-- IMAX (R150): Integer maximum per element. -/
  | imax (v : VFields)
  /-- IABS (R151): Integer absolute value per element. -/
  | iabs (v : VFields)
  /-- ISAD (R151): Sum of absolute differences plus an accumulator. -/
  | isad (v : VFields)
  /-- ICLAMP (R150): Integer clamp per element. -/
  | iclamp (v : VFields)
  /-- IDOT2 (R153): Two-element 16-bit integer dot product with accumulate. -/
  | idot2 (v : VFields)
  /-- IDOT4 (R153): Four-element 8-bit integer dot product with accumulate. -/
  | idot4 (v : VFields)
  /-- ICMP (R154): Integer compare written to a mask register. -/
  | icmp (v : VFields)
  /-- AND (R155): Bitwise AND. -/
  | andB (v : VFields)
  /-- OR (R155): Bitwise OR. -/
  | orB (v : VFields)
  /-- XOR (R155): Bitwise XOR. -/
  | xorB (v : VFields)
  /-- ANDN (R155): Bitwise A AND NOT B. -/
  | andn (v : VFields)
  /-- LOP3 (R156): Any bitwise function of three inputs, given by two truth tables. -/
  | lop3 (v : VFields)
  /-- SHL (R157): Shift left, filling with zeros. -/
  | shl (v : VFields)
  /-- SHR (R157): Logical shift right. -/
  | shr (v : VFields)
  /-- SAR (R157): Arithmetic shift right. -/
  | sar (v : VFields)
  /-- ROT (R157): Rotate left or right. -/
  | rot (v : VFields)
  /-- FSHF (R158): Funnel shift of a 64-bit pair. -/
  | fshf (v : VFields)
  /-- BFE (R159): Bit-field extract, zero- or sign-extended. -/
  | bfe (v : VFields)
  /-- BFI (R159): Bit-field insert. -/
  | bfi (v : VFields)
  /-- BREV (R155): Bit reversal. -/
  | brev (v : VFields)
  /-- POPC (R160): Population count. -/
  | popc (v : VFields)
  /-- CLZ (R160): Count leading zeros. -/
  | clz (v : VFields)
  /-- CTZ (R160): Count trailing zeros. -/
  | ctz (v : VFields)
  /-- MOV (R161): Move source B, keeping its tag. -/
  | mov (v : VFields)
  /-- MOVL (R161): Move 16 bits into one half of D. -/
  | movl (v : VFields)
  /-- SEL (R162): Select A or B per lane by a mask register. -/
  | sel (v : VFields)
  /-- PRMT (R163): Byte permute of a register pair. -/
  | prmt (v : VFields)
  /-- SEXT (R164): Sign or zero extension from bit n. -/
  | sext (v : VFields)
  /-- MKAFF (R165): Make an affine register from a uniform base and stride. -/
  | mkaff (v : VFields)
  /-- MKGEN (R165): Copy a value with tag G. -/
  | mkgen (v : VFields)
  /-- SHAPE (R166): Read the tag, base or stride of a register. -/
  | shape (v : VFields)
  /-- LANEID (R167): Lane number, in-bundle index, bundle index or width. -/
  | laneid (v : VFields)
  /-- MSKOP (R168): Whole-mask logic on two mask registers. -/
  | mskop (v : VFields)
  /-- MSKMOV (R169): Copy a mask register's word into a vector register. -/
  | mskmov (v : VFields)
  /-- MSKMOV_LANE (R169): Set mask bits where a lane's value is non-zero. -/
  | mskmovLane (v : VFields)
  /-- MSKMOV_WORD (R169): Load a whole mask from a uniform word. -/
  | mskmovWord (v : VFields)
  /-- FADD (R172): Floating add, rounded once. -/
  | fadd (v : VFields)
  /-- FSUB (R172): Floating subtract. -/
  | fsub (v : VFields)
  /-- FMUL (R172): Floating multiply. -/
  | fmul (v : VFields)
  /-- FFMA (R172): Fused multiply-add with one rounding. -/
  | ffma (v : VFields)
  /-- FMIN (R173): minimumNumber. -/
  | fmin (v : VFields)
  /-- FMAX (R173): maximumNumber. -/
  | fmax (v : VFields)
  /-- FMINM (R173): minimum, NaN-propagating. -/
  | fminm (v : VFields)
  /-- FMAXM (R173): maximum, NaN-propagating. -/
  | fmaxm (v : VFields)
  /-- FCMP (R174): Floating compare written to a mask register. -/
  | fcmp (v : VFields)
  /-- FRND (R175): Round to an integral value. -/
  | frnd (v : VFields)
  /-- FFRAC (R175): Fractional part a minus floor(a). -/
  | ffrac (v : VFields)
  /-- FCLASS (R177): Classify into a 9-bit class field. -/
  | fclass (v : VFields)
  /-- FLDEXP (R176): Scale by a power of two. -/
  | fldexp (v : VFields)
  /-- FEXPO (R176): Extract the unbiased exponent. -/
  | fexpo (v : VFields)
  /-- FMANT (R176): Extract the mantissa in [1, 2). -/
  | fmant (v : VFields)
  /-- FDOT2 (R172): Two-element dot product into FP32. -/
  | fdot2 (v : VFields)
  /-- FDOT4 (R172): Four-element dot product into FP32. -/
  | fdot4 (v : VFields)
  /-- FCPYS (R178): Copy sign. -/
  | fcpys (v : VFields)
  /-- FMED3 (R178): Median of three. -/
  | fmed3 (v : VFields)
  /-- CVT (R180): Convert between the format pair that SUB selects. -/
  | cvt (v : VFields)
  /-- CVTPK (R181): Narrow two FP32 values and pack them. -/
  | cvtpk (v : VFields)
  /-- CVTUP (R182): Widen one packed element exactly to FP32. -/
  | cvtup (v : VFields)
  /-- QBLK (R184): Encode one block per bundle under a format slot. -/
  | qblk (v : VFields)
  /-- DQBLK (R185): Decode block-scaled codes to FP32. -/
  | dqblk (v : VFields)
  /-- RCP (R188): Approximate reciprocal. -/
  | rcp (v : VFields)
  /-- RSQ (R188): Approximate reciprocal square root. -/
  | rsq (v : VFields)
  /-- SQRT (R188): Correctly rounded square root. -/
  | sqrt (v : VFields)
  /-- EXP2 (R188): Base-2 exponential. -/
  | exp2 (v : VFields)
  /-- LOG2 (R188): Base-2 logarithm. -/
  | log2 (v : VFields)
  /-- SINPI (R188): sin(pi a). -/
  | sinpi (v : VFields)
  /-- COSPI (R188): cos(pi a). -/
  | cospi (v : VFields)
  /-- TANH (R188): Hyperbolic tangent. -/
  | tanh (v : VFields)
  /-- SIGM (R188): Logistic sigmoid. -/
  | sigm (v : VFields)
  /-- TBL (R195): Interpolate the low halves of an interpolating codebook bank. -/
  | tbl (v : VFields)
  /-- TBLI (R195): Interpolate the high halves of an interpolating codebook bank. -/
  | tbli (v : VFields)
  /-- DIVF (R189): Correctly rounded division. -/
  | divf (v : VFields)
  /-- SHFL (R198): Shuffle within the bundle by index, rotation, reversal or xor. -/
  | shfl (v : VFields)
  /-- RDFIRST (R199): Broadcast the lowest live lane's value as U. -/
  | rdfirst (v : VFields)
  /-- RDLANE (R199): Read lane n of each bundle. -/
  | rdlane (v : VFields)
  /-- WRLANE (R199): Write one lane of each bundle. -/
  | wrlane (v : VFields)
  /-- VOTE (R200): Bundle vote: any, all, none, same, mask, count or first. -/
  | vote (v : VFields)
  /-- MATCH (R201): Mask of the lanes in the bundle with an equal key. -/
  | matchKey (v : VFields)
  /-- COMPACT (R202): Warp-collective pack of the active lanes' values, with a count. -/
  | compact (v : VFields)
  /-- EXPAND (R202): Warp-collective spread of packed values to the active lanes. -/
  | expand (v : VFields)
  /-- REDUCE (R203): Bundle reduction in lane order. -/
  | reduce (v : VFields)
  /-- SCAN (R203): Bundle inclusive or exclusive scan. -/
  | scan (v : VFields)
  /-- SORTK (R204): Stable in-bundle sort of keys with payloads. -/
  | sortk (v : VFields)
  /-- IF (R208): Push a kind-1 entry and split the PC group on a condition. -/
  | ifCond (k : KFields)
  /-- ELSE (R208): Fix or check the join PC and park the executing lanes there. -/
  | elseJoin (k : KFields)
  /-- ENDIF (R208): Fix or check the join PC and park at it. -/
  | endif (k : KFields)
  /-- LOOP (R209): Push a kind-2 entry whose reconvergence PC is the loop exit. -/
  | loop (k : KFields)
  /-- ENDLOOP (R209): Repeat the body on the condition and park the others at the exit. -/
  | endloop (k : KFields)
  /-- BRK (R209): Withdraw lanes and park them at the innermost loop's exit. -/
  | brk (k : KFields)
  /-- CONT (R209): Send lanes to the latch clause. -/
  | cont (k : KFields)
  /-- JMP (R210): Move the PC group to a direct target. -/
  | jmp (k : KFields)
  /-- JMPU (R210): Jump on a uniform condition. -/
  | jmpu (k : KFields)
  /-- CALL (R211): Check the target, push a kind-3 entry and move to the entry clause. -/
  | call (k : KFields)
  /-- CALLI (R212): Indirect call with a target per lane. -/
  | calli (k : KFields)
  /-- RET (R213): Withdraw and park at the innermost call's return PC. -/
  | ret (k : KFields)
  /-- EXIT (R214): Retire every thread of the PC group. -/
  | exit (k : KFields)
  /-- SETBND (R215): Set the warp's bundle width. -/
  | setbnd (k : KFields)
  /-- NOP (R216): No effect beyond its yield bit. -/
  | nop (k : KFields)
  /-- LD (R250): Load 4 bytes per lane. -/
  | ld (m : MFields)
  /-- ST (R250): Store 4 bytes per lane. -/
  | st (m : MFields)
  /-- LDU (R251): One load for the lowest live lane, broadcast as U. -/
  | ldu (m : MFields)
  /-- LDQ (R250): Load of a given width per lane. -/
  | ldq (m : MFields)
  /-- STQ (R250): Store of a given width per lane. -/
  | stq (m : MFields)
  /-- ATOM (R255): Atomic read-modify-write per lane, returning or not. -/
  | atom (m : MFields)
  /-- CAS (R255): Compare-and-swap per lane. -/
  | cas (m : MFields)
  /-- ATOMU (R255): One atomic access applying every lane's operation in lane order. -/
  | atomu (m : MFields)
  /-- FENCE (R256): Hold until earlier accesses meet the ordering's condition. -/
  | fence (m : MFields)
  /-- WAITV (R257): Park until a memory word meets a condition. -/
  | waitv (m : MFields)
  /-- BSALLOC (R259): Allocate a block-store block per lane. -/
  | bsalloc (m : MFields)
  /-- BSFREE (R259): Free a block name. -/
  | bsfree (m : MFields)
  /-- BSSHARE (R259): Make a new name refer to an existing block. -/
  | bsshare (m : MFields)
  /-- BSLOOK (R260): Report a block's location and reference count. -/
  | bslook (m : MFields)
  /-- TEX (R262): Texture sample with implicit, biased or explicit level of detail. -/
  | tex (m : MFields)
  /-- TEXG (R262): Texture sample with explicit gradients. -/
  | texg (m : MFields)
  /-- RAYQ (R265): Trace a ray and return its closest hit. -/
  | rayq (m : MFields)
  /-- RAYB (R386): Trace a ray and append its hit record to a material bin. -/
  | rayb (m : MFields)
  /-- ATTR (R388): Interpolate the attributes of the lane's pixel or hit record. -/
  | attr (m : MFields)
  /-- MMA (R281): Warp-collective dense fragment matrix product. -/
  | mma (x : XFields)
  /-- MMAS (R281): Warp-collective 2:4 sparse fragment matrix product. -/
  | mmas (x : XFields)
  /-- MLOOP (R287): Issue a K-step matrix loop from operand maps into a tile. -/
  | mloop (x : XFields)
  /-- MLOOPS (R287): Issue a sparse matrix loop. -/
  | mloops (x : XFields)
  /-- ACCZ (R293): Zero a tile and clear its marks and status. -/
  | accz (x : XFields)
  /-- ACCLD (R294): Load a tile from memory. -/
  | accld (x : XFields)
  /-- ACCST (R294): Store a tile to memory. -/
  | accst (x : XFields)
  /-- ACCDRAIN (R296): Scale, bias, activate, narrow and write a tile's rows. -/
  | accdrain (x : XFields)
  /-- MAPCHK (R298): Report, without trapping, what a loop would meet with a map. -/
  | mapchk (x : XFields)
  /-- FRAGX_GET (R299): Warp-collective copy of a tile quadrant into a fragment. -/
  | fragxGet (x : XFields)
  /-- FRAGX_PUT (R299): Warp-collective copy of a fragment into a tile quadrant. -/
  | fragxPut (x : XFields)
  /-- FRAGX_STAT (R299): Read a tile's status word. -/
  | fragxStat (x : XFields)
  /-- CPY (R313): Start a multi-dimensional copy with optional conversion. -/
  | cpy (e : EFields)
  /-- CPYX (R318): Start back-reference expansion of a job card. -/
  | cpyx (e : EFields)
  /-- PFL2 (R316): Prefetch lines into the owners' L2. -/
  | pfl2 (e : EFields)
  /-- GATHR (R320): Start an indexed gather into scratchpad. -/
  | gathr (e : EFields)
  /-- SCATB (R321): Append per-lane records to scatter bins. -/
  | scatb (e : EFields)
  /-- BINRPL (R322): Replay a bin into its region. -/
  | binrpl (e : EFields)
  /-- MRGO (R325): Open a merge session. -/
  | mrgo (e : EFields)
  /-- MRGP (R326): Push per-lane records into a merge stream. -/
  | mrgp (e : EFields)
  /-- MRGC (R329): Close and merge a session into its output. -/
  | mrgc (e : EFields)
  /-- MRGS (R331): Read one word of the session's state. -/
  | mrgs (e : EFields)
  /-- TOKW (R309): Park until a token's operation is done, then acquire. -/
  | tokw (e : EFields)
  /-- TOKQ (R310): Read a token's status pair. -/
  | tokq (e : EFields)
  /-- CANCEL (R311): Stop the engine operation a token names. -/
  | cancel (e : EFields)
  /-- BAR (R339): Arrive at a barrier and park until the phase completes. -/
  | bar (f : SFields)
  /-- BARA (R339): Arrive at a barrier without waiting and return the phase. -/
  | bara (f : SFields)
  /-- BARW (R341): Park until a named phase of a barrier has completed. -/
  | barw (f : SFields)
  /-- SPAWN (R343): Send per-lane records to the node of an entry. -/
  | spawn (f : SFields)
  /-- EMIT (R343): Send per-lane records to a work-graph node. -/
  | emit (f : SFields)
  /-- CLAIM (R344): Take group numbers from the launch's central counter. -/
  | claim (f : SFields)
  /-- REGRP (R345): Arrive at a regrouping round. -/
  | regrp (f : SFields)
  /-- CBLOAD (R348): Check an image and begin filling a bank's shadow generation. -/
  | cbload (f : SFields)
  /-- CBCOMMIT (R349): Make a bank's shadow generation current. -/
  | cbcommit (f : SFields)
  /-- GWR (R350): Write a group register. -/
  | gwr (f : SFields)
  /-- GATOM (R351): Atomic operation on a group register, lane by lane. -/
  | gatom (f : SFields)
  /-- QSIG (R352): Add n to a queue token with R242's release. -/
  | qsig (f : SFields)
  /-- SLEEP (R353): Make the PC group ineligible for n cycles. -/
  | sleep (f : SFields)
  /-- FRAMEC (R354): Commit a frame to a display output with release at scope 6. -/
  | framec (f : SFields)
  /-- TRAP (R355): Raise software TRAP 0x40. -/
  | trap (f : SFields)
  /-- RTE (R356): Return from the handler to the trapped state. -/
  | rte (f : SFields)
  /-- RDSR (R357): Read a special register. -/
  | rdsr (f : SFields)
  /-- WRSR_CTL (R130): Write sr.ctl. -/
  | wrsrCtl (f : SFields)
  /-- WRSR_FLAGS (R357): Write each lane's sr.flags. -/
  | wrsrFlags (f : SFields)
  /-- WRSR_SEED (R129): Write sr.seed and reset every lane's generator. -/
  | wrsrSeed (f : SFields)
  /-- CLK (R358): Read sr.clock or sr.ftime into a pair. -/
  | clk (f : SFields)
  /-- BKPT (R355): Raise breakpoint 0x41. -/
  | bkpt (f : SFields)
  /-- RPLY (R356): Re-issue the pending lanes of a log entry. -/
  | rply (f : SFields)
  /-- HARVEST (R359): Write back every gathered DRT and ACC bit of an address space. -/
  | harvest (f : SFields)
  /-- DIAG (R360): Read one sampled monitor value. -/
  | diag (f : SFields)
  /-- FLG_CLR (R361): Clear flags in the live lanes. -/
  | flgClr (f : SFields)
  /-- FLG_TEST (R361): Test flags into a mask register. -/
  | flgTest (f : SFields)
  /-- BLOCK_MOVE (R226): The device moves a block-store block between the vault and the GDDR 7 pool as one atomic step toward every access. -/
  | blockMove (ctx block : Nat) (dest : BlockPlace)
  /-- IDLE_FLIT (R455): An idle flit arrives from the link partner and carries acknowledgements that free replay-buffer slots, or a resend request. -/
  | idleFlit (port : Nat) (flit : Flit)
  /-- HARVEST_ENTRIES_WRITTEN (R359): The last gathered DRT and ACC bit of a HARVEST is written into its page-table entry, and the parked PC group becomes eligible. -/
  | harvestEntriesWritten (grp wid lane : Nat)
  /-- SCHEDULING_BOUNDARY (R449): At each 64 µs boundary the scheduler reads WPTR and maps and unmaps queues onto hardware slots by priority. -/
  | schedulingBoundary
  /-- HOLDOVER (R468): With no beacon on any port for 1,000,000 ns, the module enters holdover and logs it. -/
  | holdover
  /-- DRAINED (R459): A DEPARTING module with no running context and every write acknowledged becomes DRAINED, and DEPART completes. -/
  | drained
  /-- START_HOLDOVER (R471): No beacon arrives within 10,000,000 ns of step 6, and the start continues in holdover. -/
  | startHoldover
  /-- STATUS (R475): Pelonar STATUS returns the start state, the failing step, the flags, GEN, the device id and the switch state. -/
  | status
  /-- READDT (R475): Pelonar READDT returns bytes of the discovery table. -/
  | readdt
  /-- CTXNEW (R478): Pelonar CTXNEW creates a context from a creation block and sets its measurement. -/
  | ctxnew
  /-- CTXEND (R475): Pelonar CTXEND terminates a context with cause 0x51 and the host's reason word. -/
  | ctxend
  /-- CTXSAVE (R475): Pelonar CTXSAVE saves a context and completes when its save area is written. -/
  | ctxsave
  /-- CTXRUN (R475): Pelonar CTXRUN makes a saved context eligible to resume. -/
  | ctxrun
  /-- DIAGRD (R408): Pelonar DIAGRD copies a terminated context's diagnostic record to host memory. -/
  | diagrd
  /-- QNEW (R442): Pelonar QNEW creates a user queue for a context from its header. -/
  | qnew
  /-- QRESTART (R446): Pelonar QRESTART clears a queue's stopped bit. -/
  | qrestart
  /-- QFREE (R475): Pelonar QFREE frees a queue that has no running launch. -/
  | qfree
  /-- MAP (R479): Pelonar MAP installs a leaf entry, splitting or replacing leaves in one shoot-down. -/
  | mapLeaf
  /-- UNMAP (R475): Pelonar UNMAP invalidates an entry with a shoot-down and returns the gathered DRT and ACC. -/
  | unmapLeaf
  /-- POOL (R476): Pelonar POOL adds 64 KiB pages of a lantern's GDDR 7 to its free-page pool. -/
  | pool
  /-- FAULTRSP_MAP (R480): Pelonar FAULTRSP with action map installs the host's leaf for a forwarded fault and marks the entry mapped. -/
  | faultrspMap
  /-- FAULTRSP_REFUSE (R480): Pelonar FAULTRSP with action refuse marks a forwarded fault entry refused. -/
  | faultrspRefuse
  /-- DISPSET (R477): Pelonar DISPSET assigns an output to a context and sets its mode, timing, retire record and pose page. -/
  | dispset
  /-- POSE (R470): Pelonar POSE sends a pose to the switch for broadcast to every module. -/
  | pose
  /-- DEPART (R459): Pelonar DEPART puts the module's id in DEPARTING and terminates or saves its contexts. -/
  | depart
  /-- EVLOG (R482): Pelonar EVLOG copies entries of the event log to host memory. -/
  | evlog
  /-- DBGATT_ATTACH (R406): Pelonar DBGATT with 1 attaches a debugger to a context. -/
  | dbgattAttach
  /-- DBGATT_DETACH (R406): Pelonar DBGATT with 0 detaches the debugger from a context. -/
  | dbgattDetach
  /-- SAVERW_TO_HOST (R476): Pelonar SAVERW with direction 0 copies bytes of a saved context's save area to host memory. -/
  | saverwToHost
  /-- SAVERW_TO_SAVE_AREA (R476): Pelonar SAVERW with direction 1 writes host bytes into a saved context's save area and recomputes its CRC. -/
  | saverwToSaveArea
  /-- GETID (R475): Pelonar GETID returns the public key, the serial and the ROM digest. -/
  | getid
  /-- ATTEST (R485): Pelonar ATTEST signs a report of the measurements and nonce with the identity key. -/
  | attest
  deriving DecidableEq, Repr

end Sys2Proof
end

