-- ==== Sys2Proof/Decode.lean ====
section
/-! DEFINITION. The decoder of instruction words (R78-R96, R106), total on any bits and rejecting by reason, and the
encoder, written from the same field maps.  `decodeSlot` reads one slot by itself; `decodeClause` adds what R106
checks between a header, its slots and their prefixes. -/

namespace Sys2Proof

/-! ### Field maps -/

/-- Bits `lo + n - 1` to `lo` of a word. -/
def bits (w : Dword) (lo n : Nat) : BitVec n := w.extractLsb' lo n

/-- A field placed at bit `lo` of a word. -/
def put {n : Nat} (x : BitVec n) (lo : Nat) : Dword := x.setWidth 64 <<< lo

/-- Format V (R86). -/
def VFields.ofWord (w : Dword) : VFields :=
  { y := w.getLsbD 55, q := w.getLsbD 54, ty := bits w 51 3, bk := bits w 49 2, d := bits w 41 8, a := bits w 33 8
    b := bits w 25 8, c := bits w 17 8, cb := bits w 14 3, cw := w.getLsbD 13, sel := bits w 10 3, hi := w.getLsbD 9
    mod := bits w 5 4, sub := bits w 0 5 }

/-- The word of format V with an opcode. -/
def VFields.toWord (v : VFields) (op : BitVec 8) : Dword :=
  put op 56 ||| put (BitVec.ofBool v.y) 55 ||| put (BitVec.ofBool v.q) 54 ||| put v.ty 51 ||| put v.bk 49 ||| put v.d 41 |||
    put v.a 33 ||| put v.b 25 ||| put v.c 17 ||| put v.cb 14 ||| put (BitVec.ofBool v.cw) 13 ||| put v.sel 10 |||
    put (BitVec.ofBool v.hi) 9 ||| put v.mod 5 ||| put v.sub 0

/-- Format P (R90). -/
def PFields.ofWord (w : Dword) : PFields :=
  { msk := bits w 51 3, mz := w.getLsbD 50, rnd := bits w 47 3, sat := w.getLsbD 46, e := bits w 38 8
    ev := w.getLsbD 37, lv := w.getLsbD 33, lit := bits w 0 32 }

/-- The word of a prefix (R90). -/
def PFields.toWord (p : PFields) : Dword :=
  put 0xFF#8 56 ||| put p.msk 51 ||| put (BitVec.ofBool p.mz) 50 ||| put p.rnd 47 ||| put (BitVec.ofBool p.sat) 46 |||
    put p.e 38 ||| put (BitVec.ofBool p.ev) 37 ||| put (BitVec.ofBool p.lv) 33 ||| put p.lit 0

/-- Format M (R92). -/
def MFields.ofWord (w : Dword) : MFields :=
  { y := w.getLsbD 55, d := bits w 46 8, a := bits w 38 8, b := bits w 30 8, sp := bits w 27 3, sco := bits w 24 3
    ord := bits w 22 2, ch := bits w 20 2, bo := w.getLsbD 19, off := bits w 0 19 }

/-- The word of format M with an opcode; `Q` is 0. -/
def MFields.toWord (m : MFields) (op : BitVec 8) : Dword :=
  put op 56 ||| put (BitVec.ofBool m.y) 55 ||| put m.d 46 ||| put m.a 38 ||| put m.b 30 ||| put m.sp 27 |||
    put m.sco 24 ||| put m.ord 22 ||| put m.ch 20 ||| put (BitVec.ofBool m.bo) 19 ||| put m.off 0

/-- Format K (R93). -/
def KFields.ofWord (w : Dword) : KFields :=
  { y := w.getLsbD 55, m := bits w 51 3, neg := w.getLsbD 50, a := bits w 42 8, tgt := bits w 0 32 }

/-- The word of format K with an opcode; `Q` and bits 41:32 are 0. -/
def KFields.toWord (k : KFields) (op : BitVec 8) : Dword :=
  put op 56 ||| put (BitVec.ofBool k.y) 55 ||| put k.m 51 ||| put (BitVec.ofBool k.neg) 50 ||| put k.a 42 ||| put k.tgt 0

/-- Format X (R94). -/
def XFields.ofWord (w : Dword) : XFields :=
  { y := w.getLsbD 55, fa := bits w 51 3, fb := bits w 48 3, fc := bits w 45 3, shape := bits w 40 5, a := bits w 32 8
    b := bits w 24 8, c := bits w 16 8, kc := bits w 8 8, zc := w.getLsbD 7, sp := w.getLsbD 6, st := w.getLsbD 5
    ce := w.getLsbD 4, sub := bits w 0 4 }

/-- The word of format X with an opcode; `Q` is 0. -/
def XFields.toWord (x : XFields) (op : BitVec 8) : Dword :=
  put op 56 ||| put (BitVec.ofBool x.y) 55 ||| put x.fa 51 ||| put x.fb 48 ||| put x.fc 45 ||| put x.shape 40 |||
    put x.a 32 ||| put x.b 24 ||| put x.c 16 ||| put x.kc 8 ||| put (BitVec.ofBool x.zc) 7 |||
    put (BitVec.ofBool x.sp) 6 ||| put (BitVec.ofBool x.st) 5 ||| put (BitVec.ofBool x.ce) 4 ||| put x.sub 0

/-- Format E (R95). -/
def EFields.ofWord (w : Dword) : EFields :=
  { y := w.getLsbD 55, desc := bits w 46 8, tok := bits w 38 8, a := bits w 30 8, sub := bits w 25 5
    imm := bits w 0 25 }

/-- The word of format E with an opcode; `Q` is 0. -/
def EFields.toWord (e : EFields) (op : BitVec 8) : Dword :=
  put op 56 ||| put (BitVec.ofBool e.y) 55 ||| put e.desc 46 ||| put e.tok 38 ||| put e.a 30 ||| put e.sub 25 ||| put e.imm 0

/-- Format S (R96). -/
def SFields.ofWord (w : Dword) : SFields :=
  { y := w.getLsbD 55, d := bits w 46 8, a := bits w 38 8, b := bits w 30 8, sub := bits w 25 5, id := bits w 20 5
    imm := bits w 0 20 }

/-- The word of format S with an opcode; `Q` is 0. -/
def SFields.toWord (f : SFields) (op : BitVec 8) : Dword :=
  put op 56 ||| put (BitVec.ofBool f.y) 55 ||| put f.d 46 ||| put f.a 38 ||| put f.b 30 ||| put f.sub 25 |||
    put f.id 20 ||| put f.imm 0

/-- `IMM16` of format V, bits 32:17 of the word (R88). -/
def VFields.imm16 (v : VFields) : BitVec 16 := v.b ++ v.c

/-! ### Formats and classes -/

/-- The formats of R84; `P` is the prefix. -/
inductive Format where
  | v | p | m | k | x | e | s
  deriving DecidableEq, Repr

/-- The format of an assigned opcode (R83, R84). -/
def formatOf (op : Nat) : Option Format :=
  if op ≤ 0x2A then some .v
  else if 0x40 ≤ op ∧ op ≤ 0x57 then some .v
  else if 0x60 ≤ op ∧ op ≤ 0x6B then some .v
  else if 0x80 ≤ op ∧ op ≤ 0x8A then some .v
  else if 0x90 ≤ op ∧ op ≤ 0x9E then some .k
  else if 0xA0 ≤ op ∧ op ≤ 0xB2 then some .m
  else if 0xC0 ≤ op ∧ op ≤ 0xC9 then some .x
  else if 0xD0 ≤ op ∧ op ≤ 0xDC then some .e
  else if 0xE0 ≤ op ∧ op ≤ 0xED then some .s
  else if 0xF0 ≤ op ∧ op ≤ 0xF9 then some .s
  else if op = 0xFF then some .p
  else none

/-- A class is reserved (R78). -/
def classReserved (cls : Nat) : Bool := cls = 3 || 7 ≤ cls

/-- What a class admits, prefixes and control slots apart (R80). -/
def classAdmits (cls op : Nat) : Format → Bool
  | .v => cls ≠ 6 || !(op = 0x56 || op = 0x57 || (0x80 ≤ op && op ≤ 0x8A))
  | .p => true
  | .k => true
  | .m => cls = 1
  | .x => cls = 2
  | .e => cls = 4
  | .s => cls = 5

/-- Opcodes whose arithmetic sets `sr.flags` and that have `Q` and `MOD` (R82, R89). -/
def floatOp (op : Nat) : Bool := (0x40 ≤ op && op ≤ 0x57) || (0x60 ≤ op && op ≤ 0x6B)

/-! ### Format V: what each instruction uses (R141-R204) -/

/-- How an operand field of format V is used: not at all, a register, an even register of a pair, a mask in its low
three bits, or a value of the instruction's own that no register check concerns. -/
inductive Use where
  | none
  | reg
  | pair
  | mask
  | raw
  deriving DecidableEq, Repr

/-- The use of the fields of a format V instruction, for its `TY` and `SUB`.  `bGpr`: B takes `BK` 00 only; `dSrc`: D
is read as well; `cDst`: C is a destination; the rest say which prefix fields it accepts. -/
structure VDesc where
  d : Use
  a : Use
  b : Use
  c : Use
  bGpr : Bool
  dSrc : Bool
  cDst : Bool
  msk : Bool
  mz : Bool
  rnd : Bool
  sat : Bool
  ev : Bool
  lv : Bool
  deriving DecidableEq, Repr

/-- A description with the given uses and no prefix field but `MSK`, `MZ` and `LV`. -/
def VDesc.mk' (d a b c : Use) : VDesc :=
  { d, a, b, c, bGpr := false, dSrc := false, cDst := false, msk := true, mz := true, rnd := false, sat := false
    ev := false, lv := true }

/-- A description that accepts `RND`, `SAT`. -/
def VDesc.rounds (v : VDesc) (sat : Bool) : VDesc := { v with rnd := true, sat }

/-- A lane instruction's description, which accepts `MSK` and `MZ` only (R196). -/
def VDesc.lane (v : VDesc) : VDesc := { v with lv := false }

/-- The description of an integer, logic or move instruction (R150-R169), or none if `TY` or `SUB` is inadmissible. -/
def vDescInt (op ty sub : Nat) : Option VDesc :=
  let p : Use := if ty = 6 then .pair else .reg
  let ifOk (c : Bool) (d : VDesc) : Option VDesc := if c then some d else none
  let bits2 : Bool := ty = 0 || ty = 6
  match op with
  | 0x00 | 0x01 | 0x02 => ifOk (ty ≤ 6 && sub = 0) { VDesc.mk' p p p .none with sat := ty ≠ 6 }
  | 0x03 => ifOk (ty ≤ 3 && sub = 0) (VDesc.mk' .reg .reg .reg .none)
  | 0x04 => ifOk (ty ≤ 5 && sub = 0) { VDesc.mk' .reg .reg .reg .reg with sat := true }
  | 0x05 => ifOk (ty ≤ 1 && sub = 0) (VDesc.mk' .pair .reg .reg .pair)
  | 0x06 | 0x07 => ifOk (ty ≤ 1 && sub = 0) (VDesc.mk' .reg .reg .reg .raw)
  | 0x08 | 0x09 => ifOk (ty ≤ 5 && sub = 0) (VDesc.mk' .reg .reg .reg .none)
  | 0x0A => ifOk ((ty = 0 || ty = 2 || ty = 4) && sub = 0) { VDesc.mk' .reg .reg .none .none with sat := true }
  | 0x0B | 0x0C => ifOk (ty ≤ 5 && sub = 0) (VDesc.mk' .reg .reg .reg .reg)
  | 0x0D => ifOk ((ty = 2 || ty = 3) && sub ≤ 1) { VDesc.mk' .reg .reg .reg .reg with sat := true }
  | 0x0E => ifOk ((ty = 4 || ty = 5) && sub ≤ 1) { VDesc.mk' .reg .reg .reg .reg with sat := true }
  | 0x0F => ifOk ((ty ≤ 1 || ty = 6) && sub ≤ 5) (VDesc.mk' .mask p p .none)
  | 0x10 | 0x11 | 0x12 | 0x13 => ifOk (bits2 && sub = 0) (VDesc.mk' p p p .none)
  | 0x14 => ifOk (bits2 && sub = 0) { VDesc.mk' p p p .raw with ev := true }
  | 0x15 | 0x16 | 0x17 => ifOk (bits2 && sub = 0) (VDesc.mk' p p .reg .none)
  | 0x18 => ifOk (bits2 && sub ≤ 1) (VDesc.mk' p p .reg .none)
  | 0x19 => ifOk (ty = 0 && sub ≤ 1) (VDesc.mk' .reg .reg .reg .reg)
  | 0x1A => ifOk (ty = 0 && sub ≤ 1) (VDesc.mk' .reg .reg .reg .none)
  | 0x1B => ifOk (ty = 0 && sub = 0) (VDesc.mk' .reg .reg .reg .reg)
  | 0x1C => ifOk (bits2 && sub = 0) (VDesc.mk' p p .none .none)
  | 0x1D | 0x1E | 0x1F => ifOk (bits2 && sub = 0) (VDesc.mk' .reg p .none .none)
  | 0x20 => ifOk (bits2 && sub = 0) (VDesc.mk' p .none p .none)
  | 0x21 => ifOk (ty = 0 && sub ≤ 1) { VDesc.mk' .reg .none .reg .none with dSrc := true }
  | 0x22 => ifOk (bits2 && sub ≤ 7) (VDesc.mk' p p p .none)
  | 0x23 => ifOk (ty = 0 && sub ≤ 1) (VDesc.mk' .reg .reg .reg .reg)
  | 0x24 => ifOk (ty = 0 && sub ≤ 1) (VDesc.mk' .reg .reg .reg .none)
  | 0x25 => ifOk (ty = 0 && sub = 0) (VDesc.mk' .reg .reg .reg .none)
  | 0x26 => ifOk (ty = 0 && sub = 0) (VDesc.mk' .reg .reg .none .none)
  | 0x27 => ifOk (ty = 0 && sub ≤ 2) (VDesc.mk' .reg .reg .none .none)
  | 0x28 => ifOk (ty = 0 && sub ≤ 3) (VDesc.mk' .reg .none .none .none)
  | 0x29 =>
    ifOk (ty = 0 && sub ≤ 5)
      { VDesc.mk' .mask .mask (if sub ≤ 3 then .mask else .none) .none with bGpr := true, msk := false, mz := false }
  | 0x2A =>
    ifOk (ty = 0 && sub ≤ 2)
      (if sub = 0 then { VDesc.mk' .reg .mask .none .none with msk := false, mz := false }
       else if sub = 1 then VDesc.mk' .mask .reg .none .none
       else { VDesc.mk' .mask .reg .none .none with msk := false, mz := false })
  | _ => none

/-- CVT pairs that accept `SAT` (R179). -/
def cvtSat (sub : Nat) : Bool := sub ∈ [0x02, 0x03, 0x08, 0x09, 0x0A, 0x0F]

/-- CVT pairs whose source is an integer (R89, R179). -/
def cvtInt (sub : Nat) : Bool := sub ∈ [0x04, 0x05, 0x0B, 0x0C]

/-- The description of a floating-point, conversion, table or special-function instruction (R172-R195). -/
def vDescFloat (op ty sub : Nat) : Option VDesc :=
  let ifOk (c : Bool) (d : VDesc) : Option VDesc := if c then some d else none
  let five : Bool := ty ≤ 4
  match op with
  | 0x40 | 0x41 | 0x42 | 0x4C => ifOk (five && sub = 0) ((VDesc.mk' .reg .reg .reg .none).rounds true)
  | 0x43 => ifOk (five && sub = 0) ((VDesc.mk' .reg .reg .reg .reg).rounds true)
  | 0x44 | 0x45 | 0x46 | 0x47 => ifOk (five && sub = 0) (VDesc.mk' .reg .reg .reg .none)
  | 0x48 => ifOk ((ty = 0 || ty = 3 || ty = 4) && sub ≤ 7) (VDesc.mk' .mask .reg .reg .none)
  | 0x49 => ifOk (five && sub = 0) ((VDesc.mk' .reg .reg .none .none).rounds false)
  | 0x4A | 0x4B | 0x4D | 0x4E => ifOk (five && sub = 0) (VDesc.mk' .reg .reg .none .none)
  | 0x4F => ifOk ((ty = 1 || ty = 2) && sub = 0) ((VDesc.mk' .reg .reg .reg .reg).rounds true)
  | 0x50 => ifOk ((ty = 1 || ty = 2) && sub = 0) ((VDesc.mk' .reg .pair .pair .reg).rounds true)
  | 0x51 => ifOk (five && sub ≤ 2) (VDesc.mk' .reg .reg .reg .none)
  | 0x52 => ifOk (five && sub = 0) (VDesc.mk' .reg .reg .reg .reg)
  | 0x53 =>
    ifOk (ty = 0 && sub ≤ 0x10)
      { VDesc.mk' (if sub = 0x0D ∨ sub = 0x0E then .pair else .reg)
          (if 0x08 ≤ sub ∧ sub ≤ 0x0C then .pair else .reg) .none .none with rnd := 2 ≤ sub, sat := cvtSat sub }
  | 0x54 => ifOk (ty = 0 && sub ≤ 9) { (VDesc.mk' .reg .reg .reg .none).rounds true with dSrc := 2 ≤ sub }
  | 0x55 => ifOk (ty = 0 && sub ≤ 0x13) (VDesc.mk' .reg .reg .none .none)
  | 0x56 => ifOk (ty = 0 && sub ≤ 7) ((VDesc.mk' .reg .reg .none .none).rounds true)
  | 0x57 => ifOk (ty = 0 && sub ≤ 7) ((VDesc.mk' .reg .reg .reg .none).rounds true)
  | 0x60 | 0x61 | 0x63 | 0x64 | 0x65 | 0x66 | 0x67 | 0x68 =>
    ifOk (five && sub = 0) (VDesc.mk' .reg .reg .none .none)
  | 0x62 => ifOk (five && sub = 0) ((VDesc.mk' .reg .reg .none .none).rounds true)
  | 0x69 | 0x6A => ifOk (five && sub < 24) (VDesc.mk' .reg .reg .none .none)
  | 0x6B => ifOk (five && sub = 0) ((VDesc.mk' .reg .reg .reg .none).rounds true)
  | _ => none

/-- The description of a lane instruction (R196-R204). -/
def vDescLane (op ty sub : Nat) : Option VDesc :=
  let p : Use := if ty = 6 then .pair else .reg
  let ifOk (c : Bool) (d : VDesc) : Option VDesc := if c then some d.lane else none
  let bits2 : Bool := ty = 0 || ty = 6
  match op with
  | 0x80 => ifOk bits2 (VDesc.mk' p p .reg .none)
  | 0x81 => ifOk (bits2 && sub = 0) (VDesc.mk' p p .none .none)
  | 0x82 => ifOk (bits2 && sub = 0) (VDesc.mk' p p .reg .none)
  | 0x83 => ifOk (bits2 && sub = 0) { VDesc.mk' p p .reg .none with mz := false }
  | 0x84 =>
    ifOk (ty = 0 && sub < 16 && sub % 8 ≠ 7)
      (VDesc.mk' (if sub % 8 < 4 then .mask else .reg) (if 8 ≤ sub then .mask else .reg) .none .none)
  | 0x85 => ifOk (bits2 && sub = 0) (VDesc.mk' .reg p .none .none)
  | 0x86 => ifOk (bits2 && sub = 0) { VDesc.mk' p p .none .reg with cDst := true }
  | 0x87 => ifOk (bits2 && sub = 0) (VDesc.mk' p p .none .none)
  | 0x88 => ifOk (bits2 && sub ≤ 8 && !(sub = 8 && ty = 6)) (VDesc.mk' p p .none .none)
  | 0x89 => ifOk (bits2 && sub % 16 ≤ 8 && !(sub % 16 = 8 && ty = 6)) (VDesc.mk' p p .none .none)
  | 0x8A => ifOk (ty = 0 && sub < 8 && sub % 4 ≠ 3) { VDesc.mk' .reg .reg .reg .reg with bGpr := true, cDst := true }
  | _ => none

/-- The description of a format V instruction. -/
def vDesc (op ty sub : Nat) : Option VDesc :=
  if op < 0x40 then vDescInt op ty sub else if op < 0x80 then vDescFloat op ty sub else vDescLane op ty sub

/-- The least reason whose condition holds (R106: the checks run in the order of the reasons). -/
def firstReason : List (Nat × Bool) → Option Nat
  | [] => none
  | (r, c) :: t => if c then some r else firstReason t

/-- An operand field breaks its use: it is not 0 though unused, or names a mask with high bits (R85, R86). -/
def badZero (u : Use) (f : BitVec 8) : Bool :=
  match u with
  | .none => f ≠ 0
  | .mask => 8 ≤ f.toNat
  | _ => false

/-- An operand field that names a pair is odd (R145). -/
def badPair (u : Use) (f : BitVec 8) : Bool := u = .pair && f.getLsbD 0

/-- The first failing check of a format V slot, of reasons 3 to 7 (R85-R89, R106, R145). -/
def vReason (op : Nat) (v : VFields) : Option Nat :=
  match vDesc op v.ty.toNat v.sub.toNat with
  | none => some 3
  | some d =>
    -- the lane operand of SHFL, RDLANE and WRLANE is 32 bits also with `.b64` (R197, R198)
    let b64 : Bool := !floatOp op && op < 0x80 && v.ty = 6
    let bk := v.bk.toNat
    let imm : Bool := bk = 2
    let r3 := badPair d.d v.d || badPair d.a v.a || (bk = 0 && badPair d.b v.b) ||
      (!imm && badPair d.c v.c) || (bk = 1 && (b64 || d.b = .pair))
    let r4 := badZero d.d v.d || badZero d.a v.a || (!imm && badZero d.b v.b) || (!imm && badZero d.c v.c) ||
      (bk ≠ 0 && (d.b = .none || d.b = .mask || d.bGpr)) || (bk = 1 && 16 ≤ v.b.toNat) ||
      (bk ≠ 3 && (v.cb ≠ 0 || v.cw || v.sel ≠ 0 || v.hi)) || (bk = 3 && v.hi && (b64 || d.b = .pair)) ||
      (imm && op < 0x10 && (v.ty = 4 || v.ty = 5) && v.b ≠ 0) ||
      ((op = 0x06 || op = 0x07) && 64 ≤ v.c.toNat) || (d.cDst && v.c = v.d)
    let r6 := (!floatOp op && (v.q || v.mod ≠ 0)) || (op = 0x53 && cvtInt v.sub.toNat && v.mod ≠ 0)
    let r7 := (imm && (d.c ≠ .none || op = 0x57)) || (bk = 3 && v.cw && 4 ≤ v.sel.toNat)
    firstReason [(3, r3), (4, r4), (6, r6), (7, r7)]

/-! ### The other formats -/

/-- Registers that an access of a width code of R249 fills, with the bytes; none if the code is reserved. -/
def widthOf (code : Nat) : Option (Nat × Nat) :=
  match code with
  | 0 | 8 => some (1, 1)
  | 1 | 9 => some (2, 1)
  | 2 => some (4, 1)
  | 3 => some (8, 2)
  | 4 => some (16, 4)
  | _ => none

/-- `ATY` admitted with an `AOP` (R254). -/
def atomAdmits (aop aty : Nat) : Bool :=
  if aop ≤ 2 then aty ≤ 3
  else if aop ≤ 6 then aty = 0 || aty = 2
  else if aop ≤ 8 then aty = 0
  else aop = 9 && (4 ≤ aty && aty ≤ 6)

/-- `RET` of the operation word (R253). -/
def MFields.ret (m : MFields) : Bool := m.off.getLsbD 11
/-- `ATY` of the operation word (R253). -/
def MFields.aty (m : MFields) : Nat := (m.off.extractLsb' 8 3).toNat
/-- `AOP` of the operation word (R253). -/
def MFields.aop (m : MFields) : Nat := (m.off.extractLsb' 4 4).toNat

/-- `SP` admitted by an opcode of format M (R245). -/
def mSpace (op sp : Nat) : Bool :=
  if op ≤ 0xA7 then sp ≤ 5
  else if op = 0xA8 then sp = 0
  else if op = 0xA9 then sp ≤ 2
  else if op ≤ 0xAD then sp = 3
  else if op ≤ 0xAF || op = 0xB2 then sp = 1 || sp = 5
  else sp = 0

/-- `ORD` admitted by an opcode of format M (R245). -/
def mOrder (op ord : Nat) : Bool :=
  if op = 0xA0 || op = 0xA2 || op = 0xA3 then ord ≠ 2
  else if op = 0xA1 || op = 0xA4 then ord = 0 || ord = 2
  else if op ≤ 0xA8 then true
  else if op = 0xA9 then ord ≤ 1
  else ord = 0

/-- Opcodes whose `OFF` holds an offset (R245). -/
def mOffset (op : Nat) : Bool := op ≤ 0xA4 || op = 0xA9 || 0xAE ≤ op

/-- The first failing check of a format M slot (R245, R246, R249, R253, R258, R263).  DESIGN CHOICE (log entry 117): a CAS whose `AOP`
is not 0 gives reason 3, a reserved operation word, and its other non-zero bits shown as 0 reason 4. -/
def mReason (op : Nat) (m : MFields) : Option Nat :=
  let b := m.b.toNat
  let w := widthOf (b % 16)
  let wide : Bool := op = 0xA2 || op = 0xA3 || op = 0xA4
  let atom : Bool := op = 0xA5 || op = 0xA6 || op = 0xA7
  let d2 : Bool := m.d.getLsbD 0
  let r3 :=
    (wide && (w.isNone || (op = 0xA4 && 8 ≤ b % 16) || (b % 16 = 3 && d2) || (b % 16 = 4 && m.d.toNat % 4 ≠ 0))) ||
    (op = 0xA9 && 6 ≤ b % 8) || (op = 0xAE && b % 4 = 3) ||
    (atom && ((if op = 0xA6 then !m.ret || m.aop ≠ 0 || !(m.aty = 0 || m.aty = 2) else !atomAdmits m.aop m.aty) ||
      ((m.aty = 2 || m.aty = 3) && (d2 || m.b.getLsbD 0))))
  let r4 :=
    (op = 0xA8 && m.d ≠ 0) || (op = 0xAB && m.d ≠ 0) || (op = 0xA8 && m.a ≠ 0) ||
    ((op = 0xA0 || op = 0xA1) && !m.bo && b ≠ 0) || (!(op = 0xA0 || op = 0xA1) && m.bo) ||
    ((wide || op = 0xA9) && 16 ≤ b) || (op = 0xAE && 4 ≤ b) ||
    ((op = 0xA8 || (0xAA ≤ op && op ≤ 0xAD) || op = 0xAF || op = 0xB2) && b ≠ 0) ||
    (atom && (!m.ret && b ≠ 0)) || (atom && (m.off.extractLsb' 12 7 ≠ 0 || m.off.extractLsb' 0 4 ≠ 0)) ||
    (!(mOffset op || atom) && m.off ≠ 0) || (0xAA ≤ op && m.sco ≠ 0) ||
    (0xA8 ≤ op && op ≤ 0xAD && m.ch ≠ 0)
  let r5 := !mSpace op m.sp.toNat || !mOrder op m.ord.toNat || m.sco = 7
  let r7 := m.sp = 0 && m.a.getLsbD 0
  firstReason [(3, r3), (4, r4), (5, r5), (7, r7)]

/-- The first failing check of a format K slot (R205, R206, R212, R215). -/
def kReason (op : Nat) (k : KFields) : Option Nat :=
  let cond : Bool := op = 0x90 || op = 0x94 || op = 0x95 || op = 0x96
  let useA : Bool := op = 0x98 || op = 0x9A || op = 0x9D
  let useT : Bool := op = 0x90 || op = 0x91 || op = 0x93 || op = 0x94 || (0x96 ≤ op && op ≤ 0x99) || op = 0x9D
  let r3 := op = 0x9A && k.a.getLsbD 0
  let r4 := (!cond && k.m ≠ 0) || (k.neg && k.m = 0 && op ≠ 0x98) || (!useA && k.a ≠ 0) || (!useT && k.tgt ≠ 0) ||
    (op = 0x9D && (5 < k.tgt.toNat || (k.tgt ≠ 0 && k.a ≠ 0)))
  firstReason [(3, r3), (4, r4)]

/-- The first failing check of a format X slot (R273, R294).  DESIGN CHOICE (log entry 119): bits of `SUB` that are shown as 0 give
reason 4 for MLOOP, ACCZ and ACCDRAIN, and reason 3 for MMA, ACCLD, ACCST, MAPCHK and FRAGX, to which `SUB` gives values. -/
def xReason (op : Nat) (x : XFields) : Option Nat :=
  let mm : Bool := op = 0xC0 || op = 0xC1
  let lp : Bool := op = 0xC2 || op = 0xC3
  let shape := x.shape.toNat
  let sub := x.sub.toNat
  let tile : Bool := lp || (0xC4 ≤ op && op ≤ 0xC7) || op = 0xC9
  let shp : Bool := lp || op = 0xC8
  let r3 := (mm && 3 ≤ shape) || (shp && !(8 ≤ shape && shape ≤ 10)) ||
    ((op = 0xC5 || op = 0xC6) && (3 ≤ sub || (sub = 1 && x.a.getLsbD 0))) || (mm && 8 ≤ sub) || (op = 0xC8 && 2 ≤ sub) ||
    (op = 0xC9 && 3 ≤ sub)
  let r4 := (!(mm || shp) && shape ≠ 0) || (!mm && (x.fa ≠ 0 || x.fb ≠ 0)) ||
    ((op = 0xC6 || op = 0xC8 || op = 0xC9) && x.fc ≠ 0) || (op = 0xC4 && x.a ≠ 0) ||
    ((op = 0xC4 || op = 0xC7 || op = 0xC8 || op = 0xC9) && x.b ≠ 0) || (tile && 8 ≤ x.c.toNat) ||
    (!(lp || op = 0xC8 || op = 0xC9) && x.kc ≠ 0) || (op = 0xC9 && 4 ≤ x.kc.toNat) || (!(mm || lp) && x.zc) ||
    ((op = 0xC1 || op = 0xC3) && !x.sp) || (!(op = 0xC1 || op = 0xC3 || op = 0xC8) && x.sp) ||
    (!(op = 0xC3 || op = 0xC8) && x.st) || (!lp && x.ce) ||
    ((lp || op = 0xC4 || op = 0xC7) && sub ≠ 0) || (op = 0xC8 && sub = 1 && (x.sp || x.st))
  firstReason [(3, r3), (4, r4)]

/-- The first failing check of a format E slot (R302, R320, R331). -/
def eReason (op : Nat) (e : EFields) : Option Nat :=
  let sub := e.sub.toNat
  let useD : Bool := op = 0xD0 || op = 0xD1 || (0xD3 ≤ op && op ≤ 0xD6)
  let useT : Bool := op ≠ 0xD9
  let useA : Bool := op = 0xD2 || op = 0xD4 || op = 0xD7 || op = 0xD9 || op = 0xDB
  let useS : Bool := op = 0xD4 || op = 0xD7 || op = 0xD9
  let useI : Bool := op = 0xD2 || op = 0xD5
  let r3 := (useT && e.tok.getLsbD 0) || ((op = 0xD2 || op = 0xDB) && e.a.getLsbD 0) || (op = 0xD2 && e.imm = 0) ||
    (op = 0xD4 && 5 ≤ sub % 8) || (op = 0xD9 && 4 ≤ sub && sub < 16)
  let r4 := (!useD && e.desc ≠ 0) || (!useT && e.tok ≠ 0) || (!useA && e.a ≠ 0) || (!useS && e.sub ≠ 0) ||
    (!useI && e.imm ≠ 0) || (op = 0xD4 && 8 ≤ sub) || (op = 0xD7 && 16 ≤ sub)
  firstReason [(3, r3), (4, r4)]

/-- Number of indices of a special-register group (R357). -/
def srIndices (group : Nat) : Nat :=
  match group with
  | 0 | 1 | 2 | 5 => 1
  | 3 => 7
  | 4 | 8 => 8
  | 6 => 16
  | 7 => 256
  | _ => 0

/-- The first failing check of a format S slot (R335, R357, R360). -/
def sReason (op : Nat) (f : SFields) : Option Nat :=
  let sub := f.sub.toNat
  let id := f.id.toNat
  let imm := f.imm.toNat
  let odd (r : BitVec 8) : Bool := r.getLsbD 0
  let useD : Bool := op = 0xE1 || (0xE3 ≤ op && op ≤ 0xE5) || op = 0xEA || op = 0xF2 || op = 0xF4 || op = 0xF8
  let useA : Bool := (0xE2 ≤ op && op ≤ 0xE4) || op = 0xE6 || op = 0xE7 || (op = 0xE9 && sub = 0) ||
    (op = 0xEA && sub = 9) || op = 0xEB || (op = 0xEC && sub = 1) || op = 0xED || op = 0xF3 || op = 0xF7
  let useB : Bool := op = 0xE3 || op = 0xE4 || op = 0xE6 || op = 0xEA
  let subs : Nat := if op = 0xEA then 10 else if op = 0xE9 || op = 0xEC || op = 0xF4 || op = 0xF9 then 2 else 0
  let idMax : Nat :=
    if op ≤ 0xE2 then 32 else if op = 0xE6 || op = 0xE9 || op = 0xEA then 16 else if op = 0xE7 || op = 0xE8 then 8
    else if op = 0xED then 4 else if op = 0xF2 || op = 0xF3 then 32 else 1
  let immMax : Nat :=
    if op ≤ 0xE1 then 64 else if op = 0xE3 || op = 0xE4 then 32
    else if op = 0xE5 || op = 0xE6 || (op = 0xE9 && sub = 1) || op = 0xEB || (op = 0xEC && sub = 0) || op = 0xF0 ||
      op = 0xF2 || op = 0xF3 || op = 0xF5 || op = 0xF8 then 1048576
    else if op = 0xF6 then 8 else if op = 0xF9 then 32 else 1
  let r3 := (subs ≠ 0 && subs ≤ sub) || (op ≤ 0xE2 && 16 ≤ id) ||
    ((op = 0xE3 || op = 0xE4) && 16 < imm % 32) || ((op = 0xE5 || op = 0xEB) && imm = 0) ||
    ((op = 0xE3 || op = 0xEB || op = 0xED) && odd f.a) || ((op = 0xE5 || op = 0xF4) && odd f.d) ||
    ((op = 0xF2 || op = 0xF3) && srIndices id ≤ imm) || (op = 0xF3 && !(id = 0 || id = 1 || id = 5)) ||
    (op = 0xF8 && 4 < imm)
  let r4 := (!useD && op ≠ 0xF9 && f.d ≠ 0) || (op = 0xF9 && (if sub = 0 then f.d ≠ 0 else 8 ≤ f.d.toNat)) ||
    (!useA && f.a ≠ 0) || (!useB && f.b ≠ 0) || (subs = 0 && sub ≠ 0) || idMax ≤ id || immMax ≤ imm
  firstReason [(3, r3), (4, r4)]

/-! ### Opcode tables -/

/-- The opcodes of format V (R83, R84). -/
def vTable : List (Nat × (VFields → Instr)) :=
  [(0x00, .iadd), (0x01, .isub), (0x02, .imul), (0x03, .imulh), (0x04, .imad), (0x05, .imadw), (0x06, .iaddc),
   (0x07, .isubb), (0x08, .imin), (0x09, .imax), (0x0A, .iabs), (0x0B, .isad), (0x0C, .iclamp), (0x0D, .idot2),
   (0x0E, .idot4), (0x0F, .icmp), (0x10, .andB), (0x11, .orB), (0x12, .xorB), (0x13, .andn), (0x14, .lop3),
   (0x15, .shl), (0x16, .shr), (0x17, .sar), (0x18, .rot), (0x19, .fshf), (0x1A, .bfe), (0x1B, .bfi),
   (0x1C, .brev), (0x1D, .popc), (0x1E, .clz), (0x1F, .ctz), (0x20, .mov), (0x21, .movl), (0x22, .sel),
   (0x23, .prmt), (0x24, .sext), (0x25, .mkaff), (0x26, .mkgen), (0x27, .shape), (0x28, .laneid),
   (0x29, .mskop),
   (0x2A, fun v => if v.sub = 1 then .mskmovLane v else if v.sub = 2 then .mskmovWord v else .mskmov v),
   (0x40, .fadd), (0x41, .fsub), (0x42, .fmul), (0x43, .ffma), (0x44, .fmin), (0x45, .fmax), (0x46, .fminm),
   (0x47, .fmaxm), (0x48, .fcmp), (0x49, .frnd), (0x4A, .ffrac), (0x4B, .fclass), (0x4C, .fldexp),
   (0x4D, .fexpo), (0x4E, .fmant), (0x4F, .fdot2), (0x50, .fdot4), (0x51, .fcpys), (0x52, .fmed3),
   (0x53, .cvt), (0x54, .cvtpk), (0x55, .cvtup), (0x56, .qblk), (0x57, .dqblk), (0x60, .rcp), (0x61, .rsq),
   (0x62, .sqrt), (0x63, .exp2), (0x64, .log2), (0x65, .sinpi), (0x66, .cospi), (0x67, .tanh), (0x68, .sigm),
   (0x69, .tbl), (0x6A, .tbli), (0x6B, .divf), (0x80, .shfl), (0x81, .rdfirst), (0x82, .rdlane),
   (0x83, .wrlane), (0x84, .vote), (0x85, .matchKey), (0x86, .compact), (0x87, .expand), (0x88, .reduce),
   (0x89, .scan), (0x8A, .sortk)]

/-- The opcodes of format M (R83, R84). -/
def mTable : List (Nat × (MFields → Instr)) :=
  [(0xA0, .ld), (0xA1, .st), (0xA2, .ldu), (0xA3, .ldq), (0xA4, .stq), (0xA5, .atom), (0xA6, .cas),
   (0xA7, .atomu), (0xA8, .fence), (0xA9, .waitv), (0xAA, .bsalloc), (0xAB, .bsfree), (0xAC, .bsshare),
   (0xAD, .bslook), (0xAE, .tex), (0xAF, .texg), (0xB0, .rayq), (0xB1, .rayb), (0xB2, .attr)]

/-- The opcodes of format K (R83, R84). -/
def kTable : List (Nat × (KFields → Instr)) :=
  [(0x90, .ifCond), (0x91, .elseJoin), (0x92, .endif), (0x93, .loop), (0x94, .endloop), (0x95, .brk),
   (0x96, .cont), (0x97, .jmp), (0x98, .jmpu), (0x99, .call), (0x9A, .calli), (0x9B, .ret), (0x9C, .exit),
   (0x9D, .setbnd), (0x9E, .nop)]

/-- The opcodes of format X (R83, R84). -/
def xTable : List (Nat × (XFields → Instr)) :=
  [(0xC0, .mma), (0xC1, .mmas), (0xC2, .mloop), (0xC3, .mloops), (0xC4, .accz), (0xC5, .accld), (0xC6, .accst),
   (0xC7, .accdrain), (0xC8, .mapchk),
   (0xC9, fun x => if x.sub = 1 then .fragxPut x else if x.sub = 2 then .fragxStat x else .fragxGet x)]

/-- The opcodes of format E (R83, R84). -/
def eTable : List (Nat × (EFields → Instr)) :=
  [(0xD0, .cpy), (0xD1, .cpyx), (0xD2, .pfl2), (0xD3, .gathr), (0xD4, .scatb), (0xD5, .binrpl), (0xD6, .mrgo),
   (0xD7, .mrgp), (0xD8, .mrgc), (0xD9, .mrgs), (0xDA, .tokw), (0xDB, .tokq), (0xDC, .cancel)]

/-- The opcodes of format S (R83, R84). -/
def sTable : List (Nat × (SFields → Instr)) :=
  [(0xE0, .bar), (0xE1, .bara), (0xE2, .barw), (0xE3, .spawn), (0xE4, .emit), (0xE5, .claim), (0xE6, .regrp),
   (0xE7, .cbload), (0xE8, .cbcommit), (0xE9, .gwr), (0xEA, .gatom), (0xEB, .qsig), (0xEC, .sleep),
   (0xED, .framec), (0xF0, .trap), (0xF1, .rte), (0xF2, .rdsr),
   (0xF3, fun f => if f.id = 1 then .wrsrFlags f else if f.id = 5 then .wrsrSeed f else .wrsrCtl f),
   (0xF4, .clk), (0xF5, .bkpt), (0xF6, .rply), (0xF7, .harvest), (0xF8, .diag),
   (0xF9, fun f => if f.sub = 1 then .flgTest f else .flgClr f)]

/-- The entry of an opcode in a table. -/
def lookupOp {α : Type} (op : Nat) : List (Nat × α) → Option α
  | [] => none
  | (o, x) :: t => if o = op then some x else lookupOp op t

/-! ### Slots -/

/-- The opcode of a word (R82). -/
def opOf (w : Dword) : Nat := (bits w 56 8).toNat

/-- Reason 6 for a `Q` bit in a format without one (R82, R106), given the other checks' first reason.  DEDUCED (log entry 36):
bit 54 of these formats is a field that must be 0 (reason 4 of R106, by R85 and R92-R96) and a `Q` without meaning (reason
6, by R82); the model reports it as `Q`. -/
def withQ (w : Dword) (r : Option Nat) : Option Nat :=
  if w.getLsbD 54 then
    match r with
    | some n => if n ≤ 5 then some n else some 6
    | none => some 6
  else r

/-- The first failing check of one slot word other than a prefix, of reasons 1 and 3 to 7 (R106). -/
def slotReason (w : Dword) : Option Nat :=
  let op := opOf w
  match formatOf op with
  | none => some 1
  | some .p => some 1
  | some .v => vReason op (VFields.ofWord w)
  | some .m => withQ w (mReason op (MFields.ofWord w))
  | some .k =>
    withQ w (match kReason op (KFields.ofWord w) with
      | some r => some r
      | none => if bits w 32 10 ≠ 0 then some 4 else none)
  | some .x => withQ w (xReason op (XFields.ofWord w))
  | some .e => withQ w (eReason op (EFields.ofWord w))
  | some .s => withQ w (sReason op (SFields.ofWord w))

/-- The instruction whose opcode and fields a word holds, whatever the checks say. -/
def instrOf (w : Dword) : Option Instr :=
  let op := opOf w
  match formatOf op with
  | some .v => (lookupOp op vTable).map (· (VFields.ofWord w))
  | some .m => (lookupOp op mTable).map (· (MFields.ofWord w))
  | some .k => (lookupOp op kTable).map (· (KFields.ofWord w))
  | some .x => (lookupOp op xTable).map (· (XFields.ofWord w))
  | some .e => (lookupOp op eTable).map (· (EFields.ofWord w))
  | some .s => (lookupOp op sTable).map (· (SFields.ofWord w))
  | _ => none

/-- The decoder of one slot: the instruction, or the reason of illegal instruction (0x01) that R106 gives. -/
def decodeSlot (w : Dword) : Except Nat Instr :=
  match slotReason w with
  | some r => .error r
  | none =>
    match instrOf w with
    | some i => .ok i
    | none => .error 1

/-- Whether the instruction of a word has a register or mask destination, for `MZ` (R91, R199). -/
def hasDest (w : Dword) : Bool :=
  let op := opOf w
  match formatOf op with
  | some .v => true
  | some .m =>
    !(op = 0xA1 || op = 0xA4 || op = 0xA8 || op = 0xA9 || op = 0xAB || op = 0xAC ||
      ((op = 0xA5 || op = 0xA7) && !(MFields.ofWord w).ret))
  | _ => false

/-- The prefix fields that an opcode of format V accepts with some admissible `TY` and `SUB` (R141, R148, R196). -/
def vAccepts (op : Nat) (f : VDesc → Bool) : Bool :=
  (List.range 8).any (fun ty => (List.range 32).any (fun sub =>
    match vDesc op ty sub with
    | some x => f x
    | none => false))

/-- The first failing check of a prefix before a slot of format V or M, in a class (R80, R90, R91, R106).  A slot whose `TY`
or `SUB` is itself inadmissible has no description: the prefix field is then held against what its opcode accepts with
some admissible `TY` and `SUB`, so that reason 3 is met at the slot (R141).  DEDUCED (log entry 36): a field that the opcode never
accepts is reason 6 at the prefix, before the slot behind it is looked at. -/
def pReason (cls : Nat) (w next : Dword) : Option Nat :=
  let p := PFields.ofWord w
  let op := opOf next
  let nv := VFields.ofWord next
  let isV : Bool := formatOf op = some .v
  let d := vDesc op nv.ty.toNat nv.sub.toNat
  let may (f : VDesc → Bool) : Bool := isV && (match d with | some x => f x | none => vAccepts op f)
  let maskOk : Bool := if isV then may VDesc.msk else true
  let zeroOk : Bool := hasDest next && (if isV then may VDesc.mz else true)
  let litOk : Bool :=
    if isV then may VDesc.lv && nv.bk = 2 && nv.imm16 = 0 else mOffset op && (MFields.ofWord next).off = 0
  let r4 := bits w 54 2 ≠ 0 || bits w 34 3 ≠ 0 || w.getLsbD 32
  let r5 := p.rnd = 7
  let r6 := (p.msk ≠ 0 && (!maskOk || cls = 6)) || (p.mz && !zeroOk) || (p.rnd ≠ 0 && !may VDesc.rnd) ||
    (p.sat && !may VDesc.sat) || (p.ev && !may VDesc.ev) || (!p.ev && p.e ≠ 0) || (!p.lv && p.lit ≠ 0) ||
    (p.lv && !litOk)
  firstReason [(4, r4), (5, r5), (6, r6)]

/-! ### Clauses -/

/-- The mode that a privileged opcode needs: 0 user, 1 handler, 2 firmware (R106, R337). -/
def privNeeded (op : Nat) : Nat := if op = 0xF1 || op = 0xF6 then 1 else if op = 0xF7 then 2 else 0

/-- What decode finds wrong with a clause (R106): the cause, its reason, and the slot with its opcode, or the
header. -/
structure DecodeFault where
  cause : Nat
  reason : Nat
  slot : Nat
  hdr : Bool
  op : Nat
  deriving DecidableEq, Repr

/-- The number of slots that a header announces (R78). -/
def slotCount (h : Dword) : Nat := (bits h 48 4).toNat + 1
/-- `MARK` (R78). -/
def isHeader (h : Dword) : Bool := bits h 56 8 = 0x5A#8
/-- `CLS` (R78). -/
def classOf (h : Dword) : Nat := (bits h 52 4).toNat
/-- `ENT` (R78). -/
def isEntry (h : Dword) : Bool := h.getLsbD 34
/-- `BUD` (R78). -/
def budgetOf (h : Dword) : Nat := (bits h 26 8).toNat

/-- A word is of format K. -/
def isControl (w : Dword) : Bool := formatOf (opOf w) = some .k

/-- The header's fault, if any: reasons 1 to 4 of illegal clause (R106). -/
def headerReason (h : Dword) (slots : List Dword) : Option Nat :=
  firstReason [(1, !isHeader h), (2, classReserved (classOf h)),
    (3, bits h 0 26 ≠ 0 || (!isEntry h && budgetOf h ≠ 0)),
    (4, h.getLsbD 35 ≠ (match slots.getLast? with | some w => isControl w | none => false))]

/-- The fault of slot `k`, with the slots after it, for a warp whose mode has number `priv` (R106). -/
def slotFault (cls priv k : Nat) (w : Dword) (rest : List Dword) : Option DecodeFault :=
  let op := opOf w
  let f (cause reason : Nat) : Option DecodeFault := some { cause, reason, slot := k, hdr := false, op }
  if op = 0xFF then
    match rest with
    | [] => f 2 5
    | n :: _ =>
      let nf := formatOf (opOf n)
      if nf = some .v ∨ nf = some .m then
        match pReason cls w n with
        | some r => f 1 r
        | none => none
      else f 2 7
  else if isControl w ∧ rest ≠ [] then f 2 6
  else
    match formatOf op with
    | none => f 1 1
    | some fm =>
      if !classAdmits cls op fm then f 1 2
      else
        match slotReason w with
        | some r => f 1 r
        | none =>
          -- R156: the fourth operand of LOP3 is a pair with .b64; its prefix stands before this slot
          if priv < privNeeded op then f 9 0 else none

/-- A prefix whose `E` names an odd register before LOP3 `.b64` (R145, R156). -/
def oddFourth (w : Dword) (rest : List Dword) : Bool :=
  match rest with
  | n :: _ =>
    opOf w = 0xFF && opOf n = 0x14 && (VFields.ofWord n).ty = 6 && (PFields.ofWord w).ev && (PFields.ofWord w).e.getLsbD 0
  | [] => false

/-- The first fault of the slots from slot `k` on. -/
def slotsFault (cls priv : Nat) : Nat → List Dword → Option DecodeFault
  | _, [] => none
  | k, w :: rest =>
    match slotFault cls priv k w rest with
    | some f => some f
    | none =>
      if oddFourth w rest then some { cause := 1, reason := 3, slot := k + 1, hdr := false, op := 0x14 }
      else slotsFault cls priv (k + 1) rest

/-- The check of a whole clause at decode (R106): header first, then the slots in ascending order. -/
def decodeClause (priv : Nat) (h : Dword) (slots : List Dword) : Option DecodeFault :=
  match headerReason h slots with
  | some r => some { cause := 2, reason := r, slot := 0, hdr := true, op := 0 }
  | none => slotsFault (classOf h) priv 0 slots

/-- The checks of one of several instructions that share an opcode: `sub` says that the field which tells them apart
selects this one. -/
def ifSelected (sub : Bool) (r : Option Nat) : Option Nat := if sub then r else some 3

/-- The opcode and field checks of an instruction as syntax: none for a step of the device. -/
def Instr.check : Instr → Option (Option Nat)
  | .iadd f => some (vReason 0x00 f)
  | .isub f => some (vReason 0x01 f)
  | .imul f => some (vReason 0x02 f)
  | .imulh f => some (vReason 0x03 f)
  | .imad f => some (vReason 0x04 f)
  | .imadw f => some (vReason 0x05 f)
  | .iaddc f => some (vReason 0x06 f)
  | .isubb f => some (vReason 0x07 f)
  | .imin f => some (vReason 0x08 f)
  | .imax f => some (vReason 0x09 f)
  | .iabs f => some (vReason 0x0A f)
  | .isad f => some (vReason 0x0B f)
  | .iclamp f => some (vReason 0x0C f)
  | .idot2 f => some (vReason 0x0D f)
  | .idot4 f => some (vReason 0x0E f)
  | .icmp f => some (vReason 0x0F f)
  | .andB f => some (vReason 0x10 f)
  | .orB f => some (vReason 0x11 f)
  | .xorB f => some (vReason 0x12 f)
  | .andn f => some (vReason 0x13 f)
  | .lop3 f => some (vReason 0x14 f)
  | .shl f => some (vReason 0x15 f)
  | .shr f => some (vReason 0x16 f)
  | .sar f => some (vReason 0x17 f)
  | .rot f => some (vReason 0x18 f)
  | .fshf f => some (vReason 0x19 f)
  | .bfe f => some (vReason 0x1A f)
  | .bfi f => some (vReason 0x1B f)
  | .brev f => some (vReason 0x1C f)
  | .popc f => some (vReason 0x1D f)
  | .clz f => some (vReason 0x1E f)
  | .ctz f => some (vReason 0x1F f)
  | .mov f => some (vReason 0x20 f)
  | .movl f => some (vReason 0x21 f)
  | .sel f => some (vReason 0x22 f)
  | .prmt f => some (vReason 0x23 f)
  | .sext f => some (vReason 0x24 f)
  | .mkaff f => some (vReason 0x25 f)
  | .mkgen f => some (vReason 0x26 f)
  | .shape f => some (vReason 0x27 f)
  | .laneid f => some (vReason 0x28 f)
  | .mskop f => some (vReason 0x29 f)
  | .mskmov f => some (ifSelected (f.sub = 0) (vReason 0x2A f))
  | .mskmovLane f => some (ifSelected (f.sub = 1) (vReason 0x2A f))
  | .mskmovWord f => some (ifSelected (f.sub = 2) (vReason 0x2A f))
  | .fadd f => some (vReason 0x40 f)
  | .fsub f => some (vReason 0x41 f)
  | .fmul f => some (vReason 0x42 f)
  | .ffma f => some (vReason 0x43 f)
  | .fmin f => some (vReason 0x44 f)
  | .fmax f => some (vReason 0x45 f)
  | .fminm f => some (vReason 0x46 f)
  | .fmaxm f => some (vReason 0x47 f)
  | .fcmp f => some (vReason 0x48 f)
  | .frnd f => some (vReason 0x49 f)
  | .ffrac f => some (vReason 0x4A f)
  | .fclass f => some (vReason 0x4B f)
  | .fldexp f => some (vReason 0x4C f)
  | .fexpo f => some (vReason 0x4D f)
  | .fmant f => some (vReason 0x4E f)
  | .fdot2 f => some (vReason 0x4F f)
  | .fdot4 f => some (vReason 0x50 f)
  | .fcpys f => some (vReason 0x51 f)
  | .fmed3 f => some (vReason 0x52 f)
  | .cvt f => some (vReason 0x53 f)
  | .cvtpk f => some (vReason 0x54 f)
  | .cvtup f => some (vReason 0x55 f)
  | .qblk f => some (vReason 0x56 f)
  | .dqblk f => some (vReason 0x57 f)
  | .rcp f => some (vReason 0x60 f)
  | .rsq f => some (vReason 0x61 f)
  | .sqrt f => some (vReason 0x62 f)
  | .exp2 f => some (vReason 0x63 f)
  | .log2 f => some (vReason 0x64 f)
  | .sinpi f => some (vReason 0x65 f)
  | .cospi f => some (vReason 0x66 f)
  | .tanh f => some (vReason 0x67 f)
  | .sigm f => some (vReason 0x68 f)
  | .tbl f => some (vReason 0x69 f)
  | .tbli f => some (vReason 0x6A f)
  | .divf f => some (vReason 0x6B f)
  | .shfl f => some (vReason 0x80 f)
  | .rdfirst f => some (vReason 0x81 f)
  | .rdlane f => some (vReason 0x82 f)
  | .wrlane f => some (vReason 0x83 f)
  | .vote f => some (vReason 0x84 f)
  | .matchKey f => some (vReason 0x85 f)
  | .compact f => some (vReason 0x86 f)
  | .expand f => some (vReason 0x87 f)
  | .reduce f => some (vReason 0x88 f)
  | .scan f => some (vReason 0x89 f)
  | .sortk f => some (vReason 0x8A f)
  | .ifCond f => some (kReason 0x90 f)
  | .elseJoin f => some (kReason 0x91 f)
  | .endif f => some (kReason 0x92 f)
  | .loop f => some (kReason 0x93 f)
  | .endloop f => some (kReason 0x94 f)
  | .brk f => some (kReason 0x95 f)
  | .cont f => some (kReason 0x96 f)
  | .jmp f => some (kReason 0x97 f)
  | .jmpu f => some (kReason 0x98 f)
  | .call f => some (kReason 0x99 f)
  | .calli f => some (kReason 0x9A f)
  | .ret f => some (kReason 0x9B f)
  | .exit f => some (kReason 0x9C f)
  | .setbnd f => some (kReason 0x9D f)
  | .nop f => some (kReason 0x9E f)
  | .ld f => some (mReason 0xA0 f)
  | .st f => some (mReason 0xA1 f)
  | .ldu f => some (mReason 0xA2 f)
  | .ldq f => some (mReason 0xA3 f)
  | .stq f => some (mReason 0xA4 f)
  | .atom f => some (mReason 0xA5 f)
  | .cas f => some (mReason 0xA6 f)
  | .atomu f => some (mReason 0xA7 f)
  | .fence f => some (mReason 0xA8 f)
  | .waitv f => some (mReason 0xA9 f)
  | .bsalloc f => some (mReason 0xAA f)
  | .bsfree f => some (mReason 0xAB f)
  | .bsshare f => some (mReason 0xAC f)
  | .bslook f => some (mReason 0xAD f)
  | .tex f => some (mReason 0xAE f)
  | .texg f => some (mReason 0xAF f)
  | .rayq f => some (mReason 0xB0 f)
  | .rayb f => some (mReason 0xB1 f)
  | .attr f => some (mReason 0xB2 f)
  | .mma f => some (xReason 0xC0 f)
  | .mmas f => some (xReason 0xC1 f)
  | .mloop f => some (xReason 0xC2 f)
  | .mloops f => some (xReason 0xC3 f)
  | .accz f => some (xReason 0xC4 f)
  | .accld f => some (xReason 0xC5 f)
  | .accst f => some (xReason 0xC6 f)
  | .accdrain f => some (xReason 0xC7 f)
  | .mapchk f => some (xReason 0xC8 f)
  | .fragxGet f => some (ifSelected (f.sub = 0) (xReason 0xC9 f))
  | .fragxPut f => some (ifSelected (f.sub = 1) (xReason 0xC9 f))
  | .fragxStat f => some (ifSelected (f.sub = 2) (xReason 0xC9 f))
  | .cpy f => some (eReason 0xD0 f)
  | .cpyx f => some (eReason 0xD1 f)
  | .pfl2 f => some (eReason 0xD2 f)
  | .gathr f => some (eReason 0xD3 f)
  | .scatb f => some (eReason 0xD4 f)
  | .binrpl f => some (eReason 0xD5 f)
  | .mrgo f => some (eReason 0xD6 f)
  | .mrgp f => some (eReason 0xD7 f)
  | .mrgc f => some (eReason 0xD8 f)
  | .mrgs f => some (eReason 0xD9 f)
  | .tokw f => some (eReason 0xDA f)
  | .tokq f => some (eReason 0xDB f)
  | .cancel f => some (eReason 0xDC f)
  | .bar f => some (sReason 0xE0 f)
  | .bara f => some (sReason 0xE1 f)
  | .barw f => some (sReason 0xE2 f)
  | .spawn f => some (sReason 0xE3 f)
  | .emit f => some (sReason 0xE4 f)
  | .claim f => some (sReason 0xE5 f)
  | .regrp f => some (sReason 0xE6 f)
  | .cbload f => some (sReason 0xE7 f)
  | .cbcommit f => some (sReason 0xE8 f)
  | .gwr f => some (sReason 0xE9 f)
  | .gatom f => some (sReason 0xEA f)
  | .qsig f => some (sReason 0xEB f)
  | .sleep f => some (sReason 0xEC f)
  | .framec f => some (sReason 0xED f)
  | .trap f => some (sReason 0xF0 f)
  | .rte f => some (sReason 0xF1 f)
  | .rdsr f => some (sReason 0xF2 f)
  | .wrsrCtl f => some (ifSelected (f.id = 0) (sReason 0xF3 f))
  | .wrsrFlags f => some (ifSelected (f.id = 1) (sReason 0xF3 f))
  | .wrsrSeed f => some (ifSelected (f.id = 5) (sReason 0xF3 f))
  | .clk f => some (sReason 0xF4 f)
  | .bkpt f => some (sReason 0xF5 f)
  | .rply f => some (sReason 0xF6 f)
  | .harvest f => some (sReason 0xF7 f)
  | .diag f => some (sReason 0xF8 f)
  | .flgClr f => some (ifSelected (f.sub = 0) (sReason 0xF9 f))
  | .flgTest f => some (ifSelected (f.sub = 1) (sReason 0xF9 f))
  | _ => none

/-- The slot word of an instruction; none for a step of the device, which has no encoding. -/
def encode : Instr → Option Dword
  | .iadd f => some (f.toWord 0x00#8)
  | .isub f => some (f.toWord 0x01#8)
  | .imul f => some (f.toWord 0x02#8)
  | .imulh f => some (f.toWord 0x03#8)
  | .imad f => some (f.toWord 0x04#8)
  | .imadw f => some (f.toWord 0x05#8)
  | .iaddc f => some (f.toWord 0x06#8)
  | .isubb f => some (f.toWord 0x07#8)
  | .imin f => some (f.toWord 0x08#8)
  | .imax f => some (f.toWord 0x09#8)
  | .iabs f => some (f.toWord 0x0A#8)
  | .isad f => some (f.toWord 0x0B#8)
  | .iclamp f => some (f.toWord 0x0C#8)
  | .idot2 f => some (f.toWord 0x0D#8)
  | .idot4 f => some (f.toWord 0x0E#8)
  | .icmp f => some (f.toWord 0x0F#8)
  | .andB f => some (f.toWord 0x10#8)
  | .orB f => some (f.toWord 0x11#8)
  | .xorB f => some (f.toWord 0x12#8)
  | .andn f => some (f.toWord 0x13#8)
  | .lop3 f => some (f.toWord 0x14#8)
  | .shl f => some (f.toWord 0x15#8)
  | .shr f => some (f.toWord 0x16#8)
  | .sar f => some (f.toWord 0x17#8)
  | .rot f => some (f.toWord 0x18#8)
  | .fshf f => some (f.toWord 0x19#8)
  | .bfe f => some (f.toWord 0x1A#8)
  | .bfi f => some (f.toWord 0x1B#8)
  | .brev f => some (f.toWord 0x1C#8)
  | .popc f => some (f.toWord 0x1D#8)
  | .clz f => some (f.toWord 0x1E#8)
  | .ctz f => some (f.toWord 0x1F#8)
  | .mov f => some (f.toWord 0x20#8)
  | .movl f => some (f.toWord 0x21#8)
  | .sel f => some (f.toWord 0x22#8)
  | .prmt f => some (f.toWord 0x23#8)
  | .sext f => some (f.toWord 0x24#8)
  | .mkaff f => some (f.toWord 0x25#8)
  | .mkgen f => some (f.toWord 0x26#8)
  | .shape f => some (f.toWord 0x27#8)
  | .laneid f => some (f.toWord 0x28#8)
  | .mskop f => some (f.toWord 0x29#8)
  | .mskmov f => some (f.toWord 0x2A#8)
  | .mskmovLane f => some (f.toWord 0x2A#8)
  | .mskmovWord f => some (f.toWord 0x2A#8)
  | .fadd f => some (f.toWord 0x40#8)
  | .fsub f => some (f.toWord 0x41#8)
  | .fmul f => some (f.toWord 0x42#8)
  | .ffma f => some (f.toWord 0x43#8)
  | .fmin f => some (f.toWord 0x44#8)
  | .fmax f => some (f.toWord 0x45#8)
  | .fminm f => some (f.toWord 0x46#8)
  | .fmaxm f => some (f.toWord 0x47#8)
  | .fcmp f => some (f.toWord 0x48#8)
  | .frnd f => some (f.toWord 0x49#8)
  | .ffrac f => some (f.toWord 0x4A#8)
  | .fclass f => some (f.toWord 0x4B#8)
  | .fldexp f => some (f.toWord 0x4C#8)
  | .fexpo f => some (f.toWord 0x4D#8)
  | .fmant f => some (f.toWord 0x4E#8)
  | .fdot2 f => some (f.toWord 0x4F#8)
  | .fdot4 f => some (f.toWord 0x50#8)
  | .fcpys f => some (f.toWord 0x51#8)
  | .fmed3 f => some (f.toWord 0x52#8)
  | .cvt f => some (f.toWord 0x53#8)
  | .cvtpk f => some (f.toWord 0x54#8)
  | .cvtup f => some (f.toWord 0x55#8)
  | .qblk f => some (f.toWord 0x56#8)
  | .dqblk f => some (f.toWord 0x57#8)
  | .rcp f => some (f.toWord 0x60#8)
  | .rsq f => some (f.toWord 0x61#8)
  | .sqrt f => some (f.toWord 0x62#8)
  | .exp2 f => some (f.toWord 0x63#8)
  | .log2 f => some (f.toWord 0x64#8)
  | .sinpi f => some (f.toWord 0x65#8)
  | .cospi f => some (f.toWord 0x66#8)
  | .tanh f => some (f.toWord 0x67#8)
  | .sigm f => some (f.toWord 0x68#8)
  | .tbl f => some (f.toWord 0x69#8)
  | .tbli f => some (f.toWord 0x6A#8)
  | .divf f => some (f.toWord 0x6B#8)
  | .shfl f => some (f.toWord 0x80#8)
  | .rdfirst f => some (f.toWord 0x81#8)
  | .rdlane f => some (f.toWord 0x82#8)
  | .wrlane f => some (f.toWord 0x83#8)
  | .vote f => some (f.toWord 0x84#8)
  | .matchKey f => some (f.toWord 0x85#8)
  | .compact f => some (f.toWord 0x86#8)
  | .expand f => some (f.toWord 0x87#8)
  | .reduce f => some (f.toWord 0x88#8)
  | .scan f => some (f.toWord 0x89#8)
  | .sortk f => some (f.toWord 0x8A#8)
  | .ifCond f => some (f.toWord 0x90#8)
  | .elseJoin f => some (f.toWord 0x91#8)
  | .endif f => some (f.toWord 0x92#8)
  | .loop f => some (f.toWord 0x93#8)
  | .endloop f => some (f.toWord 0x94#8)
  | .brk f => some (f.toWord 0x95#8)
  | .cont f => some (f.toWord 0x96#8)
  | .jmp f => some (f.toWord 0x97#8)
  | .jmpu f => some (f.toWord 0x98#8)
  | .call f => some (f.toWord 0x99#8)
  | .calli f => some (f.toWord 0x9A#8)
  | .ret f => some (f.toWord 0x9B#8)
  | .exit f => some (f.toWord 0x9C#8)
  | .setbnd f => some (f.toWord 0x9D#8)
  | .nop f => some (f.toWord 0x9E#8)
  | .ld f => some (f.toWord 0xA0#8)
  | .st f => some (f.toWord 0xA1#8)
  | .ldu f => some (f.toWord 0xA2#8)
  | .ldq f => some (f.toWord 0xA3#8)
  | .stq f => some (f.toWord 0xA4#8)
  | .atom f => some (f.toWord 0xA5#8)
  | .cas f => some (f.toWord 0xA6#8)
  | .atomu f => some (f.toWord 0xA7#8)
  | .fence f => some (f.toWord 0xA8#8)
  | .waitv f => some (f.toWord 0xA9#8)
  | .bsalloc f => some (f.toWord 0xAA#8)
  | .bsfree f => some (f.toWord 0xAB#8)
  | .bsshare f => some (f.toWord 0xAC#8)
  | .bslook f => some (f.toWord 0xAD#8)
  | .tex f => some (f.toWord 0xAE#8)
  | .texg f => some (f.toWord 0xAF#8)
  | .rayq f => some (f.toWord 0xB0#8)
  | .rayb f => some (f.toWord 0xB1#8)
  | .attr f => some (f.toWord 0xB2#8)
  | .mma f => some (f.toWord 0xC0#8)
  | .mmas f => some (f.toWord 0xC1#8)
  | .mloop f => some (f.toWord 0xC2#8)
  | .mloops f => some (f.toWord 0xC3#8)
  | .accz f => some (f.toWord 0xC4#8)
  | .accld f => some (f.toWord 0xC5#8)
  | .accst f => some (f.toWord 0xC6#8)
  | .accdrain f => some (f.toWord 0xC7#8)
  | .mapchk f => some (f.toWord 0xC8#8)
  | .fragxGet f => some (f.toWord 0xC9#8)
  | .fragxPut f => some (f.toWord 0xC9#8)
  | .fragxStat f => some (f.toWord 0xC9#8)
  | .cpy f => some (f.toWord 0xD0#8)
  | .cpyx f => some (f.toWord 0xD1#8)
  | .pfl2 f => some (f.toWord 0xD2#8)
  | .gathr f => some (f.toWord 0xD3#8)
  | .scatb f => some (f.toWord 0xD4#8)
  | .binrpl f => some (f.toWord 0xD5#8)
  | .mrgo f => some (f.toWord 0xD6#8)
  | .mrgp f => some (f.toWord 0xD7#8)
  | .mrgc f => some (f.toWord 0xD8#8)
  | .mrgs f => some (f.toWord 0xD9#8)
  | .tokw f => some (f.toWord 0xDA#8)
  | .tokq f => some (f.toWord 0xDB#8)
  | .cancel f => some (f.toWord 0xDC#8)
  | .bar f => some (f.toWord 0xE0#8)
  | .bara f => some (f.toWord 0xE1#8)
  | .barw f => some (f.toWord 0xE2#8)
  | .spawn f => some (f.toWord 0xE3#8)
  | .emit f => some (f.toWord 0xE4#8)
  | .claim f => some (f.toWord 0xE5#8)
  | .regrp f => some (f.toWord 0xE6#8)
  | .cbload f => some (f.toWord 0xE7#8)
  | .cbcommit f => some (f.toWord 0xE8#8)
  | .gwr f => some (f.toWord 0xE9#8)
  | .gatom f => some (f.toWord 0xEA#8)
  | .qsig f => some (f.toWord 0xEB#8)
  | .sleep f => some (f.toWord 0xEC#8)
  | .framec f => some (f.toWord 0xED#8)
  | .trap f => some (f.toWord 0xF0#8)
  | .rte f => some (f.toWord 0xF1#8)
  | .rdsr f => some (f.toWord 0xF2#8)
  | .wrsrCtl f => some (f.toWord 0xF3#8)
  | .wrsrFlags f => some (f.toWord 0xF3#8)
  | .wrsrSeed f => some (f.toWord 0xF3#8)
  | .clk f => some (f.toWord 0xF4#8)
  | .bkpt f => some (f.toWord 0xF5#8)
  | .rply f => some (f.toWord 0xF6#8)
  | .harvest f => some (f.toWord 0xF7#8)
  | .diag f => some (f.toWord 0xF8#8)
  | .flgClr f => some (f.toWord 0xF9#8)
  | .flgTest f => some (f.toWord 0xF9#8)
  | _ => none

/-- The instruction that the decoder reads from `w`, whose bits are numbered as spec/opcode_table.json numbers them.
A slot is one 64-bit word (R4, R78). -/
def decodeTableWord (nbits w : Nat) : Option Instr :=
  if nbits ≤ 64 then
    match decodeSlot (BitVec.ofNat 64 (w % 2 ^ nbits)) with
    | .ok i => some i
    | .error _ => none
  else none

end Sys2Proof
end

