-- ==== Sys2Proof/Config.lean ====
section
/-! DEFINITION. What is fixed for the machine, and its free values.

A free value is an opaque constant: nothing in Lean can evaluate it or prove a value of it, so a statement that holds
holds whatever it is.  Each takes a number drawn from the counter `State.fresh`, which the step advances, or the data
that it depends on.  notes/assumptions names each of them. -/

namespace Sys2Proof.Config

/-- Free: the entropy source of R129, one draw for each lane and write of `sr.seed`. -/
opaque entropy : Nat → Word

/-- Free: which of the results inside the bound of R188 an approximate function returns: a signed distance, in units
of the bound's granularity, that the special-function unit clamps into the bound. Arguments: opcode, operand bits. -/
opaque sfuError : Nat → Word → Int

/-- Free: the error of the hit-record derivatives of R390, clamped into their relative bound 2^-18. -/
opaque footprintError : Nat → Int

/-- Free: which candidate moves next when `State.agenda` is empty. -/
opaque pick : Nat → Nat

/-- Free: what a start finds when the environment did not supply a report (R471). -/
opaque startReport : Nat → StartReport

/-- Free: what a sampling slot reads when the environment did not supply readings (R481). -/
opaque readings : Nat → Readings

/-- Free: how many of its dirty lines, oldest first, a slice has written at the end of the window of R233. -/
opaque linesWritten : Nat → Nat

/-- Free: whether a tile of a slice is still unwritten at the end of the window of R233 (R379 gives the tiles no order). -/
opaque tileLate : Nat → Bool

/-- Free: the local column of the L2 slice that caches a line of its lantern (R12, R233 name slices, no rule gives
the map from lines to slices). -/
opaque sliceOf : Nat → Nat

/-- Free: whether a word of code that was written while a context may fetch it is fetched as it was before (R81): the draw,
the key of the word. -/
opaque oldWord : Nat → Nat → Bool

/-- Free: where BSALLOC puts a block (R259: the device chooses): vault first or pool first. -/
opaque blockPlace : Nat → Bool

/-- Free: the tie of R51 left open, which of the device's choices a placement takes (R50 `p0`, R421 the core). -/
opaque placement : Nat → Nat

/-- Free: a byte of another module's memory as a texture, node, descriptor or engine read finds it: the draw, the
address. -/
opaque peerByte : Nat → Dword → Byte

/-- Free: what another module answers to a read of it (R457): the draw, the address. -/
opaque peerCause : Nat → Dword → Nat

/-- Free: whether a byte of another module's memory is poisoned: the draw, the address. -/
opaque peerPoison : Nat → Dword → Bool

/-- Free: the barycentrics of a hit on a triangle without area, which are not unique (R385): the identifier, which. -/
opaque hitWeight : Dword → Nat → Word

/-- Free: the texel and the weight that an infinite coordinate selects where its wrap mode gives none (R394, R395). -/
opaque infTexel : Word → Nat → Nat

/-- Free: what an element of a marked row or column of a tile holds under its mark (R140): the draw, the element. -/
opaque markedElem : Nat → Nat → Word

/-- Free: the draws of a stochastic rounding that belongs to no lane (R129): ACCDRAIN, the copy engine, the Taper. -/
opaque unitDraw : Nat → Nat → Nat

/-- Free: the carried registers of lanes that a regrouping leaves without a thread (R68, R69): the draw, the register and
lane. -/
opaque deadLane : Nat → Nat → Word

/-- Free: a word of a structure that the device writes and to which no rule gives a value. -/
opaque unstated : Nat → Word

/-- Free: the arithmetic steps by which Vigil reprojects a pixel (R469 rounds each step and gives no order of steps): operation and
operands of each, by number. -/
opaque vigilPlan : List (Nat × Nat × Nat × Nat)

/-- Free: the rate in kilobits per second that UHBR20 over 4 lanes gives a mode (R477 gives no number). -/
opaque linkRate : Nat

/-- The module's fuses (R471, R483): the 48-byte secret field, the serial and the other fuse bytes. -/
opaque fuseSecret : Nat → Byte
/-- The serial number of the module (R475 GETID). -/
opaque serial : Bytes
/-- All fuse bytes, the secret field taken as zeros (R484). -/
opaque fuseRest : Bytes
/-- The mask-ROM image (R471, R484). -/
opaque romImage : Bytes

/-- Number of lanterns (R9). -/
def nLanterns : Nat := 4
/-- Columns of one lantern (R13). -/
def nLocal : Nat := 48
/-- Columns of the device (R13). -/
def nColumns : Nat := 192
/-- Partitions of a core (R20). -/
def nPartitions : Nat := 8
/-- Warp slots of a partition (R20). -/
def nSlots : Nat := 16
/-- Lanes of a warp (R20). -/
def nLanes : Nat := 32
/-- Bytes of one vault bank (R16). -/
def bankBytes : Nat := 524288
/-- Bytes of GDDR 7 that one lantern owns (R22, R34). -/
def gddrBytes : Nat := 0xC00000000
/-- Scratchpad bytes of one core (R20). -/
def scratchBytes : Nat := 524288
/-- Register words of one partition (R51). -/
def regWords : Nat := 32768
/-- Resident groups of one core (R51). -/
def maxGroups : Nat := 32
/-- Main-clock cycles between scheduling boundaries (R449). -/
def boundaryCycles : Nat := 76800
/-- Entries of a lantern's fault record queue (R409). -/
def faultEntries : Nat := 1024
/-- Hardware queue slots (27, opening paragraph). -/
def hwSlots : Nat := 64
/-- Fabric ports (R10). -/
def nPorts : Nat := 12

end Sys2Proof.Config
end

