-- ==== Sys2Proof/Machine/State.lean ====
section
/-! DEFINITION. The state of the machine, as plain data: everything the spec gives it.

Registers are lists of 32 lane values; masks are 32-bit vectors with lane l in bit l (R4).  Lists that the spec
numbers (registers, barriers, completion slots, columns) are read by number, and a missing entry reads as its reset
value.  Memory is a list of cells in one canonical form (Ops.lean). -/

namespace Sys2Proof.Machine

/-- Bytes of one memory with the addresses of its poisoned 32-byte sectors (R228), both strictly rising. -/
structure Mem where
  cells : List Host.Cell
  poison : List Nat
  deriving DecidableEq, Repr

/-- A vector register with its shape tag (R40, R102-R105): U, A (base and stride) or G. -/
inductive Reg where
  | u (value : Word)
  | a (base stride : Word)
  | g (lanes : List Word)
  deriving DecidableEq, Repr

/-- The mode of a warp (R337). -/
inductive Mode where
  | user
  | handler
  | firmware
  deriving DecidableEq, Repr

/-- What a parked WAITV repeats (R97, R257): the lane and the address of its read, the word that it compares with, its own word
and the slots of its clause, as they were at issue. -/
structure WaitOp where
  lane : Nat
  addr : Dword
  cmp : Word
  word : Dword
  len : Nat
  deriving DecidableEq, Repr

/-- What a thread waits on inside its clause (R45, R430 `WAIT`). `coll`, `barColl` (R342) and `round` (R67) hold the
cycle of the park, for R414; `sleep` holds the cycles left (R353); `sleep`, `bar` and `harvest`, after which a thread goes
on behind its slot, hold the slots of the clause. -/
inductive Wait where
  | none
  | bar (id : Nat) (phase : Word) (len : Nat)
  | barColl (id since : Nat)
  | presence
  | token
  | waitv (op : WaitOp)
  | coll (op since : Nat)
  | round (since : Nat)
  | sleep (left len : Nat)
  | barw (id : Nat) (phase : Word)
  | fetch
  | harvest (ctx len : Nat)
  deriving DecidableEq, Repr

/-- An entry of the mask stack (R46, R207); kind 1 IF, 2 LOOP, 3 CALL; `rpc` is unset in a new kind-1 entry. -/
structure StackEntry where
  kind : Nat
  rpc : Option Dword
  members : Word
  deriving DecidableEq, Repr

/-- A trap cause with what its record needs (R396-R400). `issued` is the cycle and `ord` the slot that R401 compares. -/
structure Cause where
  code : Nat
  reason : Nat
  prec : Bool
  src : Nat
  pc : Dword
  slot : Nat
  sv : Bool
  hdr : Bool
  op : Nat
  rslot : Nat
  rnext : Bool
  lanes : Word
  grp : Word
  addr : Dword
  det : List Word
  issued : Nat
  /-- the capture of a watchdog's cause (R416) -/
  cap : Bytes := []
  /-- header and slots of the clause of a trapped slot, as they were fetched: it is not decoded again (R404) -/
  clause : List Dword := []
  deriving DecidableEq, Repr

/-- A register result on its way (R98): the lanes it writes, their values and the tag the result takes. -/
inductive Dest where
  | vec (reg : Nat) (lanes : Word) (value : Reg)
  | mask (m : Nat) (lanes : Word) (bits : Word)
  deriving DecidableEq, Repr

/-- An accumulator tile (R277, R290, R432). -/
structure Tile where
  elems : List Word
  ity : Bool
  rowMk : Word
  colMk : Word
  cause : Nat
  reason : Nat
  steps : Nat
  opnd : Bool
  deriving DecidableEq, Repr

/-- What an issued operation does when it completes, besides writing its registers. -/
inductive FlightKind where
  | result                                   -- a register result (R98)
  | store (scope : Nat)                      -- a store (R99)
  | tile (t : Nat) (value : Tile)            -- a tile write (R272)
  | quad (t q : Nat) (words : List Word)     -- FRAGX `.put`: the elements of one quadrant (R299)
  | fill (t sp : Nat) (base : Dword) (stride : Word) (ity : Bool)              -- ACCLD (R294)
  | spill (t sp : Nat) (base : Dword) (stride : Word) (value : Tile)           -- ACCST of a tile as it was at issue (R294)
  | drain (t : Nat) (value : Tile) (desc : Bytes) (fmt : Dword) (mode : Nat) (gen : Option Nat)   -- ACCDRAIN (R296)
  | moved (t : Nat)                          -- ACCST or ACCDRAIN whose rows are on their way to peers (R243, R294)
  | loop (t : Nat)                           -- a matrix loop, stepped by LOOP_STEP (R287)
  | cbload (bank addr : Nat) (image : Bytes) (poisoned : Bool)   -- R348; `addr` that of a poisoned byte
  | engine (slot : Nat)                      -- an engine operation of the completion table (R306)
  | records                                  -- SPAWN, EMIT, RAYB records waiting for room (R64)
  | frame (out : Nat)                        -- FRAMEC until latched (R354)
  | signal (addr : Dword) (n : Nat)          -- QSIG (R352)
  deriving DecidableEq, Repr

/-- A request to a peer that has not been answered (R243): its lanes, and how an answer fills registers. `kind` 0 load,
1 store, 2 atomic; `single` one access whose value goes to every lane of `fill`; `acq` an acquire (R234); `got` the data that
have come of an answer in several flits. -/
structure RemoteReq where
  tag : Nat
  kind : Nat
  lanes : List Nat
  bytes : Nat
  sx : Bool
  single : Bool
  fill : Word
  addr : Dword
  acq : Bool
  got : Bytes := []
  deriving DecidableEq, Repr

/-- A write to memory of another lantern or device that is not acknowledged (R243); `flight` the operation of a write
inside the module, which its completion acknowledges. -/
structure Unack where
  tag : Nat
  since : Nat
  flight : Option Nat
  addr : Dword
  deriving DecidableEq, Repr

/-- An issued operation that has not completed (R98, R99, R101). `counter` is the wait counter it holds; `log` the
operand-log entry whose lanes are not yet replayed (R269); `remote` the accesses that a peer has not answered (R243); `gens` the codebook generations it holds (R192). -/
structure Flight where
  id : Nat
  counter : Option Nat
  dests : List Dest
  flags : List (BitVec 5)
  kind : FlightKind
  log : Option Nat
  remote : List RemoteReq
  gens : List Nat
  pc : Dword
  slot : Nat
  op : Nat
  grp : Word
  issued : Nat
  deriving DecidableEq, Repr

/-- One lane of a log entry (R269, R431); `name` the block name of space 011, `miss` the address without a translation, which for
a texture, ray or attribute access is not the operand's. -/
structure LogLane where
  lane : Nat
  addr : Dword
  name : Word
  data : List Word
  miss : Dword
  deriving DecidableEq, Repr

/-- An entry of a warp's operand log (R269, R270): `flight` the operation that it belongs to, `single` that one access
serves every lane of `fill`. -/
structure LogEntry where
  slotWord : Dword
  prefixWord : Option Dword
  pc : Dword
  slot : Nat
  pcm : Word
  lanes : List LogLane
  flight : Nat
  single : Bool
  fill : Word
  deriving DecidableEq, Repr

/-- A matrix loop, running or queued on a tile (R277, R287, R432); `dead` a loop that completes without effect (R289);
`gens` the generations captured for each bank (R291). -/
structure MLoop where
  tile : Nat
  mapA : Bytes
  mapB : Bytes
  op : Nat
  shape : Nat
  fc : Nat
  zc : Bool
  sp : Bool
  st : Bool
  ce : Bool
  kc : Nat
  steps : Nat
  flight : Nat
  gens : List (Nat × Nat)
  dead : Bool
  deriving DecidableEq, Repr

/-- The thread state that handler entry saves (R404, R430), the mode, and the causes kept until RTE (R401). -/
structure Frame where
  mode : Mode
  pcs : List Dword
  live : Word
  masks : List Word
  stack : List StackEntry
  parked : Word
  wait : List Wait
  rsl : List Nat
  bundle : Word
  ctl : Word
  fair : Nat
  cur : Option Nat
  curPc : Dword
  trapGrp : Word
  rslot : Nat
  rnext : Bool
  trapRec : List Word
  kept : List Cause
  /-- header and slots of the trapped slot's clause, as they were fetched -/
  clause : List Dword
  deriving DecidableEq, Repr

/-- A warp (R38-R41). -/
structure Warp where
  wid : Nat
  part : Nat
  slot : Nat
  mode : Mode
  ng : Nat
  nu : Nat
  acc : Nat
  /-- PCs of the threads (R39) -/
  pcs : List Dword
  /-- threads that started (R416 `EXITED`) -/
  started : Word
  live : Word
  help : Word
  regs : List Reg
  /-- m1 to m7 -/
  masks : List Word
  /-- mask stack, the entry pushed last first (R207) -/
  stack : List StackEntry
  /-- threads parked at a reconvergence PC -/
  parked : Word
  wait : List Wait
  /-- resume slots (R430 `RSL`) -/
  rsl : List Nat
  /-- the slot that transferred a thread to where it stands (R398): clause, slot and opcode; none after sequential flow -/
  came : List (Option (Dword × Nat × Nat))
  bundle : Word
  ctl : Word
  flags : List (BitVec 5)
  seed : Word
  gens : List Word
  /-- fairness count (R48) -/
  fair : Nat
  /-- lowest lane of the current PC group (R47, R430 `CUR`); none while no PC group is eligible after it has gone -/
  cur : Option Nat
  /-- PC of the current PC group, or of the last one while there is none (R47) -/
  curPc : Dword
  /-- LD, ST, SPX, MAT, CPY, IDX, MRG, VQ (R99) -/
  counters : List Nat
  flights : List Flight
  nextFlight : Nat
  /-- operand log, 8 entries (R270) -/
  logs : List (Option LogEntry)
  /-- unacknowledged writes (R243) -/
  unack : List Unack
  /-- flights that a yield awaits (R101) -/
  yields : List Nat
  /-- causes after issue and kept causes, not yet delivered (R397, R401) -/
  causes : List Cause
  /-- the trap record that RDSR group 6 reads (R398) -/
  trapRec : List Word
  /-- a handler-routed trap delivered, waiting for HANDLER_ENTRY (R403) -/
  entering : Option Cause
  /-- handler frame (R404) -/
  hframe : Option Frame
  /-- `sr.lvl[0..7]`, 32 lanes each (R57, R60) -/
  lvl : List (List Word)
  /-- retained pixel or hit records, 16 words, by lane (R382) -/
  recs : List (Option (List Word))
  tiles : List Tile
  loops : List MLoop
  /-- causes kept while the context is saved (R401, R418) -/
  stash : List Cause
  retired : Bool
  deriving DecidableEq, Repr

/-- A hardware barrier (R338); `arrivals` lists the warp of each recorded arrival (R416 `NARR`). -/
structure Barrier where
  ph : Word
  exp : Nat
  arr : Nat
  t0 : Nat
  auto : Bool
  arrivals : List Nat
  deriving DecidableEq, Repr

/-- Cycles that some warps of a group spent parked on a vault column in retention (R231): the first and how many. -/
structure Pause where
  wids : List Nat
  first : Nat
  len : Nat
  deriving DecidableEq, Repr

/-- A completion slot (R304, R305). -/
structure CSlot where
  seq : Nat
  kind : Nat
  inFlight : Bool
  low : Word
  high : Word
  doneAt : Nat
  deriving DecidableEq, Repr

/-- A parked element of GATHR or record of SCATB (R323). -/
structure Parked where
  index : Nat
  va : Dword
  deriving DecidableEq, Repr

/-- A record of SCATB or MRGP as it was read at issue (R321, R326): its place in lane order, key and value. -/
structure ERec where
  index : Nat
  key : Dword
  val : Word
  deriving DecidableEq, Repr

/-- An engine operation in flight (R303-R331, R427): its completion slot, descriptor copy, rounding mode at issue,
address (PFL2) and number (lines of PFL2, region of BINRPL, stream of MRGP, op of SCATB); records still to be handled;
the presence bits that it cleared, the lines that it wrote; parked elements and elements refused; what its status counts
so far; the status when only acknowledgements of peers are awaited (`sent`). -/
structure EngineOp where
  slot : Nat
  op : Nat
  wid : Nat
  flight : Nat
  desc : Bytes
  mode : Nat
  addr : Dword
  arg : Nat
  recs : List ERec
  cleared : List Nat
  written : List Nat
  parked : List Parked
  refused : List Nat
  got : Nat
  det : Nat
  err : Nat
  cause : Nat
  start : Nat
  result : Option (Word × Word)
  sent : List Unack
  deriving DecidableEq, Repr

/-- A record of the merge network: key and value (R326). -/
structure MRec where
  key : Dword
  val : Word
  deriving DecidableEq, Repr

/-- A run that a stream has spilled (R326). -/
structure Run where
  strm : Nat
  seq : Nat
  addr : Dword
  recs : List MRec
  deriving DecidableEq, Repr

/-- A stream of a merge session (R325-R327); `part` holds its records in push order. -/
structure Stream where
  bound : Option Nat
  part : List MRec
  accepted : Nat
  full : Bool
  shareUsed : Nat
  deriving DecidableEq, Repr

/-- State of a merge session as MRGS reports it (R331). -/
inductive SessState where
  | none
  | waiting
  | opened
  | merging
  | closed
  deriving DecidableEq, Repr

/-- A merge session (R324-R331); `tokens` are the completion slots and uses of its MRGO and MRGP. -/
structure Session where
  desc : Bytes
  state : SessState
  streams : List Stream
  runs : List Run
  used : Nat
  cause : Nat
  slot : Nat
  tokens : List (Nat × Nat)
  deriving DecidableEq, Repr

/-- A regrouping round (R67, R345): operands and the warps that have arrived. -/
structure Regrp where
  cont : Dword
  key : Nat
  first : Nat
  count : Nat
  warps : List Nat
  since : Nat
  deriving DecidableEq, Repr

/-- An entry of the range-lock table (R308): ranges as space, low and high byte. -/
structure Lock where
  grp : Nat
  ctx : Nat
  slot : Nat
  op : Nat
  srcSpace : Nat
  srcLo : Nat
  srcHi : Nat
  dstSpace : Nat
  dstLo : Nat
  dstHi : Nat
  /-- further destination ranges: scale streams of CPY, MRGO, BINRPL -/
  more : List (Nat × Nat × Nat)
  /-- further source ranges: scale streams of CPY -/
  srcMore : List (Nat × Nat × Nat)
  /-- the use of the completion slot that the operation took (R304) -/
  seq : Nat
  /-- cycle of issue, which tells earlier operations from later ones -/
  start : Nat
  deriving DecidableEq, Repr

/-- A group on a core (R50). -/
structure Group where
  uid : Nat
  ctx : Nat
  launch : Nat
  /-- the launch record and argument block that it runs under (R434, R437, R61) -/
  record : Bytes
  args : Bytes
  col : Nat
  p0 : Nat
  gid : Nat
  /-- warp count (R338) -/
  wcount : Nat
  /-- node and key of a lit group -/
  lit : Option (Nat × Word)
  warps : List Warp
  scrSize : Nat
  scr : Mem
  /-- scratchpad lines whose presence bit is clear (R224) -/
  absent : List Nat
  gregs : List Word
  bars : List Barrier
  ctab : List CSlot
  ops : List EngineOp
  session : Option Session
  /-- the session that an MRGC in flight merges (R329) -/
  closing : Option Session
  /-- the session that closed last (R331) -/
  lastClosed : Option Session
  regrp : Option Regrp
  /-- Taper bindings not complete (R333) -/
  bindings : List Nat
  started : Bool
  /-- the `CO` item of the group (R56) -/
  coItem : Option Nat
  /-- indexes of the tiles whose records lit the group (R376) -/
  pixelTiles : List Nat
  /-- range locks of the group while its context is saved (R334) -/
  savedLocks : List Lock
  /-- cycles that its watchdogs do not count (R231, R414), the latest first -/
  pauses : List Pause
  deriving DecidableEq, Repr

/-- A generation of a codebook bank (R191); `uid` tells generations of one core apart (R192). -/
structure Gen where
  uid : Nat
  len : Nat
  mode : Nat
  lo : Word
  hi : Word
  rs : Word
  entries : List Dword
  deriving DecidableEq, Repr

/-- A codebook bank (R191, R349); `shv` as R425. -/
structure Bank where
  cur : Gen
  shadow : Gen
  number : Nat
  shv : Bool
  deriving DecidableEq, Repr

/-- The clause that a partition is issuing (R42): its words after the header, decoded as a whole before. -/
structure Running where
  grp : Nat
  wid : Nat
  pc : Dword
  header : Dword
  words : List Dword
  idx : Nat
  lanes : Word
  deriving DecidableEq, Repr

/-- A partition (R41, R42, R44). -/
structure Partition where
  running : Option Running
  lastSlot : Nat
  deriving DecidableEq, Repr

/-- Vault states (R231). -/
inductive VaultState where
  | normal
  | throttle
  | retention
  | lost
  deriving DecidableEq, Repr

/-- A column: its core, vault and L2 slice (R12, R16-R18, R231-R233, R481). -/
structure Column where
  parts : List Partition
  /-- context, `CBPRE` and `CBMASK` that the banks serve (R438) -/
  bankOwner : Option (Nat × Dword × Nat)
  banks : List Bank
  nextGen : Nat
  locks : List (Option Lock)
  /-- group that holds the merge network, and those that wait (R325) -/
  merge : Option Nat
  mergeWait : List Nat
  /-- present vault banks (R16, R17) -/
  bankMask : Word
  vault : VaultState
  /-- vault state at the last sample (R360) -/
  vaultSeen : VaultState
  temp : Int
  hot : Bool
  corrected : Nat
  sliceUp : Bool
  /-- end of the shutdown window of R233 -/
  window : Option Nat
  /-- dirty lines of the slice, oldest first -/
  dirty : List Nat
  cacheTrip : Bool
  computeTrip : Bool
  stopped : Bool
  deriving DecidableEq, Repr

/-- An entry of a lantern's fault record queue (R409). `grp`, `wid` and `slotOf` say which replay it belongs to;
`dev` what a device access waits for (R486). -/
structure FaultEntry where
  va : Dword
  ctx : Nat
  kind : Nat
  acc : Nat
  col : Nat
  wslot : Nat
  log : Nat
  idx : Nat
  stat : Nat
  seq : Nat
  grp : Nat
  wid : Nat
  fdom : Option Nat
  deriving DecidableEq, Repr

/-- A table of a translation tree (R479): its level, its address and its entries that are not 0. -/
structure Table where
  level : Nat
  base : Dword
  entries : List (Nat × Dword)
  deriving DecidableEq, Repr

/-- What an owner's TLB has gathered for one page since it was last written back (R222): the cycle in which it first gained
each bit, and the launches that set one. -/
structure TlbEntry where
  ctx : Nat
  lan : Nat
  va : Dword
  drt : Option Nat
  acc : Option Nat
  launches : List Nat
  deriving DecidableEq, Repr

/-- A record of a node queue (R65, R381) with its arrival cycle; `words` is the payload, `full` the 16-word record
that is retained (R382), `first` says that it begins a four-lane slot of a `QUAD` node (R63), `hit` that it is a hit
record, `tile` the tile it came from. -/
structure QRec where
  seq : Nat
  arrive : Nat
  helper : Bool
  first : Bool
  hit : Bool
  words : List Word
  full : Option (List Word)
  tile : Option Nat
  deriving DecidableEq, Repr

/-- A bin (R62, R63). -/
structure Bin where
  node : Nat
  key : Word
  lan : Nat
  recs : List QRec
  deriving DecidableEq, Repr

/-- A group that a bin has lit and no core has pulled yet (R63, R451): its number (R60) and its records; what it takes from
its node (R61). -/
structure Lit where
  record : Bytes
  args : Bytes
  quad : Bool
  litAt : Nat
  node : Nat
  key : Word
  lan : Nat
  gid : Nat
  recs : List QRec
  deriving DecidableEq, Repr

/-- A unit of records that waits to enter its node queue (R64, R486), the threads that sent it, and the flight (group, warp,
flight) or the tile that it holds up. -/
structure WaitRec where
  node : Nat
  key : Word
  lan : Nat
  recs : List QRec
  from' : Word
  flight : Option (Nat × Nat × Nat)
  tile : Option Nat
  deriving DecidableEq, Repr

/-- A node of the context's node table (R61): the descriptor, the launch record it names, and its counters. -/
structure Node where
  desc : Bytes
  record : Bytes
  args : Bytes
  wcnt : Nat
  lcnt : Nat
  litGroups : Nat
  /-- columns on which a group that the node lit has been placed (R242) -/
  cols : List Nat
  deriving DecidableEq, Repr

/-- A launch that has started and not completed (R434-R440, R444). `checked` its entry has been read (R439); `runtime` the
boundaries counted (R440); `claimableSince` the boundary from which groups have been claimable and unplaced (R450). -/
structure Launch where
  uid : Nat
  ctx : Nat
  qid : Nat
  cmd : Nat
  token : Dword
  lrec : Dword
  /-- the launch record, and behind it the binding block (R332) -/
  record : Bytes
  args : Bytes
  total : Nat
  /-- central counter (R344) -/
  next : Nat
  /-- groups placed and not retired -/
  alive : Nat
  checked : Bool
  runtime : Nat
  claimableSince : Option Nat
  /-- columns on which a group of the launch has been placed (R242) -/
  cols : List Nat
  /-- column of the first group placed of each level item: level, item, column (R56) -/
  homes : List (Nat × Nat × Nat)
  /-- tokens observed by WAITTOKs of the queue before it started, with the columns of their producers (R242, R448) -/
  waited : List (Dword × List Nat)
  deriving DecidableEq, Repr

/-- A state of a screen tile (R376). -/
inductive TileState where
  | free
  | raster
  | spilled
  | closed
  | classifying
  | released
  deriving DecidableEq, Repr

/-- A screen tile (R374-R377): the samples that differ from the cleared image, by sample index. -/
structure STile where
  index : Nat
  state : TileState
  handle : Nat
  image : List (Nat × Word × Dword)
  lastWrite : Nat
  /-- column of the slice that holds the image (R375, R379) -/
  slice : Nat
  lost : Bool
  deriving DecidableEq, Repr

/-- A submitted position block (R369): its group, its scratchpad offset and its bytes. -/
structure Submission where
  grp : Nat
  off : Nat
  block : Bytes
  deriving DecidableEq, Repr

/-- A triangle binned to a tile (R374): snapped vertices in units of 2^-8, depths, identifier and view. -/
structure TriWork where
  tile : Nat
  x : List Int
  y : List Int
  z : List Word
  id : Dword
  view : Nat
  deriving DecidableEq, Repr

/-- The raster pass that a context holds open (R365-R367). -/
structure Pass where
  addr : Dword
  desc : Bytes
  views : List Bytes
  openedAt : Nat
  /-- queue and index of each PASSCLOSE that has started -/
  closing : List (Nat × Nat)
  /-- the close has taken effect (R367) -/
  closed : Bool
  /-- the tiles that are not FREE -/
  tiles : List STile
  subs : List Submission
  work : List TriWork
  submitted : Nat
  changed : Nat
  spills : Nat
  reloads : Nat
  culled : Nat
  lost : Bool
  refused : Bool
  deriving DecidableEq, Repr

/-- A storage of the block store (R259): place, base, reference count; a name refers to a storage. -/
structure Storage where
  id : Nat
  place : BlockPlace
  refs : Nat
  deriving DecidableEq, Repr

/-- The phase of a context (R417-R422, R407); `ending` while its warps still issue to the end of their clauses and its issued
stores perform, with the trap record and the capture of its diagnostic record, and the cycle in which it began. -/
inductive CtxPhase where
  | running
  | saveRequested (byHost : Bool) (since : Nat)
  | saving (byHost : Bool) (began : Nat)
  | saved (byHost : Bool)
  | ending (rec : List Word) (cap : Bytes) (since : Nat)
  | terminated
  deriving DecidableEq, Repr

/-- A context (R478) with everything that belongs to it. -/
structure Ctx where
  id : Nat
  block : Bytes
  phase : CtxPhase
  fdom : Nat
  save : Dword
  saveSize : Nat
  bsVault : Nat
  bsPool : Nat
  bmap : List (Dword × Nat × Nat)
  grants : List (Nat × Nat)
  roots : List (Nat × Dword)
  nodes : List Node
  /-- tokens to which QSIG has added, with the columns of their producers (R242) -/
  signals : List (Dword × List Nat)
  bins : List Bin
  lits : List Lit
  waitRecs : List WaitRec
  pass : Option Pass
  debugger : Bool
  /-- halted for the debugger (R406) -/
  halted : Bool
  /-- traps delivered (R398 word 15) -/
  tseq : Word
  diag : Option Bytes
  meas : Bytes
  nmeas : Nat
  names : List (Nat × Nat)
  storages : List Storage
  /-- vault and pool areas from which blocks are taken: place and first byte (R259) -/
  bsAreas : List BlockPlace
  nextStorage : Nat
  savedGroups : List Group
  savedBanks : List (Nat × List Bank)
  savedAt : Nat
  resumedAt : Nat
  /-- a context that the firmware itself launches (R337) -/
  firmware : Bool
  /-- memory as instruction fetch may still see it (R81): as it was when the first of the running launches was submitted -/
  oldCode : Option Mem
  deriving DecidableEq, Repr

/-- A command of a queue that has started and not retired (R443, R444). -/
structure Cmd where
  index : Nat
  op : Nat
  data : Bytes
  launch : Option Nat
  done : Bool
  deriving DecidableEq, Repr

/-- A user queue (R441, R442, R446, R449). -/
structure Queue where
  qid : Nat
  ctx : Nat
  header : Dword
  ring : Dword
  cap : Nat
  wptr : Word
  rptr : Word
  prio : Nat
  slice : Nat
  stat : Word
  mapped : Bool
  pending : Bool
  sliceLeft : Nat
  unmappedAt : Nat
  /-- next command to start -/
  startPtr : Word
  cmds : List Cmd
  waited : List (Dword × List Nat)
  /-- the header in memory does not hold `rptr` and `stat` yet (R486) -/
  headerDue : Bool
  deriving DecidableEq, Repr

/-- A frame that an output has latched (R465, R466). -/
structure DFrame where
  desc : Bytes
  ctx : Nat
  deriving DecidableEq, Repr

/-- A commit that an output has not latched yet (R354). -/
structure Commit where
  grp : Nat
  wid : Nat
  flight : Nat
  ctx : Nat
  addr : Dword
  deriving DecidableEq, Repr

/-- A display output (R464-R469). `next` is the frame whose deadline comes next. -/
structure Output where
  ctx : Nat
  mode : Bytes
  commits : List Commit
  /-- frames latched since the last deadline -/
  latched : List DFrame
  /-- the last frame latched -/
  last : Option DFrame
  /-- the context of the output has been terminated and no later commit latched (R469) -/
  vigilHold : Bool
  /-- number of the frame whose deadline comes next -/
  next : Nat
  /-- the frame fixed at the last deadline: descriptor, Vigil, dropped, the pose read -/
  fixed : Option (Option DFrame × Bool × Bool × Pose)
  fixedK : Nat
  /-- the frame being scanned -/
  scan : Option (Option DFrame × Bool × Bool × Pose)
  scanK : Nat
  dropped : Nat
  /-- the pose page does not hold the pose register's pose yet (R486) -/
  poseDue : Bool
  /-- retire records still to be written, oldest first: context, address and bytes (R467, R486) -/
  retires : List (Nat × Dword × Bytes)
  deriving DecidableEq, Repr

/-- A fabric port (R454, R455). -/
structure Port where
  up : Bool
  txSeq : BitVec 8
  rxSeq : BitVec 8
  replay : List Flit
  /-- flits that wait behind 128 unacknowledged ones, or for a port to come up -/
  queued : List Flit
  fails : Nat
  /-- a resend from `rxSeq` is asked of the partner -/
  asking : Bool
  /-- the flits put on the link by the last step that put any there, in order (R455) -/
  sent : List Flit
  deriving DecidableEq, Repr

/-- The switch's state of the module's id (R459, R476). -/
inductive SwitchState where
  | joined
  | departing
  | drained
  | absent
  | joining
  | untrained
  deriving DecidableEq, Repr

/-- A peer's request that waits on a translation of this module (R457). -/
structure PeerReq where
  port : Nat
  dev : Nat
  slan : Nat
  lan : Nat
  fdom : Nat
  psn : BitVec 7
  req : FlitReq
  deriving DecidableEq, Repr

/-- A write of the device to another module, or one of a context that has ended, which is not acknowledged (R243, R407,
R486). -/
structure Owed where
  ctx : Nat
  tag : Nat
  since : Nat
  addr : Dword
  deriving DecidableEq, Repr

/-- The phase of a start (R471-R473). -/
inductive StartPhase where
  | off
  | starting (step : Nat)
  | ready
  | halted (step : Nat)
  deriving DecidableEq, Repr

/-- The pose register (R470). -/
structure PoseReg where
  pose : Pose
  got : Bool
  deriving DecidableEq, Repr

/-- Who moves next: a partition issues its next slot, a step of the table comes about, or one of two things that no step of
the table is: the host writes its own memory, or a read finds an uncorrectable error in a sector of a group's scratchpad
or of the module's memory (R228). -/
inductive Turn where
  | issue (col part : Nat)
  | event (i : Instr)
  | hostWrite (addr : Nat) (data : Bytes)
  | bitError (grp : Option Nat) (key : Nat)
  deriving DecidableEq, Repr

/-- Why the machine stops with a fault.
`absentFrame`: raised by the physical accesses of Ops.lean when a leaf entry names a GDDR 7 address beyond the
lantern's capacity (R37), for which the spec gives no effect; safe. -/
inductive Fault where
  | absentFrame
  deriving DecidableEq, Repr

/-- Why the machine refuses an instruction.
`notModelled`: raised by the arms of Dispatch.lean alone, for an instruction without a meaning yet; safe. -/
inductive Refusal where
  | notModelled (mnemonic : String)
  deriving DecidableEq, Repr

/-- The machine: one Ellinel E9 module with its host memory. -/
structure State where
  /-- the model's own: the moves that the environment and the arbitration bring, first one next -/
  agenda : List Turn
  /-- the model's own: the machine's own moves that have still to come in this round (R76) -/
  round : List Turn
  /-- the model's own: number of free values taken so far -/
  fresh : Nat
  /-- the model's own: the partition (column, partition) whose slot `exec` executes -/
  issuer : Nat × Nat
  /-- the model's own: a stop met inside a step -/
  stop : Option Fault
  clock : Dword
  /-- fabric time in ns, and its remainder in units of 1/12 ns (R30, R5) -/
  ftime : Dword
  ftimeRem : Nat
  /-- time of the switch while it is behind the module, with its remainder (R30): `ftime` advances at half rate -/
  ftimeSlow : Option (Dword × Nat)
  acquired : Bool
  holdover : Bool
  lastBeacon : Dword
  phase : StartPhase
  fallback : Bool
  gen : Word
  devid : Nat
  switch : SwitchState
  /-- fabric time at the start of step 6 -/
  step6 : Dword
  discovery : Bytes
  /-- the identity key has been derived (R471, R483) -/
  keyed : Bool
  mem : Mem
  columns : List Column
  groups : List Group
  nextGroup : Nat
  launches : List Launch
  nextLaunch : Nat
  contexts : List Ctx
  nextCtx : Nat
  /-- tables of the translation trees, per lantern (R479) -/
  tables : List (List Table)
  nextTable : Nat
  tlb : List TlbEntry
  /-- free-page pools, per lantern (R476 POOL) -/
  pools : List (List Dword)
  /-- fault record queues, per lantern (R409), those waiting for room (R410), and arrival numbers -/
  faultq : List (List FaultEntry)
  faultWait : List (List FaultEntry)
  faultSeq : List Nat
  queues : List Queue
  nextQueue : Nat
  /-- queue-wake marks (R463) -/
  wakes : List Dword
  /-- the next boundary reads every queue -/
  wakeAll : Bool
  /-- `QWST` bit 0 -/
  wakeOver : Bool
  lastBoundary : Dword
  mbcmd : Bytes
  mbrsp : Bytes
  mbst : Word
  /-- the command that the firmware serves (R462) -/
  serving : Option Bytes
  /-- the command in service has begun and waits for its end -/
  begun : Bool
  /-- the RESET whose start runs (R475) -/
  resetCmd : Option Bytes
  irqc : Word
  ports : List Port
  nextTag : Nat
  peerReqs : List PeerReq
  /-- flits of peers' atomics whose last operands have not come yet -/
  peerParts : List PeerReq
  owed : List Owed
  poseReg : PoseReg
  outputs : List Output
  memTemp : List Int
  memHot : List Bool
  ring : List Word
  milliVolt : List Word
  lastSample : Dword
  /-- event log entries, newest last, and the number of the next event (R482) -/
  events : List Bytes
  nextEvent : Nat
  deriving DecidableEq, Repr

/-- A generation that holds nothing (R191). -/
def Gen.empty : Gen :=
  { uid := 0, len := 0, mode := 0, lo := 0, hi := 0, rs := 0, entries := [] }

/-- A bank with two empty generations (R438). -/
def Bank.empty : Bank :=
  { cur := Gen.empty, shadow := Gen.empty, number := 0, shv := false }

/-- Local columns 8 to 15 and 32 to 39 are hot-zone columns (R16). -/
def hotZone (loc : Nat) : Bool :=
  (8 ≤ loc && loc ≤ 15) || (32 ≤ loc && loc ≤ 39)

/-- The banks that a column has when none is retired (R16). -/
def designBanks (col : Nat) : Word :=
  if hotZone (col % 48) then 0x0000FFFF#32 else 0xFFFFFFFF#32

/-- A column before any start. -/
def Column.reset (col : Nat) : Column :=
  { parts := List.replicate 8 { running := none, lastSlot := 15 }
    bankOwner := none
    banks := List.replicate 8 Bank.empty
    nextGen := 1
    locks := List.replicate 64 none
    merge := none
    mergeWait := []
    bankMask := designBanks col
    vault := .normal
    vaultSeen := .normal
    temp := 0
    hot := false
    corrected := 0
    sliceUp := true
    window := none
    dirty := []
    cacheTrip := false
    computeTrip := false
    stopped := false }

/-- A display output assigned to no context. -/
def Output.reset : Output :=
  { ctx := 0, mode := [], commits := [], latched := [], last := none, vigilHold := false, next := 0, fixed := none,
    fixedK := 0, scan := none, scanK := 0, dropped := 0, poseDue := false, retires := [] }

/-- A port that is down. -/
def Port.reset : Port :=
  { up := false, txSeq := 0, rxSeq := 0, replay := [], queued := [], fails := 0, asking := false, sent := [] }

/-- The empty pose (R470): orientation (1, 0, 0, 0), capture time 0, sequence number 0. -/
def Pose.reset : Pose :=
  { qw := 0x3F800000#32, qx := 0, qy := 0, qz := 0, time := 0, seq := 0 }

/-- The machine at power-on, before the steps of a cold start (R471): no context, no command, `sr.clock` 0 (R29),
`sr.ftime` 0 (R30), `GEN` 0 (it counts starts since power-on, R34), no device id (R15). -/
def State.reset : State :=
  { agenda := []
    round := []
    fresh := 0
    issuer := (0, 0)
    stop := none
    clock := 0
    ftime := 0
    ftimeRem := 0
    ftimeSlow := none
    acquired := false
    holdover := false
    lastBeacon := 0
    phase := .off
    fallback := false
    gen := 0
    devid := 0
    switch := .untrained
    step6 := 0
    discovery := []
    keyed := false
    mem := { cells := [], poison := [] }
    columns := (List.range 192).map Column.reset
    groups := []
    nextGroup := 1
    launches := []
    nextLaunch := 1
    contexts := []
    nextCtx := 1
    tables := List.replicate 4 []
    nextTable := 1
    tlb := []
    pools := List.replicate 4 []
    faultq := List.replicate 4 []
    faultWait := List.replicate 4 []
    faultSeq := List.replicate 4 0
    queues := []
    nextQueue := 1
    wakes := []
    wakeAll := false
    wakeOver := false
    lastBoundary := 0
    mbcmd := List.replicate 256 0
    mbrsp := List.replicate 256 0
    mbst := 0
    serving := none
    begun := false
    resetCmd := none
    irqc := 0
    ports := List.replicate 12 Port.reset
    nextTag := 1
    peerReqs := []
    peerParts := []
    owed := []
    poseReg := { pose := Pose.reset, got := false }
    outputs := List.replicate 4 Output.reset
    memTemp := List.replicate 48 0
    memHot := List.replicate 48 false
    ring := List.replicate 48 0
    milliVolt := List.replicate 4 0
    lastSample := 0
    events := []
    nextEvent := 0 }

end Sys2Proof.Machine
end

