-- ==== Sys2Proof/Machine/Ops.lean ====
section
/-! DEFINITION. The named operations over registers, memory and the parts of the machine, translation (R221, R479),
and the taking of a trap and the return from one (R396-R408). -/

namespace Sys2Proof.Machine

/-! ### Lanes -/

/-- The lanes of a mask, ascending (R6). -/
def lanesOf (m : Word) : List Nat := (List.range 32).filter (fun l => m.getLsbD l)

/-- The mask of the lanes that satisfy a test. -/
def maskOf (p : Nat → Bool) : Word :=
  (List.range 32).foldl (fun a l => if p l then a ||| (1#32 <<< l) else a) 0#32

/-- The lowest lane of a mask; 0 for the empty one. -/
def lowest (m : Word) : Nat := (lanesOf m).headD 0

/-- The mask of one lane. -/
def laneBit (l : Nat) : Word := 1#32 <<< l

/-- The number of lanes of a mask. -/
def popc (m : Word) : Nat := (lanesOf m).length

/-- Sign extension of an `n`-bit vector to an integer. -/
def sext {n : Nat} (x : BitVec n) : Int := x.toInt

/-- `x` modulo 2^64 as an address. -/
def addr64 (x : Int) : Dword := BitVec.ofInt 64 x

/-- A numbered list with entry `n` replaced; entries that it lacks below `n` hold `d`. -/
def putAt {α : Type} (d : α) : List α → Nat → α → List α
  | [], 0, x => [x]
  | [], n + 1, x => d :: putAt d [] n x
  | _ :: t, 0, x => x :: t
  | h :: t, n + 1, x => h :: putAt d t n x

/-! ### Bytes -/

/-- The number that bytes hold, little-endian (R4). -/
def leNat : Bytes → Nat
  | [] => 0
  | b :: t => b.toNat + 256 * leNat t

/-- A number as `n` bytes, little-endian (R4). -/
def toBytes : Nat → Nat → Bytes
  | 0, _ => []
  | n + 1, x => BitVec.ofNat 8 x :: toBytes n (x / 256)

/-- A field of `n` bytes at an offset of a structure. -/
def field (b : Bytes) (off n : Nat) : Nat := leNat ((b.drop off).take n)

/-- A word at an offset of a structure. -/
def fieldW (b : Bytes) (off : Nat) : Word := BitVec.ofNat 32 (field b off 4)

/-- An address at an offset of a structure. -/
def fieldD (b : Bytes) (off : Nat) : Dword := BitVec.ofNat 64 (field b off 8)

/-- The bytes of a word. -/
def wordBytes (w : Word) : Bytes := toBytes 4 w.toNat

/-- The bytes of a double word. -/
def dwordBytes (w : Dword) : Bytes := toBytes 8 w.toNat

/-- Whether every byte of a range of a structure is 0. -/
def zeroField (b : Bytes) (off n : Nat) : Bool := ((b.drop off).take n).all (· = 0)

/-! ### Memory -/

/-- The byte of a list of cells at an address; an unlisted byte reads 0. -/
def cellGet : List Host.Cell → Nat → Byte
  | [], _ => 0
  | (k, b) :: t, a => if k = a then b else if a < k then 0 else cellGet t a

/-- A list of cells with one byte written, in canonical form: rising addresses, no byte that reads as unlisted. -/
def cellPut : List Host.Cell → Nat → Byte → List Host.Cell
  | [], a, b => if b = 0 then [] else [(a, b)]
  | (k, c) :: t, a, b =>
    if a < k then (if b = 0 then (k, c) :: t else (a, b) :: (k, c) :: t)
    else if a = k then (if b = 0 then t else (a, b) :: t)
    else (k, c) :: cellPut t a b

/-- A rising list of numbers with one more. -/
def natPut : List Nat → Nat → List Nat
  | [], a => [a]
  | k :: t, a => if a < k then a :: k :: t else if a = k then k :: t else k :: natPut t a

/-- The cells rise from `lo` on and none holds 0. -/
def cellsWf : Nat → List Host.Cell → Bool
  | _, [] => true
  | lo, (k, b) :: t => lo ≤ k && b ≠ 0 && cellsWf (k + 1) t

/-- The numbers rise from `lo` on. -/
def natsWf : Nat → List Nat → Bool
  | _, [] => true
  | lo, k :: t => lo ≤ k && natsWf (k + 1) t

/-- The canonical form of a memory. -/
def Mem.wf (m : Mem) : Bool := cellsWf 0 m.cells && natsWf 0 m.poison

/-- An empty memory. -/
def Mem.empty : Mem := { cells := [], poison := [] }

/-- One byte. -/
def Mem.get (m : Mem) (a : Nat) : Byte := cellGet m.cells a

/-- One byte written; poison is left as it stands. -/
def Mem.put (m : Mem) (a : Nat) (b : Byte) : Mem := { m with cells := cellPut m.cells a b }

/-- `n` bytes from `a` on. -/
def Mem.read (m : Mem) (a n : Nat) : Bytes := (List.range n).map (fun i => m.get (a + i))

/-- Bytes written from `a` on; poison is left as it stands. -/
def Mem.write (m : Mem) (a : Nat) : Bytes → Mem
  | [] => m
  | b :: t => (m.put a b).write (a + 1) t

/-- The sectors (R228) that `n` bytes from `a` on lie in. -/
def sectors (a n : Nat) : List Nat := if n = 0 then [] else (List.range ((a + n - 1) / 32 - a / 32 + 1)).map (· + a / 32)

/-- Whether a byte of a range lies in a poisoned sector. -/
def Mem.poisoned (m : Mem) (a n : Nat) : Bool := (sectors a n).any (fun k => m.poison.contains k)

/-- The first byte of a range that lies in a poisoned sector; the first byte of all where none does. -/
def Mem.badAt (m : Mem) (a n : Nat) : Nat := ((List.range n).find? (fun i => m.poison.contains ((a + i) / 32))).getD 0 + a

/-- The sectors of a range poisoned. -/
def Mem.poisonRange (m : Mem) (a n : Nat) : Mem := { m with poison := (sectors a n).foldl natPut m.poison }

/-- Poison taken from the sectors that writes cover whole (R229). -/
def Mem.healAll (m : Mem) (ws : List (Nat × Bytes)) : Mem :=
  let covered (a : Nat) : Bool := ws.any (fun w => w.1 ≤ a && a < w.1 + w.2.length)
  { m with poison := m.poison.filter (fun k => !((List.range 32).all (fun i => covered (32 * k + i)))) }

/-- The stores of one instruction, in order; a sector written whole loses its poison (R218, R229). -/
def Mem.storeAll (m : Mem) (ws : List (Nat × Bytes)) : Mem :=
  (ws.foldl (fun m w => m.write w.1 w.2) m).healAll ws

/-- A range that reads 0 and holds no poison but that of the sectors it shares. -/
def Mem.clear (m : Mem) (a n : Nat) : Mem :=
  { cells := m.cells.filter (fun c => c.1 < a || a + n ≤ c.1)
    poison := m.poison.filter (fun k => 32 * k < a || a + n < 32 * k + 32) }

/-- A range copied with its poison (R226, R228); the two ranges are apart, of whole sectors. -/
def Mem.copyRange (m : Mem) (src dst n : Nat) : Mem :=
  let inside (a : Nat) : Bool := src ≤ a && a < src + n
  let m' := m.clear dst n
  { cells := (m.cells.filter (fun c => inside c.1)).foldl (fun l c => cellPut l (c.1 - src + dst) c.2) m'.cells
    poison := (m.poison.filter (fun k => inside (32 * k))).foldl (fun l k => natPut l (k - src / 32 + dst / 32)) m'.poison }

/-- Key of a byte of a lantern's GDDR 7. -/
def gddrKey (lan off : Nat) : Nat := lan * 2 ^ 54 + off
/-- Key of a byte of a column's vault. -/
def vaultKey (col off : Nat) : Nat := 2 ^ 57 + col * 2 ^ 24 + off
/-- Key of a byte of host memory. -/
def hostKey (off : Nat) : Nat := 2 ^ 58 + off

/-- A key names a GDDR 7 byte beyond the lantern's capacity (R37). -/
def absentKey (k : Nat) : Bool := k < 2 ^ 56 && Config.gddrBytes ≤ k % 2 ^ 54

/-! ### Parts of the machine -/

def State.column (s : State) (c : Nat) : Column := s.columns.getD c (Column.reset c)
def State.setColumn (s : State) (c : Nat) (x : Column) : State := { s with columns := s.columns.set c x }
def State.updColumn (s : State) (c : Nat) (f : Column → Column) : State := s.setColumn c (f (s.column c))

def State.group (s : State) (uid : Nat) : Option Group := s.groups.find? (fun g => g.uid = uid)
def State.setGroup (s : State) (g : Group) : State :=
  { s with groups := s.groups.map (fun h => if h.uid = g.uid then g else h) }
def State.updGroup (s : State) (uid : Nat) (f : Group → Group) : State :=
  match s.group uid with
  | some g => s.setGroup (f g)
  | none => s

def Group.warp (g : Group) (wid : Nat) : Option Warp := g.warps.find? (fun w => w.wid = wid)
def Group.setWarp (g : Group) (w : Warp) : Group :=
  { g with warps := g.warps.map (fun v => if v.wid = w.wid then w else v) }
def State.updWarp (s : State) (uid wid : Nat) (f : Warp → Warp) : State :=
  s.updGroup uid (fun g => match g.warp wid with
    | some w => g.setWarp (f w)
    | none => g)
def State.warp (s : State) (uid wid : Nat) : Option Warp :=
  match s.group uid with
  | some g => g.warp wid
  | none => none

def State.ctx (s : State) (id : Nat) : Option Ctx := s.contexts.find? (fun c => c.id = id)
def State.setCtx (s : State) (c : Ctx) : State :=
  { s with contexts := s.contexts.map (fun d => if d.id = c.id then c else d) }
def State.updCtx (s : State) (id : Nat) (f : Ctx → Ctx) : State :=
  match s.ctx id with
  | some c => s.setCtx (f c)
  | none => s

/-- The context has ended, or ends with its last clauses (R407). -/
def CtxPhase.over : CtxPhase → Bool
  | .ending .. => true
  | .terminated => true
  | _ => false

/-- A context's Lamplighter lights bins and takes records: it runs or drains for a save (R63, R418). -/
def Ctx.lights (c : Ctx) : Bool :=
  match c.phase with
  | .running => true
  | .saveRequested .. => true
  | .saving .. => true
  | _ => false

/-- A context issues: it runs, or a save is requested and has not begun (R418). -/
def Ctx.issues (c : Ctx) : Bool :=
  match c.phase with
  | .running => true
  | .saveRequested .. => true
  | _ => false

def State.launchOf (s : State) (uid : Nat) : Option Launch := s.launches.find? (fun l => l.uid = uid)
def State.updLaunch (s : State) (uid : Nat) (f : Launch → Launch) : State :=
  { s with launches := s.launches.map (fun l => if l.uid = uid then f l else l) }

def State.queueOf (s : State) (qid : Nat) : Option Queue := s.queues.find? (fun q => q.qid = qid)
def State.updQueue (s : State) (qid : Nat) (f : Queue → Queue) : State :=
  { s with queues := s.queues.map (fun q => if q.qid = qid then f q else q) }

/-- Fields of a launch record (R434). -/
def recEntry (r : Bytes) : Dword := fieldD r 0x00
def recGrid (r : Bytes) : Nat := field r 0x08 4
def recNG (r : Bytes) : Nat := field r 0x0C 2
def recNU (r : Bytes) : Nat := field r 0x0E 1
def recW (r : Bytes) : Nat := field r 0x0F 1
def recScr (r : Bytes) : Nat := field r 0x10 4
def recAcc (r : Bytes) : Nat := field r 0x14 1
/-- The fairness period (R48). -/
def recFair (r : Bytes) : Nat := 2 ^ (if field r 0x15 1 = 0 then 10 else field r 0x15 1)
/-- The watchdog period (R414). -/
def recWatch (r : Bytes) : Nat := 2 ^ (if field r 0x16 1 = 0 then 24 else field r 0x16 1)
/-- Frame-producer. -/
def recFP (r : Bytes) : Bool := (fieldW r 0x17).getLsbD 0
/-- Pre-emptible. -/
def recPre (r : Bytes) : Bool := (fieldW r 0x17).getLsbD 1
/-- Uses codebook banks. -/
def recCB (r : Bytes) : Bool := (fieldW r 0x17).getLsbD 2
/-- Format slot n. -/
def recFS (r : Bytes) (n : Nat) : Dword := fieldD r (0x40 + 8 * n)
def recTrapH (r : Bytes) : Dword := fieldD r 0x88

/-- The pass of a position launch (R434). -/
def recPass (r : Bytes) : Dword := fieldD r 0xA8

/-- The next number for a free value. -/
def State.draw (s : State) : Nat × State := (s.fresh, { s with fresh := s.fresh + 1 })

/-- Column of a local column of a lantern (R13). -/
def columnOf (lan loc : Nat) : Nat := lan * 48 + loc
/-- Lantern of a column (R13). -/
def lanternOf (col : Nat) : Nat := col / 48

/-- An MSI-X vector raised (R462). -/
def State.irq (s : State) (v : Nat) : State := { s with irqc := s.irqc ||| (1#32 <<< v) }

/-- The end of a meaning: the next state, or the stop met inside it. -/
def done (s : State) : Host.Outcome State Fault Refusal :=
  match s.stop with
  | none => .next s
  | some f => .fault f

/-! ### Registers -/

/-- A lane of a register (R102): base + lane * stride for tag A. -/
def Reg.get : Reg → Nat → Word
  | .u v, _ => v
  | .a b st, l => b + st * BitVec.ofNat 32 l
  | .g v, l => v.getD l 0

/-- Tags as SHAPE numbers them (R166). -/
def Reg.tag : Reg → Nat
  | .u _ => 0
  | .a .. => 1
  | .g _ => 2

/-- Register `r` of a warp. -/
def Warp.reg (w : Warp) (r : Nat) : Reg := w.regs.getD r (.u 0)

/-- Lane `l` of register `r`. -/
def Warp.rd (w : Warp) (r l : Nat) : Word := (w.reg r).get l

/-- Register `r` replaced. -/
def Warp.setReg (w : Warp) (r : Nat) (x : Reg) : Warp := { w with regs := putAt (.u 0) w.regs r x }

/-- A mask register; m0 reads as the live mask (R102). -/
def Warp.mask (w : Warp) (m : Nat) : Word := if m = 0 then w.live else w.masks.getD (m - 1) 0

/-- A mask register replaced; a write to m0 has no effect (R102). -/
def Warp.setMask (w : Warp) (m : Nat) (x : Word) : Warp :=
  if m = 0 then w else { w with masks := putAt 0 w.masks (m - 1) x }

/-- The register after a write of `val` (R104): every lane of `lanes` takes its value and the others keep what they read.
A full write of a U or A value leaves that value in every lane; every other write leaves tag G.  DEDUCED (log entry 33): exited
lanes read the new value after a full write of tag U or A, as R104 says, and keep the old one under tag G, as R142 says. -/
def mergeReg (full : Bool) (lanes : Word) (old val : Reg) : Reg :=
  let mixed : Reg := .g ((List.range 32).map (fun l => if lanes.getLsbD l then val.get l else old.get l))
  match val with
  | .g _ => mixed
  | _ => if full then val else mixed

/-- Whether an index is addressable under the budget (R71, R72). -/
def Warp.inBudget (w : Warp) (r : Nat) : Bool := if w.nu = 0 then r < w.ng else r < w.ng + w.nu

/-- Whether an index names a compact register (R71). -/
def Warp.compact (w : Warp) (r : Nat) : Bool := w.ng ≤ r && r < w.ng + w.nu

/-- The width of the bundle (R49, R215): 2 to 32 lanes. -/
def Warp.width (w : Warp) : Nat := 2 ^ min (w.bundle.toNat % 8) 5

/-- The registers that wait for a result (R98). -/
def Warp.pendingReg (w : Warp) (r : Nat) : Bool :=
  w.flights.any (fun f => f.dests.any (fun d => match d with
    | .vec q .. => q = r
    | .mask .. => false))

/-- The mask registers that wait for a result (R98). -/
def Warp.pendingMask (w : Warp) (m : Nat) : Bool :=
  w.flights.any (fun f => f.dests.any (fun d => match d with
    | .vec .. => false
    | .mask k .. => k = m))

/-- The tiles that wait for a result (R98) other than that of a loop (R288). -/
def Warp.pendingTile (w : Warp) (t : Nat) : Bool :=
  w.flights.any (fun f => match f.kind with
    | .tile k _ => k = t
    | .fill k .. => k = t
    | .drain k _ d .. => k = t && (fieldW d 0x20).getLsbD 6
    | .quad k .. => k = t
    | _ => false)

/-- A loop runs or waits on a tile (R288). -/
def Warp.looping (w : Warp) (t : Nat) : Bool := w.loops.any (fun l => l.tile = t)

/-- The value of a wait counter (R99). -/
def Warp.counter (w : Warp) (k : Nat) : Nat := w.counters.getD k 0

/-- A wait counter moved by one. -/
def Warp.count (w : Warp) (k : Nat) : Warp := { w with counters := putAt 0 w.counters k (w.counter k + 1) }
def Warp.uncount (w : Warp) (k : Option Nat) : Warp :=
  match k with
  | some k => { w with counters := putAt 0 w.counters k (w.counter k - 1) }
  | none => w

/-! ### PC groups (R45-R48) -/

def Warp.pcOf (w : Warp) (l : Nat) : Dword := w.pcs.getD l 0
def Warp.waitOf (w : Warp) (l : Nat) : Wait := w.wait.getD l .none
def Warp.rslOf (w : Warp) (l : Nat) : Nat := w.rsl.getD l 0

/-- The PC group of a lane: the live lanes that stand where it stands and are not parked (R45). -/
def Warp.groupOf (w : Warp) (l : Nat) : Word :=
  maskOf (fun k => w.live.getLsbD k && !w.parked.getLsbD k && w.pcOf k = w.pcOf l)

/-- The lanes of a PC group that stand at the same slot in the same wait as one of them. -/
def Warp.fellows (w : Warp) (l : Nat) : Word :=
  maskOf (fun k => (w.groupOf l).getLsbD k && w.rslOf k = w.rslOf l && w.waitOf k = w.waitOf l)

/-- A wait for the other threads of the warp at a warp-collective instruction (R45). -/
def Wait.isColl : Wait → Bool
  | .coll .. => true
  | .barColl .. => true
  | _ => false

/-- A wait at WAITV (R257). -/
def Wait.isWaitv : Wait → Bool
  | .waitv .. => true
  | _ => false

/-- Every live thread of the warp stands at the warp-collective instruction at which lane `l` waits (R45, R280). -/
def Warp.gathered (w : Warp) (l : Nat) : Bool :=
  (w.waitOf l).isColl && (lanesOf w.live).all (fun k =>
    !w.parked.getLsbD k && w.pcOf k = w.pcOf l && w.rslOf k = w.rslOf l && (w.waitOf k).isColl)

/-- A thread that waits for nothing. -/
def Warp.free (w : Warp) (l : Nat) : Bool :=
  w.live.getLsbD l && !w.parked.getLsbD l && (w.waitOf l = .none || w.gathered l)

/-- A lane whose PC group is eligible (R45): some thread of it waits for nothing.  DEDUCED (log entry 34): threads of one PC
group may stand at different slots of their clause (R430 `RSL`), and one of them may wait while another does not. -/
def Warp.ready (w : Warp) (l : Nat) : Bool :=
  w.live.getLsbD l && !w.parked.getLsbD l && (lanesOf (w.groupOf l)).any w.free

/-- A current PC group that is eligible no longer is not current any more (R47). -/
def Warp.idle (w : Warp) : Warp :=
  match w.cur with
  | some l => if w.ready l then w else { w with cur := none, curPc := w.pcOf l }
  | none => w

/-- The PC of the current PC group, or of the last one (R47). -/
def Warp.oldPc (w : Warp) : Dword :=
  match w.cur with
  | some l => w.pcOf l
  | none => w.curPc

/-- The slot from which a PC group issues: the lowest at which a thread of it stands that waits for nothing. -/
def Warp.issueSlot (w : Warp) (l : Nat) : Nat :=
  ((((lanesOf (w.groupOf l)).filter w.free).map w.rslOf).min?).getD 0

/-- The threads of a PC group with which it begins to issue. -/
def Warp.issueLanes (w : Warp) (l : Nat) : Word :=
  maskOf (fun k => (w.groupOf l).getLsbD k && w.free k && w.rslOf k = w.issueSlot l)

/-- The threads of a PC group that stand at a slot of its clause and wait for nothing: they issue with it from there on. -/
def Warp.joining (w : Warp) (pc : Dword) (slot : Nat) : Word :=
  maskOf (fun k => w.live.getLsbD k && !w.parked.getLsbD k && w.pcOf k = pc && w.rslOf k = slot && w.waitOf k = .none)

/-- A code address with bits 63:57 cut off (R39).  DESIGN CHOICE (log entry 87): an address past either end of the 57-bit
space wraps. -/
def codeAddr (a : Dword) : Dword := a &&& 0x01FFFFFFFFFFFFFF#64

/-- The header of the clause behind one of `n` slots (R79). -/
def nextClause (pc : Dword) (n : Nat) : Dword := codeAddr (pc + BitVec.ofNat 64 (8 * (n + 1)))

/-- The lowest lanes of the eligible PC groups. -/
def Warp.readyGroups (w : Warp) : List Nat :=
  (List.range 32).filter (fun l => w.ready l && lowest (w.groupOf l) = l)

/-- Some lanes given a PC, at a clause boundary and waiting for nothing. -/
def Warp.moveTo (w : Warp) (lanes : Word) (pc : Dword) : Warp :=
  { w with
    pcs := (List.range 32).map (fun l => if lanes.getLsbD l then pc else w.pcOf l)
    rsl := (List.range 32).map (fun l => if lanes.getLsbD l then 0 else w.rslOf l)
    came := (List.range 32).map (fun l => if lanes.getLsbD l then none else w.came.getD l none)
    wait := (List.range 32).map (fun l => if lanes.getLsbD l then .none else w.waitOf l) }

/-- Some lanes stopped inside their clause: at a slot, in a wait. -/
def Warp.stopAt (w : Warp) (lanes : Word) (slot : Nat) (why : Wait) : Warp :=
  { w with
    rsl := (List.range 32).map (fun l => if lanes.getLsbD l then slot else w.rslOf l)
    wait := (List.range 32).map (fun l => if lanes.getLsbD l then why else w.waitOf l) }

/-- Some lanes past a slot at which they waited: at the next one of a clause of `n` slots, or at the clause behind it. -/
def Warp.passTo (w : Warp) (lanes : Word) (pc : Dword) (k n : Nat) : Warp :=
  if k < n then w.stopAt lanes k .none else w.moveTo lanes (nextClause pc n)

/-! ### Translation (R220, R221, R479) -/

/-- What an access does, for the checks of R221. -/
inductive Acc where
  | read
  | write
  | fetch
  deriving DecidableEq, Repr

/-- `V` of an entry. -/
def entV (e : Dword) : Bool := e.getLsbD 63
def entPoison (e : Dword) : Bool := e.getLsbD 62
def entWR (e : Dword) : Bool := e.getLsbD 59
def entEX (e : Dword) : Bool := e.getLsbD 58
def entLoc (e : Dword) : Nat := (bits e 56 2).toNat
def entSz (e : Dword) : Nat := (bits e 54 2).toNat
/-- The physical address of a leaf. -/
def entFrame (e : Dword) : Nat := (bits e 16 38).toNat * 65536

/-- Page size in bits of a size code; 0 for the reserved one (R221). -/
def pageBits (sz : Nat) : Nat := match sz with
  | 0 => 16
  | 1 => 21
  | 2 => 30
  | _ => 0

/-- A leaf entry is valid (R221). -/
def leafValid (e : Dword) : Bool :=
  entV e && entLoc e < 2 && entSz e < 3 && entFrame e % 2 ^ pageBits (entSz e) = 0 && bits e 0 16 = 0

/-- Levels of the tree with their lowest index bit, number of index bits and leaf size code (R479). -/
def treeLevels : List (Nat × Nat × Option Nat) :=
  [(45, 9, none), (36, 9, none), (30, 6, some 2), (21, 9, some 1), (16, 5, some 0)]

/-- The entry of a table; an entry that the firmware has not written is 0. -/
def tableEntry (ts : List Table) (base : Dword) (idx : Nat) : Dword :=
  match ts.find? (fun t => t.base = base) with
  | some t => (match t.entries.find? (fun e => e.1 = idx) with | some e => e.2 | none => 0)
  | none => 0

/-- The walk of a tree from a table on: the leaf entry for an offset, if there is one (R479). -/
def walk (ts : List Table) : List (Nat × Nat × Option Nat) → Dword → Nat → Option Dword
  | [], _, _ => none
  | (lo, n, leaf) :: rest, base, off =>
    let e := tableEntry ts base (off / 2 ^ lo % 2 ^ n)
    if !entV e then none
    else if rest = [] then (if entSz e = 0 then some e else none)
    else if entSz e = 3 then walk ts rest (e &&& 0x003FFFFFFFFFFF00#64) off
    else if leaf = some (entSz e) then some e
    else none

/-- The leaf entry that covers an offset of a lantern's address space in a context. -/
def State.leaf (s : State) (ctx lan off : Nat) : Option Dword :=
  match s.ctx ctx with
  | some c =>
    match c.roots.find? (fun r => r.1 = lan) with
    | some r => walk (s.tables.getD lan []) treeLevels r.2 off
    | none => none
  | none => none

/-- Translation of an access by the owner (R221): the key of the byte, or the cause. -/
def State.translate (s : State) (ctx lan off : Nat) (acc : Acc) : Except Nat Nat :=
  match s.leaf ctx lan off with
  | none => .error 0x10
  | some e =>
    if !leafValid e then .error 0x10
    else if (acc = .write && !entWR e) || (acc = .fetch && !entEX e) then .error 0x11
    else if entPoison e then .error 0x13
    else
      let pa := entFrame e + off % 2 ^ pageBits (entSz e)
      .ok (if entLoc e = 0 then gddrKey lan pa else hostKey pa)

/-- A key names a GDDR 7 byte beyond the lantern's capacity (R37): a stop. -/
def State.present (s : State) (key : Nat) : State := if absentKey key then { s with stop := some .absentFrame } else s

/-- An access to a page whose frame no GDDR 7 holds stops (R37). -/
def State.reach (s : State) (ctx lan off : Nat) : State :=
  match s.leaf ctx lan off with
  | some e => if entLoc e = 0 then s.present (gddrKey lan (entFrame e + off % 2 ^ pageBits (entSz e))) else s
  | none => s

/-- A TLB entry that gains `ACC`, and `DRT` for a write, in a cycle; `launch` is the launch of the access, if it has one
(R222). -/
def TlbEntry.gain (t : TlbEntry) (launch : Option Nat) (write : Bool) (now : Nat) : TlbEntry :=
  { t with
    acc := some (t.acc.getD now)
    drt := if write then some (t.drt.getD now) else t.drt
    launches := t.launches ++ launch.toList.filter (fun l => !t.launches.contains l) }

/-- `ACC`, and `DRT` for a write, gathered of a page in the owner's TLB (R222). -/
def State.markPage (s : State) (ctx : Nat) (launch : Option Nat) (lan off : Nat) (write : Bool) : State :=
  let va : Dword := BitVec.ofNat 64 (off / 65536 * 65536)
  let now := s.clock.toNat
  if s.tlb.any (fun t => t.ctx = ctx && t.lan = lan && t.va = va) then
    { s with tlb := s.tlb.map (fun t => if t.ctx = ctx && t.lan = lan && t.va = va then t.gain launch write now else t) }
  else
    let t : TlbEntry := { ctx, lan, va, drt := none, acc := none, launches := [] }
    { s with tlb := s.tlb ++ [t.gain launch write now] }

/-- The owner's TLB gathers `ACC`, and `DRT` for a write, of a page (R222); an access to a frame that no GDDR 7 holds
stops (R37). -/
def State.gather (s : State) (ctx : Nat) (launch : Option Nat) (lan off : Nat) (write : Bool) : State :=
  (s.reach ctx lan off).markPage ctx launch lan off write

/-- The lantern of a local global address (R220). -/
def lanOf (va : Dword) : Nat := (bits va 54 2).toNat
/-- The offset of a local global address (R220). -/
def offOf (va : Dword) : Nat := (bits va 0 54).toNat
/-- The address is of the peer form (R220). -/
def isPeer (va : Dword) : Bool := va.getLsbD 56
/-- The address raises space bounds under R220. -/
def badGlobal (s : State) (va : Dword) : Bool :=
  bits va 57 7 ≠ 0 || (isPeer va && (bits va 50 6).toNat = s.devid)

/-- The vault column of a key, if it lies in a vault. -/
def keyColumn (k : Nat) : Option Nat := if 2 ^ 57 ≤ k ∧ k < 2 ^ 58 then some ((k - 2 ^ 57) / 2 ^ 24) else none

/-- The slice that caches a GDDR 7 key. -/
def keySlice (k : Nat) : Nat := columnOf (k / 2 ^ 54) (Config.sliceOf (k / 128) % 48)

/-- The lines that a slice of 2 MiB holds (R21). -/
def sliceLines : Nat := 16384

/-- A line of a lantern's GDDR 7 has become dirty in the slice that caches it (R233); a slice that is full of dirty lines has
written the oldest back (R21).  DESIGN CHOICE (log entry 111): no rule says which line leaves. -/
def State.touchLine (s : State) (key : Nat) : State :=
  if key < 2 ^ 56 then
    let col := keySlice key
    let c := s.column col
    let line := key / 128
    if c.sliceUp && !c.dirty.contains line then
      s.setColumn col { c with dirty := c.dirty.drop (c.dirty.length + 1 - sliceLines) ++ [line] }
    else s
  else s

/-- The keys of the first bytes of the 128-byte lines that a range of keys touches. -/
def lineKeys (key n : Nat) : List Nat :=
  if n = 0 then [] else key :: (List.range ((key + n - 1) / 128 - key / 128)).map (fun i => 128 * (key / 128 + i + 1))

/-- Every line of a range of keys has become dirty (R233). -/
def State.touchRange (s : State) (key n : Nat) : State := (lineKeys key n).foldl State.touchLine s

/-- A line of a range of keys is cached by a slice that is shutting down: an access to it parks (R233). -/
def State.rangeParks (s : State) (key n : Nat) : Bool :=
  s.columns.any (fun c => c.window.isSome) &&
    (lineKeys key n).any (fun k => k < 2 ^ 56 && (s.column (keySlice k)).window.isSome)

/-- An access of a range of a global address of this module parks: a slice that caches a line of it is shutting down (R233). -/
def State.slicesPark (s : State) (ctx : Nat) (va : Dword) (n : Nat) : Bool :=
  s.columns.any (fun c => c.window.isSome) && (lineKeys (offOf va) n).any (fun o =>
    match s.translate ctx (lanOf va) o .read with
    | .ok k => s.rangeParks k 1
    | .error _ => false)

/-! ### The link to other modules (R454, R455) -/

/-- Device and lantern of a peer address (R220). -/
def peerDev (va : Dword) : Nat := (bits va 50 6).toNat
def peerLan (va : Dword) : Nat := (bits va 48 2).toNat

/-- A shift of the CRC-32 of IEEE 802.3, low bit first. -/
def crcShift : Nat → Word → Word
  | 0, c => c
  | n + 1, c => crcShift n ((c >>> 1) ^^^ (if c.getLsbD 0 then 0xEDB88320#32 else 0))

/-- The CRC-32 of IEEE 802.3 over some bytes. -/
def crc32 (bs : Bytes) : Word := ~~~(bs.foldl (fun c b => crcShift 8 (c ^^^ b.setWidth 32)) 0xFFFFFFFF#32)

/-- The CRC that `FCRC` holds: over bytes 0 to 27 and 32 to 255 of a flit (R454). -/
def flitCrc (f : Flit) : Word :=
  crc32 ([f.ftyp, f.fseq.toNat, f.sdev, f.ddev, f.slan % 4 + f.dlan % 4 * 4, f.psn.toNat, f.fdom % 256, f.fdom / 256].map
    (BitVec.ofNat 8) ++ f.hdr ++ f.payload)

/-- `FCRC` holds. -/
def flitOk (f : Flit) : Bool := f.fcrc = flitCrc f

/-- A flit of the module's: its payload is the data of its requests and answers, padded with zeros; its header bytes, to which
no rule gives a coding, are free values. -/
def State.newFlit (s : State) (ftyp ddev slan dlan fdom : Nat) (psn : BitVec 7) (reqs : List FlitReq) (answers : List FlitAns)
    (pose : Option Pose) : Flit :=
  let data := ((reqs.map FlitReq.data) ++ (answers.map FlitAns.data)).flatten
  { ftyp, fseq := 0, sdev := s.devid, ddev, slan, dlan, psn, fdom
    hdr := ((List.range 5).map (fun i => wordBytes (Config.unstated (s.fresh + i)))).flatten
    fcrc := 0, payload := (data ++ List.replicate 224 0).take 224, ack := none, resend := none, reqs, answers, pose }

/-- A flit as a port puts it on the link: with the acknowledgement of what the port has received, the resend that it asks for,
and its `FCRC` (R454, R455). -/
def Port.stamp (p : Port) (f : Flit) : Flit :=
  let f : Flit := { f with ack := some (p.rxSeq - 1), resend := if p.asking then some p.rxSeq else none }
  { f with fcrc := flitCrc f }

/-- A flit put on the link, under the next sequence number, and into the replay buffer (R455). -/
def Port.put (p : Port) (f : Flit) : Port :=
  let f := p.stamp { f with fseq := p.txSeq }
  { p with txSeq := p.txSeq + 1, replay := p.replay ++ [f], sent := p.sent ++ [f] }

/-- Flits that wait are put on a link that is up, until 128 are unacknowledged (R455). -/
def Port.fill (p : Port) : Port :=
  if p.up then
    let n := 128 - p.replay.length
    (p.queued.take n).foldl Port.put { p with queued := p.queued.drop n }
  else p

/-- A flit behind the flits that a port holds. -/
def Port.push (p : Port) (f : Flit) : Port := ({ p with queued := p.queued ++ [f] } : Port).fill

/-- A flit given to a live port chosen by address, behind the flits that the port holds (R454, R455); with every port down
it waits at port 0. -/
def State.sendFlit (s : State) (va : Dword) (f : Flit) : State :=
  let ups := (List.range Config.nPorts).filter (fun p => (s.ports.getD p Port.reset).up)
  let p := ups.getD (va.toNat / 128 % ups.length) 0
  { s with ports := s.ports.set p ((s.ports.getD p Port.reset).push f) }

/-- A request flit from a lantern to the device of a peer address, for a context's fabric domain; `psn` marks the sectors of
its data. -/
def State.request (s : State) (ctx slan : Nat) (va : Dword) (psn : BitVec 7) (r : FlitReq) : State :=
  s.sendFlit va (s.newFlit 1 (peerDev va) slan (peerLan va) (((s.ctx ctx).map Ctx.fdom).getD 0) psn [r] [] none)

/-- The pieces of an access that a flit each carries (R454): at most 128 bytes, of one line. -/
def flitPieces : Nat → Dword → Bytes → List (Dword × Bytes)
  | 0, _, _ => []
  | k + 1, va, bs =>
    let room := 128 - va.toNat % 128
    if bs = [] then []
    else (va, bs.take room) :: flitPieces k (va + BitVec.ofNat 64 room) (bs.drop room)

/-- Read requests to a peer (R454), one for each piece, each under a tag of its own. -/
def State.requestRead (s : State) (ctx slan : Nat) (va : Dword) (n : Nat) : State :=
  (flitPieces (n + 1) va (List.replicate n 0)).foldl (fun s p =>
    ({ s with nextTag := s.nextTag + 1 }).request ctx slan p.1 0
      { tag := s.nextTag, addr := p.1, write := false, len := p.2.length, data := [], atom := none, cas := false, cmp := 0 }) s

/-- Write requests to a peer, one for each piece; their tags. -/
def State.requestWrite (s : State) (ctx slan : Nat) (va : Dword) (bs : Bytes) (marks : List Bool) : State × List (Nat × Dword) :=
  (flitPieces (bs.length + 1) va bs).foldl (fun (a : State × List (Nat × Dword)) p =>
    let at' := (p.1 - va).toNat
    let psn : BitVec 7 := BitVec.ofNat 7 ((List.range 4).foldl (fun m i =>
      if ((marks.drop (at' + 32 * i)).take (min 32 (p.2.length - 32 * i))).any id then m + 2 ^ i else m) 0)
    let tag := a.1.nextTag
    (({ a.1 with nextTag := tag + 1 }).request ctx slan p.1 psn
      { tag, addr := p.1, write := true, len := p.2.length, data := p.2, atom := none, cas := false, cmp := 0 }
    , a.2 ++ [(tag, p.1)])) (s, [])

/-- Translation refused by the firmware of another module (R457): the cause 0x10, kept apart from that of a translation which
this module's firmware may still map. -/
def peerRefused : Nat := 0x110

/-- The cause that another module's answer to a read carries (R457, R459), a free value: none; no address space bound, or
protection; a refused translation; a poisoned page; a refusal by the switch. -/
def State.peerCause (s : State) (va : Dword) : Nat :=
  [0, 0x11, peerRefused, 0x13, 0x50].getD (Config.peerCause s.fresh va % 5) 0

/-- Bytes of another module's memory, each with its poison, as its answer brings them: free values. -/
def State.peerBytes (s : State) (va : Dword) (n : Nat) : List (Byte × Bool) :=
  (List.range n).map (fun i =>
    (Config.peerByte s.fresh (va + BitVec.ofNat 64 i), Config.peerPoison s.fresh ((va + BitVec.ofNat 64 i) / 32#64)))

/-- Reading of a structure of a context by the device (R486), 16-byte pieces never crossing a page: bytes or cause. -/
def State.readVa (s : State) (ctx : Nat) (va : Dword) (n : Nat) : Except Nat Bytes :=
  if badGlobal s va then .error 0x16
  else if isPeer va then
    let bs := s.peerBytes va n
    if s.peerCause va ≠ 0 then .error (s.peerCause va)
    else if bs.any Prod.snd then .error 0x12
    else .ok (bs.map Prod.fst)
  else
    let lan := lanOf va
    let off := offOf va
    let go (i : Nat) : Except Nat (Nat × Byte) :=
      match s.translate ctx lan (off + i) .read with
      | .ok k => .ok (k, s.mem.get k)
      | .error c => .error c
    (List.range n).foldl (fun acc i =>
      match acc with
      | .error c => .error c
      | .ok bs =>
        match go i with
        | .ok (k, b) => if s.mem.poisoned k 1 then .error 0x12 else .ok (bs ++ [b])
        | .error c => .error c) (.ok [])

/-- Writing of a structure of a context by the device (R486); to another module as write requests from lantern 0, which the
device holds as owed until they are answered (R243, R457). -/
def State.writeVa (s : State) (ctx : Nat) (va : Dword) (bs : Bytes) : Except Nat State :=
  if badGlobal s va then .error 0x16
  else if isPeer va then
    let (t, tags) := s.requestWrite ctx 0 va bs []
    .ok { t with owed := t.owed ++ tags.map (fun x => { ctx, tag := x.1, since := s.clock.toNat, addr := x.2 }) }
  else
    let lan := lanOf va
    let off := offOf va
    let keys := (List.range bs.length).foldl (fun (acc : Except Nat (List Nat)) i =>
      match acc with
      | .error c => .error c
      | .ok ks =>
        match s.translate ctx lan (off + i) .write with
        | .ok k => .ok (ks ++ [k])
        | .error c => .error c) (.ok [])
    match keys with
    | .error c => .error c
    | .ok ks =>
      let ws := ks.zip (bs.map (fun b => [b]))
      let s := ks.foldl (fun s k => (s.touchLine k).present k) (s.gather ctx none lan off true)
      .ok { s with mem := s.mem.storeAll ws }

/-- A 64-bit word of code (R81): fetched under the context's translation.  Fetch is not coherent with writes: of a word
written since the running launches were submitted, a free choice fetches the old one or the new one.  R220 lets code take
the local form alone and gives no outcome for a PC with bit 56 set: DESIGN CHOICE (log entry 88), the fetch leaves bit 56
aside. -/
def State.fetchWord (s : State) (ctx : Nat) (pc : Dword) : Except Nat Dword :=
  match s.translate ctx (lanOf pc) (offOf pc) .fetch with
  | .ok k =>
    let word (m : Mem) : Dword := BitVec.ofNat 64 (leNat (m.read k 8))
    if s.mem.poisoned k 8 then .error 0x12
    else
      match (s.ctx ctx).bind Ctx.oldCode with
      | some m => .ok (if word m ≠ word s.mem && Config.oldWord s.fresh k then word m else word s.mem)
      | none => .ok (word s.mem)
  | .error c => .error c

/-- The pages of some fetched words gather `ACC` (R222). -/
def State.fetched (s : State) (ctx : Nat) (launch : Option Nat) (pcs : List Dword) : State :=
  pcs.foldl (fun s pc =>
    match s.translate ctx (lanOf pc) (offOf pc) .fetch with
    | .ok _ => s.markPage ctx launch (lanOf pc) (offOf pc) false
    | .error _ => s) s

/-! ### The fault record queue (R409, R410) -/

/-- Two entries stand for the same region, instruction and element (R409). -/
def FaultEntry.same (a b : FaultEntry) : Bool :=
  a.va / 65536#64 = b.va / 65536#64 && a.ctx = b.ctx && a.kind = b.kind && a.col = b.col && a.wslot = b.wslot &&
    a.log = b.log && a.idx = b.idx &&
    a.grp = b.grp && a.wid = b.wid

/-- A translation fault enters the queue of the address's lantern, or waits for room (R409, R410). -/
def State.queueFault (s : State) (e : FaultEntry) : State :=
  let lan := lanOf e.va
  let q := s.faultq.getD lan []
  let ws := s.faultWait.getD lan []
  if (q ++ ws).any (FaultEntry.same e) then s
  else if q.length < Config.faultEntries then
    let n := s.faultSeq.getD lan 0
    { s with faultq := s.faultq.set lan (q ++ [{ e with seq := n }]), faultSeq := s.faultSeq.set lan ((n + 1) % 2 ^ 32) }
  else { s with faultWait := s.faultWait.set lan (ws ++ [e]) }

/-- The entry of a warp's own fault: KIND 0, 3 or 5 (R409). -/
def faultOf (g : Group) (w : Warp) (kind acc log : Nat) (va : Dword) : FaultEntry :=
  { va, ctx := g.ctx, kind, acc, col := g.col, wslot := 16 * w.part + w.slot, log, idx := 0, stat := 0, seq := 0
    grp := g.uid, wid := w.wid, fdom := none }

/-! ### Taking a trap (R396-R408) -/

/-- Causes of the handler route (R396). -/
def handlerCause (code : Nat) : Bool := code = 0x15 || code = 0x20 || code = 0x40 || code = 0x41

/-- The sixteen words of a trap record (R398). -/
def trapWords (c : Cause) (nest : Bool) (col part wid : Nat) (seq : Word) : List Word :=
  let b (x : Bool) (n : Nat) : Nat := if x then 2 ^ n else 0
  let d (i : Nat) : Word := c.det.getD i 0
  [ BitVec.ofNat 32 (c.code + c.reason * 2 ^ 8 + b c.prec 16 + b nest 17 + c.src * 2 ^ 18)
  , if c.sv then c.pc.setWidth 32 else 0
  , if c.sv then (c.pc >>> 32).setWidth 32 else 0
  , BitVec.ofNat 32 ((if c.hdr then 0 else c.slot % 16) + b c.sv 4 + b c.hdr 5 + (if c.hdr then 0 else c.op * 2 ^ 8) +
      c.rslot * 2 ^ 16 + b c.rnext 20)
  , c.lanes, c.grp, c.addr.setWidth 32, (c.addr >>> 32).setWidth 32
  , d 0, d 1, d 2, d 3, d 4, d 5
  , BitVec.ofNat 32 (col + part * 2 ^ 8 + wid * 2 ^ 11), seq ]

/-- The diagnostic record of R408. -/
def diagRecord (ctx : Nat) (rec : List Word) (cap : Bytes) : Bytes :=
  toBytes 4 ctx ++ toBytes 4 (80 + cap.length) ++ toBytes 4 cap.length ++ toBytes 4 0 ++
    (rec.map wordBytes).flatten ++ cap

/-- The status word of a queue that a termination stops (R441, R446). -/
def killedStat (cause : Nat) : Word := BitVec.ofNat 32 (7 + cause % 256 * 256 + 2 ^ 31)

/-- The status word of a queue written into its header (R441); a header that cannot be reached holds it later (R486). -/
def State.writeStat (s : State) (q : Queue) (stat : Word) : State :=
  let s := s.updQueue q.qid (fun q => { q with stat })
  match s.writeVa q.ctx (q.header + 0x18) (wordBytes stat) with
  | .ok s => s
  | .error _ => s.updQueue q.qid (fun q => { q with headerDue := true })

/-- A range-lock table without the entries of some groups (R308). -/
def dropLocks (ls : List (Option Lock)) (p : Nat → Bool) : List (Option Lock) :=
  ls.map (fun l => match l with
    | some k => if p k.grp then none else l
    | none => none)

/-- A column freed from the groups of a context: locks, merge network, clause in progress, banks (R407). -/
def Column.release (c : Column) (ctx : Nat) (gone : Nat → Bool) : Column :=
  { c with
    parts := c.parts.map (fun p => match p.running with
      | some r => if gone r.grp then { p with running := none } else p
      | none => p)
    bankOwner := (match c.bankOwner with
      | some (o, _, _) => if o = ctx then none else c.bankOwner
      | none => none)
    locks := dropLocks c.locks gone
    merge := (match c.merge with
      | some g => if gone g then none else c.merge
      | none => none)
    mergeWait := c.mergeWait.filter (fun g => !gone g) }

/-- The writes to other modules that a group's warps and engine operations have not had acknowledged (R243). -/
def Group.owes (g : Group) : List Owed :=
  let owed (u : Unack) : Owed := { ctx := g.ctx, tag := u.tag, since := u.since, addr := u.addr }
  (((g.warps.map (fun w => w.unack.filter (fun u => u.flight = none))) ++ g.ops.map EngineOp.sent).flatten).map owed

/-- The end of a context whose warps issue no more (R407), with the trap record and capture of its diagnostic record. -/
def State.endCtx (s : State) (ctx : Nat) (rec : List Word) (cap : Bytes) : State :=
  let gone (uid : Nat) : Bool := s.groups.any (fun g => g.uid = uid && g.ctx = ctx)
  let cause := (rec.getD 0 0).toNat % 256
  let s : State := { s with
    owed := s.owed ++ ((s.groups.filter (fun g => g.ctx = ctx)).map Group.owes).flatten
    columns := s.columns.map (fun c => c.release ctx gone)
    groups := s.groups.filter (fun g => g.ctx ≠ ctx)
    launches := s.launches.filter (fun l => l.ctx ≠ ctx)
    faultq := s.faultq.map (fun q => q.filter (fun e => e.ctx ≠ ctx))
    faultWait := s.faultWait.map (fun q => q.filter (fun e => e.ctx ≠ ctx))
    outputs := s.outputs.map (fun o =>
      let o := { o with retires := o.retires.filter (fun x => x.1 ≠ ctx) }
      if o.ctx = ctx then { o with vigilHold := true, commits := [] } else o) }
  let s := s.updCtx ctx (fun c => { c with
    phase := .terminated, diag := some (diagRecord ctx rec cap), bins := [], lits := [], waitRecs := [], pass := none
    savedGroups := [], savedBanks := [] })
  (s.queues.filter (fun q => q.ctx = ctx)).foldl (fun (s : State) q => s.writeStat q (killedStat cause))
    { s with queues := s.queues.map (fun q => if q.ctx = ctx then { q with cmds := [], mapped := false } else q) }

/-- A partition is issuing a clause of a warp of the context. -/
def State.inClause (s : State) (ctx : Nat) : Bool :=
  s.columns.any (fun k => k.parts.any (fun p => match p.running with
    | some r => s.groups.any (fun g => g.uid = r.grp && g.ctx = ctx)
    | none => false))

/-- An operation of a warp that has been issued and still writes memory when it completes (R294, R296, R352), and for which no
entry of the fault record queue waits: R407 discards those. -/
def State.performs (s : State) (g : Group) (w : Warp) (f : Flight) : Bool :=
  let mine (p : FaultEntry → Bool) : Bool := (s.faultq ++ s.faultWait).flatten.any (fun e => e.ctx = g.ctx && p e)
  match f.kind with
  | .spill .. => !mine (fun e => e.grp = g.uid && e.wid = w.wid)
  | .drain .. => !mine (fun e => e.grp = g.uid && e.wid = w.wid)
  | .signal va _ => !mine (fun e => e.kind = 6 && e.va / 65536#64 = va / 65536#64)
  | _ => false

/-- A context that began to end in cycle `since` has not come to its end: a clause of it issues, or a store that it has issued is
still to perform, for at most 2^22 cycles (R407). -/
def State.lasts (s : State) (ctx since : Nat) : Bool :=
  s.inClause ctx || (decide (s.clock.toNat < since + 2 ^ 22) &&
    s.groups.any (fun g => g.ctx = ctx && g.warps.any (fun w => w.flights.any (s.performs g w))))

/-- Termination of a context by the firmware (R407): its warps stop at their next clause boundary, and it ends when no clause of
it issues any more and its issued stores have performed.  A context that is ending already keeps the cause with which it ends. -/
def State.terminate (s : State) (ctx : Nat) (rec : List Word) (cap : Bytes) : State :=
  match s.ctx ctx with
  | none => s
  | some c =>
    let now := s.clock.toNat
    if c.phase.over then s
    else if s.lasts ctx now then s.setCtx { c with phase := .ending rec cap now }
    else s.endCtx ctx rec cap

/-- The contexts that are ending and of which nothing is left to issue or to perform come to their end (R407). -/
def State.endCtxs (s : State) : State :=
  s.contexts.foldl (fun s c => match c.phase with
    | .ending rec cap since => if s.lasts c.id since then s else s.endCtx c.id rec cap
    | _ => s) s

/-- The record of a cause that the device or the host raises in a context without a warp (R398). -/
def deviceRecord (code reason : Nat) (addr : Dword) (det : List Word) (seq : Word) : List Word :=
  trapWords { code, reason, prec := false, src := 3, pc := 0, slot := 0, sv := false, hdr := false, op := 0, rslot := 0
              rnext := false, lanes := 0, grp := 0, addr, det, issued := 0 } false 0 0 0 seq

/-- A context terminated with a cause of the device or the host (R407, R486). -/
def State.killCtx (s : State) (ctx code reason : Nat) (addr : Dword) (det : List Word) : State :=
  match s.ctx ctx with
  | some c =>
    let seq := c.tseq + 1
    (s.updCtx ctx (fun c => { c with tseq := seq })).terminate ctx (deviceRecord code reason addr det seq) []
  | none => s

/-- The trap handler of a group's launch record can be entered (R402).  DEDUCED (log entry 39): no clause has its header at an
address with bits 63:57 or 2:0 set (R39). -/
def State.handlerReady (s : State) (g : Group) : Bool :=
  let r := g.record
  let h := recTrapH r
  h ≠ 0 && h &&& 0xFE00000000000007#64 = 0 && (match s.fetchWord g.ctx h with
    | .ok w => isHeader w && isEntry w && budgetOf w + 1 ≤ recNG r
    | .error _ => false)

/-- The clause that a partition is issuing of a warp. -/
def State.clauseOf (s : State) (g : Group) (w : Warp) : Option Running :=
  (s.column g.col).parts.findSome? (fun p => p.running.filter (fun r => r.grp = g.uid && r.wid = w.wid))

/-- A partition without the clause that a warp was issuing. -/
def State.stopIssue (s : State) (g : Group) (w : Warp) : State :=
  s.updColumn g.col (fun c => { c with parts := c.parts.map (fun p =>
    match p.running with
    | some r => if r.grp = g.uid ∧ r.wid = w.wid then { p with running := none } else p
    | none => p) })

/-- The first of some causes by issue (R401). -/
def earliest (cs : List Cause) : Option Cause :=
  cs.foldl (fun b c =>
    match b with
    | none => some c
    | some x => if c.issued < x.issued || (c.issued = x.issued && c.slot < x.slot) then some c else some x) none

/-- The save of a context begins (R418): it stops issuing, and causes kept before go with it. -/
def State.beginSave (s : State) (ctx : Nat) (byHost : Bool) : State :=
  let s := s.updCtx ctx (fun c => { c with phase := .saving byHost s.clock.toNat })
  { s with groups := s.groups.map (fun g =>
      if g.ctx ≠ ctx then g
      else { g with warps := g.warps.map (fun w =>
        { w with stash := w.causes.filter (fun k => handlerCause k.code), causes := w.causes.filter (fun k => !handlerCause k.code) }) }) }

/-- Delivery of a trap to a warp, with a capture for 0x30 and 0x31 (R397-R407): the record is written and counted; a
handler-routed cause stops the warp for handler entry, any other terminates the context.  A debugger that is attached
takes 0x41 and halts the context, whose save begins at once (R406).  While the context drains for a save, every cause ends it (R418). -/
def State.deliver (s : State) (uid wid : Nat) (c : Cause) (cap : Bytes) : State :=
  match s.group uid with
  | none => s
  | some g =>
    match g.warp wid with
    | none => s
    | some w =>
      let seq := (match s.ctx g.ctx with | some x => x.tseq | none => 0) + 1
      let nest := w.mode = .handler
      let rec' := trapWords c nest g.col w.part w.wid seq
      let clause := match s.clauseOf g w with | some r => r.header :: r.words | none => []
      let saving := match (s.ctx g.ctx).map Ctx.phase with | some (.saving ..) => true | _ => false
      let ended := match s.ctx g.ctx with | some x => x.phase.over | none => true
      let routed := handlerCause c.code && !nest && !w.retired && !saving && recTrapH g.record ≠ 0
      let s := (s.updCtx g.ctx (fun x => { x with tseq := seq })).stopIssue g w
      let s := if routed then s.fetched g.ctx (some g.launch) [recTrapH g.record] else s
      let dbg := (match s.ctx g.ctx with | some x => x.debugger | none => false) && c.code = 0x41 && !nest && !saving && !ended
      if dbg then
        ((s.updWarp uid wid (fun w => { w with trapRec := rec' })).updCtx g.ctx (fun x => { x with halted := true })).beginSave
          g.ctx true
      else if routed && s.handlerReady g then
        s.updWarp uid wid (fun w => { w with trapRec := rec', entering := some { c with clause } })
      else (s.updWarp uid wid (fun w => { w with trapRec := rec' })).terminate g.ctx rec' cap

/-- Delivery of a precise cause: one that would enter the handler gives way to a cause after issue that has arrived and has
the firmware route (R401). -/
def State.deliverPrecise (s : State) (uid wid : Nat) (c : Cause) : State :=
  let hard := match s.warp uid wid with
    | some w => earliest (w.causes.filter (fun k => !handlerCause k.code))
    | none => none
  match handlerCause c.code, hard with
  | true, some k => s.deliver uid wid k k.cap
  | _, _ => s.deliver uid wid c []

/-- The frame of a warp's thread state (R404, R430), with the causes kept until RTE: those of the handler route (R401). -/
def Warp.toFrame (w : Warp) : Frame :=
  { mode := w.mode, curPc := w.curPc, pcs := w.pcs, live := w.live, masks := w.masks, stack := w.stack, parked := w.parked, wait := w.wait, rsl := w.rsl
    bundle := w.bundle, ctl := w.ctl, fair := w.fair, cur := w.cur
    trapGrp := (w.entering.map Cause.grp).getD 0, rslot := (w.entering.map Cause.rslot).getD 0
    rnext := (w.entering.map Cause.rnext).getD false, trapRec := w.trapRec
    kept := w.causes.filter (fun c => handlerCause c.code), clause := (w.entering.map Cause.clause).getD [] }

/-- Entry to the trap handler (R404): the thread state is saved and every live thread stands at the handler's entry
clause as one PC group in handler mode, with an empty mask stack, a bundle width of 32 and a fairness count of 0.  A cause of
the firmware route stays to be delivered (R397). -/
def Warp.enterHandler (w : Warp) (entry : Dword) : Warp :=
  { w with
    hframe := some w.toFrame, entering := none, causes := w.causes.filter (fun c => !handlerCause c.code), mode := .handler
    pcs := (List.range 32).map (fun l => if w.live.getLsbD l then entry else w.pcOf l)
    rsl := List.replicate 32 0, wait := List.replicate 32 .none, parked := 0, stack := []
    came := List.replicate 32 none
    bundle := 5, fair := 0, cur := some (lowest w.live), curPc := entry }

/-- Return from the trap handler (R356, R404): the frame comes back, threads that exited in the handler stay exited, and
the trapped PC group stands at its resume slot. -/
def Warp.leaveHandler (w : Warp) : Warp :=
  match w.hframe with
  | none => w
  | some f =>
    { w with
      hframe := none, mode := f.mode, curPc := f.curPc, causes := f.kept ++ w.causes, pcs := f.pcs, live := f.live &&& w.live, masks := f.masks, stack := f.stack
      parked := f.parked, wait := f.wait, rsl := f.rsl, bundle := f.bundle, ctl := f.ctl, fair := f.fair, cur := f.cur }

end Sys2Proof.Machine
end

