-- ==== Sys2Proof/Machine/Device.lean ====
section
/-! DEFINITION. Accesses of the device to structures in the memory of a context (R486). -/

namespace Sys2Proof.Machine

/-- The outcome of a device access: done, waiting on a `KIND` 6 entry, or met by a cause at an address. -/
inductive Dev (α : Type) where
  | ok (a : α)
  | wait (s : State)
  | fail (s : State) (cause : Nat) (addr : Dword)

/-- The pieces of a range that lie in one 64 KiB page each. -/
def pagePieces : Nat → Dword → Nat → List (Dword × Nat)
  | 0, _, _ => []
  | k + 1, va, n =>
    if n = 0 then []
    else
      let room := 65536 - va.toNat % 65536
      if n ≤ room then [(va, n)] else (va, room) :: pagePieces k (va + BitVec.ofNat 64 room) (n - room)

/-- The entry of a device access (R409). -/
def devEntry (ctx col acc : Nat) (va : Dword) : FaultEntry :=
  { va, ctx, kind := 6, acc, col, wslot := 0xFF, log := 0, idx := 0, stat := 0, seq := 0, grp := 0, wid := 0, fdom := none }

/-- What becomes of a device access that meets a cause: no translation waits for its entry, and fails when the entry has
been refused. -/
def State.devFault {α : Type} (s : State) (ctx col acc : Nat) (va : Dword) (cause : Nat) : Dev α :=
  if cause ≠ 0x10 then .fail s (cause % 256) va
  else
    let e := devEntry ctx col acc va
    let lan := lanOf va
    let q := s.faultq.getD lan []
    if q.any (fun x => x.same e && x.stat = 3) then
      .fail { s with faultq := s.faultq.set lan (q.filter (fun x => !(x.same e && x.stat = 3))) } 0x10 va
    else .wait (s.queueFault e)

/-- A device access to a range parks (R233). -/
def State.devParks (s : State) (ctx : Nat) (va : Dword) (n : Nat) : Bool := !isPeer va && s.slicesPark ctx va n

/-- The pages that a device access has read gather `ACC` at their owners (R222); those of another module are requests to it
(R454), whose answers are the free values that the access took. -/
def State.accessed (s : State) (ctx : Nat) (va : Dword) (n : Nat) : State :=
  (pagePieces 64 va n).foldl (fun s p =>
    if isPeer p.1 then s.requestRead ctx 0 p.1 p.2
    else
      match s.translate ctx (lanOf p.1) (offOf p.1) .read with
      | .ok _ => s.markPage ctx none (lanOf p.1) (offOf p.1) false
      | .error _ => s) s

/-- Bytes of a structure (R486). -/
def State.devRead (s : State) (ctx col : Nat) (va : Dword) (n : Nat) : Dev Bytes :=
  (pagePieces 64 va n).foldl (fun acc p =>
    match acc with
    | .ok bs =>
      if s.devParks ctx p.1 p.2 then .wait s
      else
      match s.readVa ctx p.1 p.2 with
      | .ok more => .ok (bs ++ more)
      | .error c => s.devFault ctx col 0 p.1 c
    | r => r) (.ok [])

/-- Bytes written to a structure (R486). -/
def State.devWrite (s : State) (ctx col : Nat) (va : Dword) (bs : Bytes) : Dev State :=
  let r := (pagePieces 64 va bs.length).foldl (fun (acc : Dev (State × Bytes)) p =>
    match acc with
    | .ok (t, rest) =>
      if s.devParks ctx p.1 p.2 then .wait s
      else
      match t.writeVa ctx p.1 (rest.take p.2) with
      | .ok t => .ok (t, rest.drop p.2)
      | .error c => s.devFault ctx col 1 p.1 c
    | r => r) (.ok (s, bs))
  match r with
  | .ok (t, _) => .ok t
  | .wait t => .wait t
  | .fail t c a => .fail t c a

/-- The end of a device access whose causes end the context (R486). -/
def Dev.orKill (r : Dev State) (ctx : Nat) : State :=
  match r with
  | .ok s => s
  | .wait s => s
  | .fail s c a => s.killCtx ctx c 0 a []

end Sys2Proof.Machine
end

