-- ==== Sys2Proof/Machine/Slot.lean ====
section
/-! DEFINITION. The slot that a partition is issuing: its warp, its prefix and its lanes; the checks that every slot meets
at issue (R72, R98, R99, R105); its end (R79, R97, R101) and its precise faults (R397-R400). -/

namespace Sys2Proof.Machine

/-- The issuing slot (R42): where it stands and the warp it belongs to.  `slot` is the index of the instruction's own
word; its prefix, if any, stands in the slot before. -/
structure Cx where
  s : State
  col : Nat
  part : Nat
  g : Group
  w : Warp
  run : Running
  pfx : Option PFields
  slot : Nat

/-- The issuing slot of the partition `s.issuer`; none while that partition issues no clause. -/
def cx (s : State) : Option Cx :=
  match ((s.column s.issuer.1).parts[s.issuer.2]?).bind Partition.running with
  | none => none
  | some r =>
    match s.group r.grp with
    | none => none
    | some g =>
      match g.warp r.wid with
      | none => none
      | some w =>
        let isP (i : Nat) : Bool := opOf (r.words.getD i 0) = 0xFF
        let slot := if isP r.idx then r.idx + 1 else r.idx
        some { s, col := s.issuer.1, part := s.issuer.2, g, w, run := r, slot
               pfx := if slot ≠ 0 ∧ isP (slot - 1) then some (PFields.ofWord (r.words.getD (slot - 1) 0)) else none }

/-- The mask of the prefix; all lanes without one (R91). -/
def Cx.pmask (c : Cx) : Word :=
  match c.pfx with
  | some p => if p.msk = 0 then 0xFFFFFFFF#32 else c.w.mask p.msk.toNat
  | none => 0xFFFFFFFF#32

/-- `live` of R6: the lanes of the issuing PC group after the prefix mask. -/
def Cx.live (c : Cx) : Word := c.run.lanes &&& c.pmask

/-- The lanes that `MZ` zeroes (R91). -/
def Cx.zeroed (c : Cx) : Word :=
  match c.pfx with
  | some p => if p.mz then c.run.lanes &&& ~~~c.pmask else 0
  | none => 0

/-- The prefix names a mask other than m0. -/
def Cx.masked (c : Cx) : Bool :=
  match c.pfx with
  | some p => p.msk ≠ 0
  | none => false

/-- `SAT` of the prefix. -/
def Cx.sat (c : Cx) : Bool :=
  match c.pfx with
  | some p => p.sat
  | none => false

/-- `MZ` of the prefix. -/
def Cx.mz (c : Cx) : Bool :=
  match c.pfx with
  | some p => p.mz
  | none => false

/-- A write of the slot is full (R104): it writes every live lane, and not under a mask with `MZ` 0. -/
def Cx.full (c : Cx) : Bool :=
  c.w.live &&& ~~~(c.live ||| c.zeroed) = 0 && !(c.masked && !c.mz)

/-- The rounding mode: the prefix's, or `sr.ctl.RM` (R126). -/
def Cx.mode (c : Cx) : Nat :=
  match c.pfx with
  | some p => if p.rnd = 0 then c.w.ctl.toNat % 8 else p.rnd.toNat
  | none => c.w.ctl.toNat % 8

/-- The clause is of class 6 (R80). -/
def Cx.uniform (c : Cx) : Bool := classOf c.run.header = 6

/-- The machine with the slot's group and warp put back and the partition's clause replaced. -/
def Cx.commit (c : Cx) (r : Option Running) : State :=
  let s := c.s.setGroup (c.g.setWarp c.w)
  s.updColumn c.col (fun k =>
    match k.parts[c.part]? with
    | some p => { k with parts := k.parts.set c.part { p with running := r } }
    | none => k)

/-- The flights whose results a yield awaits (R101): a drain has one where it clears its tile (R296). -/
def Warp.resultFlights (w : Warp) : List Nat :=
  (w.flights.filter (fun f => f.dests ≠ [] || (match f.kind with
    | .tile .. => true
    | .fill .. => true
    | .drain _ _ d .. => (fieldW d 0x20).getLsbD 6
    | .quad .. => true
    | .loop _ => true
    | _ => false))).map Flight.id

/-- The header address of the word after the clause (R79). -/
def Cx.after (c : Cx) : Dword := nextClause c.run.pc c.run.words.length

/-- The slot records a yield (R101). -/
def Cx.yielding (c : Cx) (y : Bool) : Cx :=
  if y then { c with w := { c.w with yields := c.w.yields ++ c.w.resultFlights } } else c

/-- The lanes with which the PC group issues from a word of its clause on: those that issued before it, and the threads of the
group that stand at its slot, which for a prefix is the next word (R42, R45, R90). -/
def Cx.joined (c : Cx) (i : Nat) : Word :=
  c.run.lanes ||| c.w.joining c.run.pc (if opOf (c.run.words.getD i 0) = 0xFF then i + 1 else i)

/-- The end of a slot that transfers no control (R79, R97): the next slot, or the word after the clause. -/
def Cx.finish (c : Cx) (y : Bool) : State :=
  let c := c.yielding y
  if c.slot + 1 < c.run.words.length then c.commit (some { c.run with idx := c.slot + 1, lanes := c.joined (c.slot + 1) })
  else { c with w := c.w.moveTo c.run.lanes c.after }.commit none

/-- The end of a slot whose PC group stops inside the clause (R45): it waits at a slot, and the partition is free. -/
def Cx.park (c : Cx) (slot : Nat) (why : Wait) : State :=
  { c with w := (c.w.stopAt c.run.lanes slot why).idle }.commit none

/-- A warp-collective slot (R45, R202, R280): the PC group with the threads that wait at the slot already; it issues when
these are every live thread of the warp, and waits there otherwise. -/
def Cx.gatherAs (c : Cx) (why : Wait) : Except State Cx :=
  let others := maskOf (fun l => c.w.live.getLsbD l && !c.w.parked.getLsbD l && c.w.pcOf l = c.run.pc &&
    c.w.rslOf l = c.slot && (c.w.waitOf l).isColl)
  let all := c.run.lanes ||| others
  if c.w.live &&& ~~~all = 0 then
    .ok { c with run := { c.run with lanes := all }, w := c.w.stopAt all c.slot .none }
  else .error (c.park c.slot why)

/-- The same for any collective but a barrier. -/
def Cx.gather (c : Cx) : Except State Cx := c.gatherAs (.coll (opOf (c.run.words.getD c.slot 0)) c.s.clock.toNat)

/-- The PC group stops before the slot until a code page is mapped (R211, R413). -/
def Cx.parkFetch (c : Cx) (va : Dword) : State := (c.park c.slot .fetch).queueFault (faultOf c.g c.w 5 2 0 va)

/-- A cause of the slot, raised at issue (R397, R398). -/
def Cx.cause (c : Cx) (code reason : Nat) (lanes : Word) (addr : Dword) (det : List Word) : Cause :=
  { code, reason, prec := true, src := 0, pc := c.run.pc, slot := c.slot, sv := true, hdr := false
    op := opOf (c.run.words.getD c.slot 0), rslot := c.slot, rnext := false, lanes, grp := c.run.lanes, addr, det
    issued := c.s.clock.toNat }

/-- A precise fault of the slot: nothing of the slot has taken effect, and the slot issues again after RTE (R397,
R400). -/
def Cx.raise (c : Cx) (code reason : Nat) (lanes : Word) (addr : Dword) (det : List Word) : State :=
  (c.s.updWarp c.g.uid c.w.wid (fun w => w.stopAt c.run.lanes c.slot .none)).deliverPrecise c.g.uid c.w.wid
    (c.cause code reason lanes addr det)

/-- A trap raised after the slot's effects (R134, R355): RTE resumes at the slot after it (R400).  The delivery takes the clause
from the partition. -/
def Cx.trapAfter (c : Cx) (code reason : Nat) (lanes : Word) (det : List Word) (y : Bool) : State :=
  let last := c.slot + 1 = c.run.words.length
  let c' := c.yielding y
  let w := if last then c'.w.moveTo c.run.lanes c.after else c'.w.stopAt c.run.lanes (c.slot + 1) .none
  let k := { c.cause code reason lanes 0 det with rslot := if last then 0 else c.slot + 1, rnext := last }
  ({ c' with w := w }.commit (some c.run)).deliverPrecise c.g.uid c.w.wid k

/-! ### Checks at issue -/

/-- An operand range: the field's number in R399, its first register and how many it occupies. -/
abbrev RegUse := Nat × Nat × Nat

/-- The first index outside the budget (R72), with the field of R399: 5, computed, for a register that no field names. -/
def Warp.badReg (w : Warp) : List RegUse → Option (Nat × Nat)
  | [] => none
  | (f, r, n) :: t =>
    match (List.range n).find? (fun i => !w.inBudget (r + i)) with
    | some i => some (r + i, if i = 0 then f else 5)
    | none => w.badReg t

/-- The fault of an index outside the budget, if any (R72, R399). -/
def Cx.regFault (c : Cx) (us : List RegUse) : Option State :=
  match c.w.badReg us with
  | some (r, f) => some (c.raise 3 0 c.live 0 [BitVec.ofNat 32 r, BitVec.ofNat 32 f])
  | none => none

/-- Some register of the ranges waits for a result (R98). -/
def Warp.busy (w : Warp) (us : List RegUse) (masks : List Nat) : Bool :=
  us.any (fun u => (List.range u.2.2).any (fun i => w.pendingReg (u.2.1 + i))) || masks.any w.pendingMask

/-- The mask that the prefix names, for the scoreboard. -/
def Cx.maskUse (c : Cx) : List Nat :=
  match c.pfx with
  | some p => [p.msk.toNat]
  | none => []

/-- The slot is held at issue (R98, R99): an operand is pending, or the counter it raises stands at 63. -/
def Cx.held (c : Cx) (us : List RegUse) (masks : List Nat) (counter : Option Nat) : Bool :=
  c.w.busy us (c.maskUse ++ masks) || (match counter with
    | some k => 63 ≤ c.w.counter k
    | none => false)

/-- Shape (0x05) for a register (R105, R399). -/
def Cx.shape (c : Cx) (r : Nat) : State := c.raise 5 0 c.live 0 [BitVec.ofNat 32 r]

/-- The first source register of a class 6 slot that carries tag G (R80). -/
def Cx.badSource (c : Cx) (us : List RegUse) : Option Nat :=
  if c.uniform then
    ((us.filter (fun u => u.1 ≠ 0)).map (fun u => (List.range u.2.2).map (· + u.2.1))).flatten.find?
      (fun r => (c.w.reg r).tag = 2)
  else none

/-- The first register of a list that does not carry tag U (R336). -/
def Warp.notU (w : Warp) (rs : List Nat) : Option Nat := rs.find? (fun r => (w.reg r).tag ≠ 0)

/-! ### Results -/

/-- What a slot writes: registers with their tagged values, masks with the lanes written, flags and generators; `whole`
lists registers that the slot replaces in every lane of the warp (R202, COMPACT). -/
structure Results where
  regs : List (Nat × Reg)
  masks : List (Nat × Word × Word)
  flags : List (BitVec 5)
  gens : List Word
  whole : List (Nat × Reg) := []

/-- The value that a register takes with the lanes that `MZ` zeroes (R91).  DESIGN CHOICE (log entry 112): where some lanes are
zeroed the tag is G, also where R103 gives U to the results, whose lanes then differ. -/
def Cx.zeroing (c : Cx) (x : Reg) : Reg :=
  if c.zeroed = 0 then x
  else .g ((List.range 32).map (fun l => if c.zeroed.getLsbD l then 0 else x.get l))

/-- The register after the slot's write of `x` (R104). -/
def Cx.written (c : Cx) (r : Nat) (x : Reg) : Reg :=
  mergeReg c.full (c.live ||| c.zeroed) (c.w.reg r) (c.zeroing x)

/-- The registers as the slot leaves them. -/
def Cx.settled (c : Cx) (r : Results) : List (Nat × Reg) :=
  r.regs.map (fun x => (x.1, c.written x.1 x.2)) ++ r.whole

/-- A register that the results would leave G though it is compact, or in a clause of class 6 (R80, R105). -/
def Cx.badResult (c : Cx) (r : Results) : Option Nat :=
  ((c.settled r).find? (fun x => x.2.tag = 2 && (c.w.compact x.1 || c.uniform))).map Prod.fst

/-- The destinations of a slot's results on their way (R98). -/
def Cx.dests (c : Cx) (r : Results) : List Dest :=
  r.regs.map (fun x => .vec x.1 (c.live ||| c.zeroed) (c.written x.1 x.2)) ++
    r.whole.map (fun x => .vec x.1 0xFFFFFFFF#32 x.2) ++ r.masks.map (fun x => .mask x.1 x.2.1 x.2.2)

/-- Registers written at once, for fixed-latency results (R97). -/
def Cx.writeRegs (c : Cx) (r : Results) : Warp := (c.settled r).foldl (fun w x => w.setReg x.1 x.2) c.w

/-- A mask register with some lanes' bits replaced (R147). -/
def Warp.putMask (w : Warp) (m : Nat) (lanes bits : Word) : Warp :=
  w.setMask m ((w.mask m &&& ~~~lanes) ||| (bits &&& lanes))

/-- A result on its way as R98 has it: registers, masks and flags wait for RESULT_WRITTEN; a counter is held. -/
def Cx.launchFlight (c : Cx) (counter : Option Nat) (dests : List Dest) (flags : List (BitVec 5)) (kind : FlightKind)
    (log : Option Nat) (remote : List RemoteReq) (gens : List Nat) : Cx :=
  let f : Flight :=
    { id := c.w.nextFlight, counter, dests, flags, kind, log, remote, gens, pc := c.run.pc, slot := c.slot, op := opOf (c.run.words.getD c.slot 0)
      grp := c.run.lanes, issued := c.s.clock.toNat }
  let w := { c.w with flights := c.w.flights ++ [f], nextFlight := c.w.nextFlight + 1 }
  { c with w := match counter with | some k => w.count k | none => w }

end Sys2Proof.Machine
end

