-- ==== Sys2Proof/Machine/Flags.lean ====
section
/-! DEFINITION. The sticky flags of a warp (R132, R134), the random generators (R129) and the end of a slot with
results. -/

namespace Sys2Proof.Machine

/-- The flags of a lane. -/
def Warp.flagOf (w : Warp) (l : Nat) : BitVec 5 := w.flags.getD l 0

/-- Flags set beside those that stand (R132). -/
def Warp.addFlags (w : Warp) (fs : List (BitVec 5)) : Warp :=
  { w with flags := (List.range 32).map (fun l => w.flagOf l ||| fs.getD l 0) }

/-- The trap enables of `sr.ctl` (R130). -/
def Warp.trapEnables (w : Warp) : BitVec 5 := w.ctl.extractLsb' 4 5

/-- The lanes in which some flag of `fs` is trap-enabled (R134).  DESIGN CHOICE (log entry 38): a flag that already stands
traps too when it is raised again. -/
def Warp.enabledLanes (w : Warp) (fs : List (BitVec 5)) : Word := maskOf (fun l => fs.getD l 0 &&& w.trapEnables ≠ 0)

/-- The lanes in which some flag of `fs` does not stand yet, which a trap's record names as `LANES` (R134, R399): where every
flag stands already, the lanes that raise an enabled one (log entry 38). -/
def Warp.newLanes (w : Warp) (fs : List (BitVec 5)) : Word :=
  let new := maskOf (fun l => fs.getD l 0 &&& ~~~(w.flagOf l) ≠ 0)
  if new = 0 then w.enabledLanes fs else new

/-- The flags of `fs` that do not stand yet in their lane (R134). -/
def Warp.newFlags (w : Warp) (fs : List (BitVec 5)) : BitVec 5 :=
  (List.range 32).foldl (fun a l => a ||| (fs.getD l 0 &&& ~~~(w.flagOf l))) 0

/-- One draw of a generator: its next state, whose bits 31:16 are the draw (R129). -/
def nextGen (s : Word) : Word :=
  let s := s ^^^ (s <<< 13)
  let s := s ^^^ (s >>> 17)
  s ^^^ (s <<< 5)

/-- The 16-bit draw of a generator in state `s` (R129). -/
def drawOf (s : Word) : Nat := (nextGen s).toNat / 65536

/-- A generator advanced by some draws. -/
def advanceGen : Nat → Word → Word
  | 0, s => s
  | n + 1, s => advanceGen n (nextGen s)

/-- The states that a write of `sr.seed` gives (R129); `mix` is the entropy of each lane where `SSEL` is 1, else 0. -/
def seedGens (seed : Word) (mix : Nat → Word) : List Word :=
  (List.range 32).map (fun l =>
    let x := seed ^^^ (BitVec.ofNat 32 (l + 1) * 0x9E3779B9#32) ^^^ mix l
    if x = 0 then 1 else x)

/-- The warp after the results of a fixed-latency slot (R97, R132, R147). -/
def Cx.land (c : Cx) (r : Results) : Warp :=
  let w := c.writeRegs r
  let w := r.masks.foldl (fun w m => w.putMask m.1 m.2.1 m.2.2) w
  { w.addFlags r.flags with gens := r.gens }

/-- The end of a fixed-latency slot with results; an enabled flag raises breakpoint with reason 1 after its effects
(R134). -/
def Cx.fixed (c : Cx) (r : Results) (y : Bool) : State :=
  match c.badResult r with
  | some q => c.shape q
  | none =>
    let c' := { c with w := c.land r }
    if c.w.enabledLanes r.flags = 0 then c'.finish y
    else c'.trapAfter 0x41 1 (c.w.newLanes r.flags) [(c.w.newFlags r.flags).setWidth 32] y

/-- The end of a variable-latency slot with results (R98): they are on their way. -/
def Cx.variable (c : Cx) (counter : Option Nat) (gens : List Nat) (r : Results) (y : Bool) : State :=
  match c.badResult r with
  | some q => c.shape q
  | none =>
    let c' := c.launchFlight counter (c.dests r) r.flags .result none [] gens
    { c' with w := { c'.w with gens := r.gens } }.finish y

end Sys2Proof.Machine
end

