-- ==== Sys2Proof/Machine/Tiles.lean ====
section
/-! DEFINITION. Screen tiles and their images (R365, R374-R376, R378). -/

namespace Sys2Proof.Machine

/-- Fields of a pass descriptor (R365). -/
def passTiles (d : Bytes) : Dword := fieldD d 0x00
def passViews (d : Bytes) : Dword := fieldD d 0x08
def passInst (d : Bytes) : Dword := fieldD d 0x10
def passTW (d : Bytes) : Nat := field d 0x18 2
def passTH (d : Bytes) : Nat := field d 0x1A 2
def passNView (d : Bytes) : Nat := field d 0x1C 1
def passSlog (d : Bytes) : Nat := field d 0x1D 1 % 4
/-- Samples per pixel. -/
def passS (d : Bytes) : Nat := 2 ^ passSlog d
def passDfn (d : Bytes) : Bool := (fieldW d 0x1D).getLsbD 2
def passCull (d : Bytes) : Nat := field d 0x1D 1 / 8 % 4
def passFpos (d : Bytes) : Bool := (fieldW d 0x1D).getLsbD 5
def passTcap (d : Bytes) : Nat := field d 0x1E 2
def passDclr (d : Bytes) : Word := fieldW d 0x20
def passWnear (d : Bytes) : Word := fieldW d 0x24
def passMnode (d : Bytes) : Nat := field d 0x28 4
def passStat (d : Bytes) : Dword := fieldD d 0x30

/-- The home column of a tile (R374). -/
def tileHome (t : Nat) : Nat := t % Config.nColumns

/-- Bytes of a tile image (R375). -/
def imageBytes (d : Bytes) : Nat := 12288 * passS d

/-- The identifier of a cleared sample (R375). -/
def emptyId : Dword := 0xFFFFFFFFFFFFFFFF#64

/-- Depth and identifier of a sample of a tile (R375). -/
def STile.sample (t : STile) (dclr : Word) (i : Nat) : Word × Dword :=
  match t.image.find? (fun x => x.1 = i) with
  | some (_, z, id) => (z, id)
  | none => (dclr, emptyId)

/-- A byte of a tile image (R375). -/
def tileByte (d : Bytes) (t : STile) (off : Nat) : Byte :=
  let n := 4096 * passS d
  if off < n then BitVec.ofNat 8 ((t.sample (passDclr d) (off / 4)).1.toNat / 2 ^ (8 * (off % 4)))
  else BitVec.ofNat 8 ((t.sample (passDclr d) ((off - n) / 8)).2.toNat / 2 ^ (8 * ((off - n) % 8)))

/-- A tile is resident (R377). -/
def STile.resident (t : STile) : Bool := t.state = .raster || t.state = .closed || t.state = .classifying

/-- The pass of a context and the CLOSED or CLASSIFYING tile of a handle in a lantern (R378). -/
def State.handleTile (s : State) (ctx lan handle : Nat) : Option (Pass × STile) :=
  match (s.ctx ctx).bind Ctx.pass with
  | none => none
  | some p =>
    match p.tiles.find? (fun t => t.handle = handle && lanternOf (tileHome t.index) = lan &&
        (t.state = .closed || t.state = .classifying)) with
    | some t => some (p, t)
    | none => none

/-- Records of a tile that no retired group has had yet (R376). -/
def State.tileHeld (s : State) (c : Ctx) (t : Nat) : Bool :=
  let of (r : QRec) : Bool := r.tile = some t
  c.waitRecs.any (fun x => x.tile = some t) || c.bins.any (fun b => b.recs.any of) || c.lits.any (fun l => l.recs.any of) ||
    s.groups.any (fun g => g.ctx = c.id && g.pixelTiles.contains t) || c.savedGroups.any (fun g => g.pixelTiles.contains t)

/-- The CLASSIFYING tiles of a context whose records are all appended, and whose groups have retired, are released
(R376). -/
def State.releaseTiles (s : State) (ctx : Nat) : State :=
  match s.ctx ctx with
  | none => s
  | some c => s.setCtx { c with pass := c.pass.map (fun p => { p with tiles := p.tiles.map (fun t =>
      if t.state = .classifying && !s.tileHeld c t.index then { t with state := .released, handle := 0, image := [] } else t) }) }

end Sys2Proof.Machine
end

