-- ==== Sys2Proof/Machine/Access.lean ====
section
/-! DEFINITION. Accesses to the six spaces (R217-R233, R241): where an access goes, the checks at issue and at the owner,
the bytes there, and requests to peers (R243, R454-R458). -/

namespace Sys2Proof.Machine

/-- Where an access performs. -/
inductive Site where
  | key (k : Nat)
  | scr (off : Nat)
  | const (off : Nat)
  | tile (handle off : Nat)
  | peer (va : Dword)
  deriving DecidableEq, Repr

/-- Vault capacity of a column (R18). -/
def Column.vcap (c : Column) : Nat := Config.bankBytes * popc c.bankMask

/-- The column and offset of a vault address (R225). -/
def vaultCol (ea : Dword) : Nat := (bits ea 24 8).toNat
def vaultOff (ea : Dword) : Nat := (bits ea 0 24).toNat

/-- A range of vault bytes lies in the grant of a context (R225). -/
def State.granted (s : State) (ctx col off n : Nat) : Bool :=
  match s.ctx ctx with
  | some c => let (base, limit) := c.grants.getD col (0, 0); base ≤ off && off + n ≤ limit
  | none => false

/-- The storage of a block name (R226). -/
def Ctx.block? (c : Ctx) (name : Word) : Option Storage :=
  match c.names.find? (fun x => x.1 = name.toNat) with
  | some (_, id) => c.storages.find? (fun b => b.id = id)
  | none => none

/-- A cause of R220, R224 to R227 for an access at issue: space bounds or protection (R268).  In space 011 `ea` is the
byte within the block. -/
def State.outside (s : State) (g : Group) (sp : Nat) (ea : Dword) (n : Nat) (write : Bool) : Option Nat :=
  match sp with
  | 0 => if badGlobal s ea then some 0x16 else none
  | 1 => if g.scrSize < ea.toNat + n then some 0x16 else none
  | 2 =>
    if Config.nColumns ≤ vaultCol ea || (s.column (vaultCol ea)).vcap < vaultOff ea + n then some 0x16
    else if !s.granted g.ctx (vaultCol ea) (vaultOff ea) n then some 0x11
    else none
  | 3 => if 16384 < ea.toNat + n then some 0x16 else none
  | 4 => if write then some 0x11 else none
  | _ =>
    let o := ea.toNat
    if write then some 0x11
    else if o + n ≤ 0x100 then none
    else if 0x100 ≤ o && o < 0x10000 then (if o - 0x100 + n ≤ g.args.length then none else some 0x16)
    else if 0x10000 ≤ o && o + n ≤ 0x10CC0 then none
    else some 0x16

/-- A cause of R378 for a load of space 100. -/
def State.tileFault (s : State) (g : Group) (w : Warp) (l : Nat) (ea : Dword) (n : Nat) : Option Nat :=
  match w.recs.getD l none with
  | none => some 0x11
  | some _ =>
    match s.handleTile g.ctx (lanternOf g.col) (bits ea 20 12).toNat with
    | none => some 0x11
    | some (p, _) => if imageBytes p.desc < (bits ea 0 20).toNat + n then some 0x16 else none

/-- The site of an access, or the cause and reason met at its owner (R221, R226, R232). -/
def State.locate (s : State) (ctx : Nat) (sp : Nat) (name : Word) (ea : Dword) (write : Bool) : Except (Nat × Nat) Site :=
  match sp with
  | 0 =>
    if isPeer ea then .ok (.peer ea)
    else
      match s.translate ctx (lanOf ea) (offOf ea) (if write then .write else .read) with
      | .ok k => .ok (.key k)
      | .error c => .error (c, 0)
  | 1 => .ok (.scr ea.toNat)
  | 2 => if (s.column (vaultCol ea)).vault = .lost then .error (0x18, 0) else .ok (.key (vaultKey (vaultCol ea) (vaultOff ea)))
  | 3 =>
    match (s.ctx ctx).bind (fun c => c.block? name) with
    | none => .error (0x17, 1)
    | some b =>
      if write && 1 < b.refs then .error (0x17, 2)
      else
        match b.place with
        | .vault col base => if (s.column col).vault = .lost then .error (0x18, 0) else .ok (.key (vaultKey col (base + ea.toNat)))
        | .gddr lan base => .ok (.key (gddrKey lan (base + ea.toNat)))
  | 4 => .ok (.tile (bits ea 20 12).toNat (bits ea 0 20).toNat)
  | _ => .ok (.const ea.toNat)

/-- An access of `n` bytes that parks: to a vault in retention (R231), or to a line of a slice that is shutting down (R233). -/
def State.parks (s : State) (x : Site) (n : Nat) : Bool :=
  match x with
  | .key k =>
    match keyColumn k with
    | some col => (s.column col).vault = .retention
    | none => s.rangeParks k n
  | _ => false

/-- The memory of a site belongs to another lantern or device (R243). -/
def remoteSite (g : Group) (sp : Nat) (ea : Dword) (x : Site) : Bool :=
  match x with
  | .key k =>
    match keyColumn k with
    | some col => lanternOf col ≠ lanternOf g.col
    | none => if sp = 0 then lanOf ea ≠ lanternOf g.col else k / 2 ^ 54 ≠ lanternOf g.col
  | .peer _ => true
  | _ => false

/-- A byte of the constant area of a group (R227). -/
def State.constByte (s : State) (g : Group) (o : Nat) : Byte :=
  if o < 0x100 then g.record.getD o 0
  else if o < 0x10000 then g.args.getD (o - 0x100) 0
  else s.discovery.getD (o - 0x10000) 0

/-- Bytes at a site. -/
def State.siteRead (s : State) (g : Group) (x : Site) (n : Nat) : Bytes :=
  match x with
  | .key k => s.mem.read k n
  | .scr o => g.scr.read o n
  | .const o => (List.range n).map (fun i => s.constByte g (o + i))
  | .tile h o =>
    match s.handleTile g.ctx (lanternOf g.col) h with
    | some (p, t) => (List.range n).map (fun i => tileByte p.desc t (o + i))
    | none => List.replicate n 0
  | .peer _ => List.replicate n 0

/-- Poison at a site (R228). -/
def State.sitePoison (s : State) (g : Group) (x : Site) (n : Nat) : Bool :=
  match x with
  | .key k => s.mem.poisoned k n
  | .scr o => g.scr.poisoned o n
  | _ => false

/-- Bytes stored at a site; the sectors lose no poison yet. -/
def State.siteWrite (s : State) (g : Group) (x : Site) (bs : Bytes) : State × Group :=
  match x with
  | .key k => ({ ((s.touchRange k bs.length).present k) with mem := s.mem.write k bs }, g)
  | .scr o => (s, { g with scr := g.scr.write o bs })
  | _ => (s, g)

/-- Poison taken from the sectors that the stores of one instruction cover whole (R229). -/
def State.siteHeal (s : State) (g : Group) (ws : List (Site × Bytes)) : State × Group :=
  let keys := ws.filterMap (fun w => match w.1 with | .key k => some (k, w.2) | _ => none)
  let scrs := ws.filterMap (fun w => match w.1 with | .scr o => some (o, w.2) | _ => none)
  ({ s with mem := s.mem.healAll keys }, { g with scr := g.scr.healAll scrs })

/-- The page of a global access is gathered by its owner (R222). -/
def State.gatherVa (s : State) (g : Group) (sp : Nat) (ea : Dword) (write : Bool) : State :=
  if sp = 0 && !isPeer ea then s.gather g.ctx (some g.launch) (lanOf ea) (offOf ea) write else s

/-! ### Requests to peers -/

/-- A request flit of a group's context to the device of a peer address; what a register holds is never poisoned. -/
def State.sendReq (s : State) (g : Group) (va : Dword) (r : FlitReq) : State := s.request g.ctx (lanternOf g.col) va 0 r

/-! ### Range locks (R241, R308) -/

/-- The number by which the range-lock table knows a byte of a space: scratchpads of different groups and blocks of
different names are apart. -/
def lockByte (g : Group) (sp : Nat) (name : Word) (ea : Dword) : Nat :=
  match sp with
  | 1 => g.uid * 2 ^ 32 + ea.toNat
  | 3 => name.toNat * 2 ^ 32 + ea.toNat
  | _ => ea.toNat

/-- Two ranges of one space overlap. -/
def rangesMeet (s1 lo1 hi1 s2 lo2 hi2 : Nat) : Bool := s1 = s2 && lo1 < hi2 && lo2 < hi1

/-- An access of a range meets a destination of a lock. -/
def Lock.hitsDst (k : Lock) (sp lo hi : Nat) : Bool :=
  rangesMeet k.dstSpace k.dstLo k.dstHi sp lo hi || k.more.any (fun m => rangesMeet m.1 m.2.1 m.2.2 sp lo hi)

/-- An access of a range meets a source of a lock. -/
def Lock.hitsSrc (k : Lock) (sp lo hi : Nat) : Bool :=
  rangesMeet k.srcSpace k.srcLo k.srcHi sp lo hi || k.srcMore.any (fun m => rangesMeet m.1 m.2.1 m.2.2 sp lo hi)

/-- The first lock of a core's table that an access of a thread conflicts with (R241). -/
def Column.conflict (c : Column) (ctx sp lo hi : Nat) (write : Bool) : Option (Nat × Lock) :=
  ((List.range 64).zip c.locks).findSome? (fun x =>
    match x.2 with
    | some k =>
      if k.ctx = ctx && ((k.hitsDst sp lo hi && (write || sp ≠ 1)) ||
          (write && k.hitsSrc sp lo hi)) then some (x.1, k)
      else none
    | none => none)

end Sys2Proof.Machine
end

