-- ==== Sys2Proof/Machine/Num.lean ====
section
/-! DEFINITION. Number formats and arithmetic (07, R111-R137): exact values, one rounding, flags. -/

namespace Sys2Proof.Machine

/-- A floating-point element format (R111): mantissa and exponent bits, bias, whether it has infinities, the code of
its largest finite value, and its canonical NaN (none where the format has no NaN). -/
structure Fmt where
  mbits : Nat
  ebits : Nat
  bias : Nat
  hasInf : Bool
  top : Nat
  nan : Option Nat
  deriving DecidableEq, Repr

def Fmt.f32 : Fmt := { mbits := 23, ebits := 8, bias := 127, hasInf := true, top := 0x7F7FFFFF, nan := some 0x7FC00000 }
def Fmt.f16 : Fmt := { mbits := 10, ebits := 5, bias := 15, hasInf := true, top := 0x7BFF, nan := some 0x7E00 }
def Fmt.bf16 : Fmt := { mbits := 7, ebits := 8, bias := 127, hasInf := true, top := 0x7F7F, nan := some 0x7FC0 }
def Fmt.e4m3 : Fmt := { mbits := 3, ebits := 4, bias := 7, hasInf := false, top := 0x7E, nan := some 0x7F }
def Fmt.e5m2 : Fmt := { mbits := 2, ebits := 5, bias := 15, hasInf := true, top := 0x7B, nan := some 0x7E }
def Fmt.e2m1 : Fmt := { mbits := 1, ebits := 2, bias := 1, hasInf := false, top := 0x7, nan := none }
/-- FP64, a source only (R116). -/
def Fmt.f64 : Fmt :=
  { mbits := 52, ebits := 11, bias := 1023, hasInf := true, top := 0x7FEFFFFFFFFFFFFF, nan := some 0x7FF8000000000000 }

/-- Width of a format in bits. -/
def Fmt.width (f : Fmt) : Nat := f.mbits + f.ebits + 1

/-- An exact value: NaN, an infinity, or `(-1)^s * m * 2^e`, a zero where `m = 0`. -/
inductive FVal where
  | nan
  | inf (s : Bool)
  | fin (s : Bool) (m : Nat) (e : Int)
  deriving DecidableEq, Repr

/-- The flags of `sr.flags` (R132). -/
abbrev Flags := BitVec 5
def flagNX : Flags := 1#5
def flagUF : Flags := 2#5
def flagOF : Flags := 4#5
def flagDZ : Flags := 8#5
def flagNV : Flags := 16#5

/-- Floor of the base-2 logarithm; 0 for 0. -/
def log2 (n : Nat) : Nat := Nat.log2 n

/-- The exact value of a code (R111, R113). -/
def Fmt.decode (f : Fmt) (code : Nat) : FVal :=
  let mag := code % 2 ^ (f.mbits + f.ebits)
  let s := code / 2 ^ (f.mbits + f.ebits) % 2 = 1
  let ef := mag / 2 ^ f.mbits
  let man := mag % 2 ^ f.mbits
  if f.hasInf ∧ ef = 2 ^ f.ebits - 1 then (if man = 0 then .inf s else .nan)
  else if f.nan.isSome ∧ !f.hasInf ∧ f.nan = some mag then .nan
  else if ef = 0 then .fin s man (1 - f.bias - f.mbits)
  else .fin s (man + 2 ^ f.mbits) (ef - f.bias - f.mbits)

/-- The code of an infinity of a format with infinities. -/
def Fmt.infCode (f : Fmt) : Nat := (2 ^ f.ebits - 1) * 2 ^ f.mbits

/-- A sign put before a magnitude code. -/
def Fmt.signed (f : Fmt) (s : Bool) (code : Nat) : Nat := if s then code + 2 ^ (f.mbits + f.ebits) else code

/-- The canonical NaN, or +0 in a format without NaN (R112, R131). -/
def Fmt.nanCode (f : Fmt) : Nat := f.nan.getD 0

/-- A rounding mode, coded as prefix `RND` (R90): 1 RNE, 2 RTZ, 3 RUP, 4 RDN, 5 RNA, 6 stochastic. -/
abbrev RMode := Nat

/-- Whether a magnitude with quotient `n`, remainder `rem` of `2^k` rounds away from zero (R126, R128); `r` is the
16-bit draw. -/
def roundsUp (mode : RMode) (s : Bool) (n rem k r : Nat) : Bool :=
  if rem = 0 then false
  else
    match mode with
    | 1 => 2 ^ k < 2 * rem || (2 * rem = 2 ^ k && n % 2 = 1)
    | 3 => !s
    | 4 => s
    | 5 => 2 ^ k ≤ 2 * rem
    | 6 => 65536 ≤ rem * 65536 / 2 ^ k + r
    | _ => false

/-- A magnitude `m * 2^e` cut at the quantum `2^q`: quotient, remainder and the number of bits cut.  Below the quantum
by more than 64 bits, a remainder of one part in `2^64` stands for it: every mode treats both alike. -/
def cutAt (m : Nat) (e q : Int) : Nat × Nat × Nat :=
  if q ≤ e then (m * 2 ^ (e - q).toNat, 0, 0)
  else
    let k := (q - e).toNat
    if log2 m + 64 < k then (0, if m = 0 then 0 else 1, 64) else (m / 2 ^ k, m % 2 ^ k, k)

/-- A rounded result: its code, the flags it raises, and whether it took a draw (R129). -/
structure Res where
  code : Nat
  flags : Flags
  drew : Bool
  deriving DecidableEq, Repr

/-- What overflow delivers (R127, R131, R136). -/
def Fmt.overflow (f : Fmt) (mode : RMode) (sat s : Bool) : Nat :=
  let toInf := mode = 1 || mode = 5 || mode = 6 || (mode = 3 && !s) || (mode = 4 && s)
  if sat || !toInf then f.signed s f.top
  else if f.hasInf then f.signed s f.infCode
  else match f.nan with
    | some n => n
    | none => f.signed s f.top

/-- One rounding of a finite value to a format (R126-R128, R131, R133, R136). -/
def Fmt.roundFin (f : Fmt) (mode : RMode) (sat s : Bool) (m : Nat) (e : Int) (r : Nat) : Res :=
  if m = 0 then { code := f.signed s 0, flags := 0, drew := false }
  else
    let top : Int := log2 m + e
    let emin : Int := 1 - f.bias
    let q : Int := max top emin - f.mbits
    let (n, rem, k) := cutAt m e q
    let n' := if roundsUp mode s n rem k r then n + 1 else n
    let code := (q + f.mbits + f.bias - 1).toNat * 2 ^ f.mbits + n'
    if f.top < code then
      { code := f.overflow mode sat s, flags := flagOF ||| flagNX, drew := mode = 6 }
    else
      { code := f.signed s code
        flags := if rem = 0 then 0 else if top < emin then flagNX ||| flagUF else flagNX
        drew := rem ≠ 0 && mode = 6 }

/-- Rounding of any exact value, with saturation (R131, R136). -/
def Fmt.round (f : Fmt) (mode : RMode) (sat : Bool) (v : FVal) (r : Nat) : Res :=
  match v with
  | .nan => { code := f.nanCode, flags := if f.nan.isSome then 0 else flagNV, drew := false }
  | .inf s =>
    if f.hasInf then
      if sat then { code := f.signed s f.top, flags := flagNX, drew := false }
      else { code := f.signed s f.infCode, flags := 0, drew := false }
    else if sat || f.nan.isNone then { code := f.signed s f.top, flags := flagNV, drew := false }
    else { code := f.nanCode, flags := flagNV, drew := false }
  | .fin s m e => f.roundFin mode sat s m e r

/-- Round-to-odd to FP32, the first step of a narrowing conversion (R135), as an exact value. -/
def roundToOdd (v : FVal) : FVal :=
  match v with
  | .fin s m e =>
    if m = 0 then v
    else
      let top : Int := log2 m + e
      let q : Int := max top (-126) - 23
      let (n, rem, _) := cutAt m e q
      if 127 < top then .fin s 0xFFFFFF 104
      else if rem = 0 then .fin s n q
      else .fin s (if n % 2 = 1 then n else n + 1) q
  | _ => v

/-- A finite magnitude of at least 2^128, beyond the range of every format but FP64. -/
def FVal.huge (v : FVal) : Bool :=
  match v with
  | .fin _ m e => m ≠ 0 && 127 < (log2 m + e : Int)
  | _ => false

/-- A narrowing conversion to a format narrower than FP32 (R135, R136): the value of the second rounding, with the flags of
the whole conversion (R133), so that a magnitude beyond every target overflows in every mode. -/
def Fmt.narrow (f : Fmt) (mode : RMode) (sat : Bool) (v : FVal) (r : Nat) : Res :=
  let x := f.round mode sat (roundToOdd v) r
  { x with flags := if v.huge then x.flags ||| flagOF ||| flagNX else x.flags }

/-! ### Exact operations -/

def FVal.neg : FVal → FVal
  | .nan => .nan
  | .inf s => .inf (!s)
  | .fin s m e => .fin (!s) m e

/-- The signed integer that a finite value has in units of `2^q`, for `q` not above its exponent. -/
def scaled (s : Bool) (m : Nat) (e q : Int) : Int :=
  let x : Int := (m * 2 ^ (e - q).toNat : Nat)
  if s then -x else x

/-- A finite value from a signed integer in units of `2^q`; `z` is the sign of a zero. -/
def ofScaled (x q : Int) (z : Bool) : FVal :=
  if x = 0 then .fin z 0 0 else .fin (x < 0) x.natAbs q

/-- Exact product, with the flags of an invalid one (R172). -/
def FVal.mul (a b : FVal) : FVal × Flags :=
  match a, b with
  | .nan, _ => (.nan, 0)
  | _, .nan => (.nan, 0)
  | .inf s, .inf t => (.inf (s != t), 0)
  | .inf s, .fin t m _ => if m = 0 then (.nan, flagNV) else (.inf (s != t), 0)
  | .fin s m _, .inf t => if m = 0 then (.nan, flagNV) else (.inf (s != t), 0)
  | .fin s m e, .fin t n g => (.fin (s != t) (m * n) (e + g), 0)

/-- Exact sum of several values, with the flags of an invalid one (R172).  `rdn`: an exact zero sum of unlike signs is
-0 (R113). -/
def FVal.sum (rdn : Bool) (l : List FVal) : FVal × Flags :=
  let pos := l.any (· = .inf false)
  let neg := l.any (· = .inf true)
  if l.any (· = .nan) then (.nan, if pos && neg then flagNV else 0)
  else if pos && neg then (.nan, flagNV)
  else if pos then (.inf false, 0)
  else if neg then (.inf true, 0)
  else
    let ex (v : FVal) : Int := match v with | .fin _ m e => if m = 0 then 4096 else e | _ => 4096
    let q := l.foldl (fun a v => min a (ex v)) 4096
    let tot := l.foldl (fun a v => match v with | .fin s m e => if m = 0 then a else a + scaled s m e q | _ => a) (0 : Int)
    let sgn (v : FVal) : Bool := match v with | .fin s _ _ => s | _ => false
    let allZero := l.all (fun v => match v with | .fin _ m _ => m = 0 | _ => false)
    let z := if allZero && l.all sgn then true else if allZero && l.all (fun v => !sgn v) then false else rdn
    (ofScaled tot q z, 0)

/-- Order of two finite or infinite values: `some` of less, equal, greater as -1, 0, 1; none when unordered. -/
def FVal.cmp (a b : FVal) : Option Int :=
  match a, b with
  | .nan, _ => none
  | _, .nan => none
  | .inf s, .inf t => some (if s = t then 0 else if s then -1 else 1)
  | .inf s, .fin .. => some (if s then -1 else 1)
  | .fin .., .inf t => some (if t then 1 else -1)
  | .fin s m e, .fin t n g =>
    let q := min e g
    let x := scaled s m e q
    let y := scaled t n g q
    some (if x < y then -1 else if x = y then 0 else 1)

/-- Sign of a value; false for a NaN. -/
def FVal.sign : FVal → Bool
  | .nan => false
  | .inf s => s
  | .fin s _ _ => s

/-- Whether a value is a zero. -/
def FVal.isZero : FVal → Bool
  | .fin _ m _ => m = 0
  | _ => false

/-- The two operations that FMIN and FMINM choose by (R173): whether `a` is to be taken, -0 below +0. -/
def FVal.below (a b : FVal) : Bool :=
  match FVal.cmp a b with
  | some c => c < 0 || (c = 0 && a.sign)
  | none => false

/-- Exact division, cut to 80 bits with a sticky bit, which every rounding treats as the quotient (R189). -/
def FVal.div (a b : FVal) : FVal × Flags :=
  match a, b with
  | .nan, _ => (.nan, 0)
  | _, .nan => (.nan, 0)
  | .inf _, .inf _ => (.nan, flagNV)
  | .inf s, .fin t _ _ => (.inf (s != t), 0)
  | .fin s _ _, .inf t => (.fin (s != t) 0 0, 0)
  | .fin s m e, .fin t n g =>
    if n = 0 then (if m = 0 then (.nan, flagNV) else (.inf (s != t), flagDZ))
    else
      let sh := 80 + log2 n
      let x := m * 2 ^ sh
      (.fin (s != t) (2 * (x / n) + (if x % n = 0 then 0 else 1)) (e - g - sh - 1), 0)

/-- Integer square root by one bit at a time; `k` is the number of result bits. -/
def isqrt (n : Nat) : Nat → Nat → Nat
  | 0, acc => acc
  | k + 1, acc =>
    let t := acc + 2 ^ k
    isqrt n k (if t * t ≤ n then t else acc)

/-- Exact square root of a positive finite magnitude, cut with a sticky bit. -/
def sqrtMag (m : Nat) (e : Int) : Nat × Int :=
  let sh : Nat := 160 + (if (e + 160) % 2 = 0 then 0 else 1)
  let x := m * 2 ^ sh
  let r := isqrt x (log2 x / 2 + 1) 0
  (2 * r + (if r * r = x then 0 else 1), (e - sh) / 2 - 1)

/-- A finite value rounded to an integer: the integer, whether it was exact, and whether a draw was taken (R128). -/
def roundInt (mode : RMode) (s : Bool) (m : Nat) (e : Int) (r : Nat) : Int × Bool × Bool :=
  let (n, rem, k) := cutAt m e 0
  let n' : Int := ((if roundsUp mode s n rem k r then n + 1 else n : Nat) : Int)
  (if s then -n' else n', rem = 0, rem ≠ 0 && mode = 6)

/-- Conversion to an integer type with bounds (R137): the value and flags. -/
def toInteger (lo hi : Int) (mode : RMode) (v : FVal) (r : Nat) : Int × Flags × Bool :=
  match v with
  | .nan => (0, flagNV, false)
  | .inf s => (if s then lo else hi, flagNV, false)
  | .fin s m e =>
    -- a magnitude of 2^80 or more is out of every range
    if m ≠ 0 ∧ 80 < (log2 m + e : Int) then (if s then lo else hi, flagNV, false)
    else
      let (x, exact, drew) := roundInt mode s m e r
      if x < lo then (lo, flagNV, drew)
      else if hi < x then (hi, flagNV, drew)
      else (x, if exact then 0 else flagNX, drew)

/-- An integer as an exact value. -/
def FVal.ofInt (x : Int) : FVal := .fin (x < 0) x.natAbs 0

/-! ### FP32 arithmetic on codes, RNE, for matrices, tables and engines -/

/-- The value of an FP32 word. -/
def f32 (w : Word) : FVal := Fmt.f32.decode w.toNat
/-- One RNE rounding to FP32 (R138). -/
def toF32 (v : FVal) : Word := BitVec.ofNat 32 (Fmt.f32.round 1 false v 0).code
/-- FP32 addition by RNE (R113). -/
def addF32 (a b : Word) : Word := toF32 (FVal.sum false [f32 a, f32 b]).1
/-- FP32 multiplication by RNE. -/
def mulF32 (a b : Word) : Word := toF32 (FVal.mul (f32 a) (f32 b)).1

end Sys2Proof.Machine
end

