-- ==== Sys2Proof/Machine/Ratio.lean ====
section
/-! DEFINITION. Exact rational arithmetic for the geometry of the graphics pipeline. -/

namespace Sys2Proof.Machine

/-- A rational number, not reduced; the denominator is not 0. -/
structure Ratio where
  n : Int
  d : Nat
  deriving DecidableEq, Repr

namespace Ratio

def ofInt (x : Int) : Ratio := { n := x, d := 1 }
def zero : Ratio := ofInt 0
def one : Ratio := ofInt 1
def add (a b : Ratio) : Ratio := { n := a.n * b.d + b.n * a.d, d := a.d * b.d }
def neg (a : Ratio) : Ratio := { a with n := -a.n }
def sub (a b : Ratio) : Ratio := a.add b.neg
def mul (a b : Ratio) : Ratio := { n := a.n * b.n, d := a.d * b.d }
/-- The quotient; 0 where the divisor is 0. -/
def div (a b : Ratio) : Ratio :=
  if b.n = 0 then zero else { n := (if b.n < 0 then -a.n else a.n) * b.d, d := a.d * b.n.natAbs }
def le (a b : Ratio) : Bool := a.n * b.d ≤ b.n * a.d
def lt (a b : Ratio) : Bool := a.n * b.d < b.n * a.d
def eq (a b : Ratio) : Bool := a.n * b.d = b.n * a.d
def isZero (a : Ratio) : Bool := a.n = 0
def floor (a : Ratio) : Int := a.n / (a.d : Int)
def min (a b : Ratio) : Ratio := if a.le b then a else b
def max (a b : Ratio) : Ratio := if a.le b then b else a

/-- The exact value of a finite floating-point value. -/
def ofFVal : FVal → Option Ratio
  | .fin s m e =>
    let x : Int := if s then -(m : Int) else m
    if 0 ≤ e then some { n := x * (2 ^ e.toNat : Nat), d := 1 } else some { n := x, d := 2 ^ (-e).toNat }
  | _ => none

/-- The exact value of an FP32 word. -/
def ofWord (w : Word) : Option Ratio := ofFVal (f32 w)

/-- A value that every rounding treats as the ratio (R189). -/
def toFVal (a : Ratio) : FVal := (FVal.div (FVal.ofInt a.n) (FVal.ofInt a.d)).1

/-- One RNE rounding to FP32. -/
def toF32 (a : Ratio) : Word := Machine.toF32 a.toFVal

end Ratio

/-- Three coordinates. -/
structure Vec3 where
  x : Ratio
  y : Ratio
  z : Ratio
  deriving DecidableEq, Repr

namespace Vec3

def sub (a b : Vec3) : Vec3 := { x := a.x.sub b.x, y := a.y.sub b.y, z := a.z.sub b.z }
def add (a b : Vec3) : Vec3 := { x := a.x.add b.x, y := a.y.add b.y, z := a.z.add b.z }
def scale (k : Ratio) (a : Vec3) : Vec3 := { x := k.mul a.x, y := k.mul a.y, z := k.mul a.z }
def dot (a b : Vec3) : Ratio := ((a.x.mul b.x).add (a.y.mul b.y)).add (a.z.mul b.z)
def cross (a b : Vec3) : Vec3 :=
  { x := (a.y.mul b.z).sub (a.z.mul b.y), y := (a.z.mul b.x).sub (a.x.mul b.z), z := (a.x.mul b.y).sub (a.y.mul b.x) }
def isZero (a : Vec3) : Bool := a.x.isZero && a.y.isZero && a.z.isZero
/-- Three FP32 words as exact coordinates; none where one is not finite. -/
def ofWords (ws : List Word) : Option Vec3 :=
  match ws with
  | [a, b, c] =>
    match Ratio.ofWord a, Ratio.ofWord b, Ratio.ofWord c with
    | some x, some y, some z => some { x, y, z }
    | _, _, _ => none
  | _ => none

end Vec3

/-- The values of a parameter between two bounds; none is no bound. -/
structure Span where
  lo : Option Ratio
  hi : Option Ratio
  deriving DecidableEq, Repr

namespace Span

def all : Span := { lo := none, hi := none }
/-- A span that holds nothing. -/
def nothing : Span := { lo := some Ratio.one, hi := some Ratio.zero }
def isEmpty (s : Span) : Bool :=
  match s.lo, s.hi with
  | some a, some b => b.lt a
  | _, _ => false
def from' (s : Span) (a : Ratio) : Span := { s with lo := some (match s.lo with | some b => Ratio.max a b | none => a) }
def upTo (s : Span) (a : Ratio) : Span := { s with hi := some (match s.hi with | some b => Ratio.min a b | none => a) }
/-- The parameters of a span with `a + b t` at least 0. -/
def nonneg (s : Span) (a b : Ratio) : Span :=
  if b.isZero then (if a.n < 0 then nothing else s)
  else
    let t := a.neg.div b
    if b.n < 0 then s.upTo t else s.from' t
/-- The parameters of a span with `a + b t` equal to 0. -/
def null (s : Span) (a b : Ratio) : Span := (s.nonneg a b).nonneg a.neg b.neg

end Span

end Sys2Proof.Machine
end

