-- ==== Sys2Proof/Machine/Geometry.lean ====
section
/-! DEFINITION. Reads of the graphics engines (R267), and the cluster and instance records (R362-R364). -/

namespace Sys2Proof.Machine

/-- A read of memory by an engine on behalf of a lane: the ranges that it has read, the last one first, or a cause with its
address.  A code above 255 tells more: `peerRefused`, `shutting`, or `lockMet`. -/
abbrev Rd := StateT (List (Dword × Nat)) (Except (Nat × Dword))

/-- A read that parks at a slice which is shutting down (R233). -/
def shutting : Nat := 0x200

/-- A range-lock conflict (0x15) with an entry of the table (R241). -/
def lockMet (i : Nat) : Nat := 0x15 + 256 * i

/-- A cause met by a read. -/
def Rd.fail {α : Type} (cause : Nat) (va : Dword) : Rd α := fun _ => .error (cause, va)

/-- Bytes of a global address under a context's translation (R220, R221, R457). -/
def State.fetch (s : State) (ctx : Nat) (va : Dword) (n : Nat) : Rd Bytes :=
  if !isPeer va && s.slicesPark ctx va n then Rd.fail shutting va
  else
    match s.readVa ctx va n with
    | .ok bs => fun vs => .ok (bs, (va, n) :: vs)
    | .error c => Rd.fail c va

/-- An instance record (R363). -/
structure Inst where
  o2w : List Word
  w2o : List Word
  ctab : Dword
  root : Dword
  iid : Nat
  nclu : Nat
  mnode : Nat
  deriving DecidableEq, Repr

/-- A cluster record with its triangles (R362). -/
structure Clus where
  vpos : Dword
  vatt : Dword
  nv : Nat
  vstr : Nat
  mat : Word
  tris : List (Nat × Nat × Nat)
  deriving DecidableEq, Repr

/-- Words of a structure. -/
def wordsAt (b : Bytes) (off n : Nat) : List Word := (List.range n).map (fun i => fieldW b (off + 4 * i))

/-- An address of the local global form with an alignment (R220). -/
def localAt (va : Dword) (align : Nat) : Bool := bits va 56 8 = 0 && va.toNat % align = 0

/-- An instance record (R363, R364). -/
def readInst (rd : Dword → Nat → Rd Bytes) (va : Dword) : Rd Inst := do
  if va.toNat % 128 ≠ 0 then Rd.fail 0x11 va
  else
    let b ← rd va 128
    let i : Inst := { o2w := wordsAt b 0 12, w2o := wordsAt b 0x30 12, ctab := fieldD b 0x60, root := fieldD b 0x68
                      iid := field b 0x70 4, nclu := field b 0x74 4, mnode := field b 0x78 4 }
    if i.ctab.toNat % 64 ≠ 0 || i.root.toNat % 128 ≠ 0 || 0xFFFFFF ≤ i.iid || i.nclu = 0 || 2 ^ 28 < i.nclu ||
        !zeroField b 0x7C 4 then Rd.fail 0x11 va
    else pure i

/-- Cluster `c` of an instance (R362, R364). -/
def readClus (rd : Dword → Nat → Rd Bytes) (i : Inst) (c : Nat) : Rd Clus := do
  let va := i.ctab + BitVec.ofNat 64 (64 * c)
  if i.nclu ≤ c then Rd.fail 0x11 va
  else
    let b ← rd va 64
    let tri := fieldD b 0x10
    let nv := field b 0x18 2
    let nt := field b 0x1A 2
    let k : Clus := { vpos := fieldD b 0, vatt := fieldD b 8, nv, vstr := field b 0x1C 2, mat := fieldW b 0x20, tris := [] }
    if k.vpos.toNat % 16 ≠ 0 || k.vatt.toNat % 4 ≠ 0 || tri.toNat % 4 ≠ 0 || nv = 0 || 256 < nv || nt = 0 || 256 < nt ||
        k.vstr % 4 ≠ 0 || k.vstr < 4 || 256 < k.vstr || !zeroField b 0x1E 2 || !zeroField b 0x24 28 then Rd.fail 0x11 va
    else
      let tb ← rd tri (4 * nt)
      let at' (j n : Nat) : Nat := field tb (4 * j + n) 1
      if (List.range nt).any (fun j => nv ≤ at' j 0 || nv ≤ at' j 1 || nv ≤ at' j 2 || at' j 3 ≠ 0) then Rd.fail 0x11 va
      else pure { k with tris := (List.range nt).map (fun j => (at' j 0, at' j 1, at' j 2)) }

/-- The object-space position of a vertex, as FP32 words (R362); bytes that must be 0 and are not make it invalid (R364). -/
def readPos (rd : Dword → Nat → Rd Bytes) (k : Clus) (i : Nat) : Rd (List Word) := do
  let va := k.vpos + BitVec.ofNat 64 (16 * i)
  let b ← rd va 16
  if zeroField b 12 4 then pure (wordsAt b 0 3) else Rd.fail 0x11 va

/-- Instance id, cluster, triangle and view of an identifier (R373). -/
def idInst (id : Dword) : Nat := id.toNat / 2 ^ 40
def idClus (id : Dword) : Nat := id.toNat / 2 ^ 12 % 2 ^ 28
def idTri (id : Dword) : Nat := id.toNat / 16 % 256
def idView (id : Dword) : Nat := id.toNat % 16
/-- The identifier of a triangle (R373, R385). -/
def identifier (iid clu tri view : Nat) : Dword := BitVec.ofNat 64 (iid * 2 ^ 40 + clu * 2 ^ 12 + tri * 16 + view)

/-- One RNE rounding of the exact dot product of a row with a vector (R385, R389). -/
def rowDot (row v : List Word) : Word :=
  toF32 (FVal.sum false ((row.zip v).map (fun p => (FVal.mul (f32 p.1) (f32 p.2)).1))).1

/-- A matrix of rows of four, applied to a vector of four. -/
def matVec (m : List Word) (rows : Nat) (v : List Word) : List Word :=
  (List.range rows).map (fun r => rowDot ((m.drop (4 * r)).take 4) v)

/-- FP32 1.0 and 0.0. -/
def oneF : Word := 0x3F800000#32

end Sys2Proof.Machine
end

