-- ==== Sys2Proof/Machine/Approx.lean ====
section
/-! DEFINITION. Special functions (R187-R190): exact results to about 80 bits, and the result that the device returns,
the free value `Config.sfuError` inside the bound of R188. -/

namespace Sys2Proof.Machine

/-- Fraction bits of the fixed-point evaluation. -/
def fxBits : Nat := 100
/-- Natural logarithm of 2 in units of `2^-100`. -/
def fxLn2 : Nat := 0xb17217f7d1cf79abc9e3b3980
/-- Pi in units of `2^-100`. -/
def fxPi : Nat := 0x3243f6a8885a308d313198a2e0
/-- Base-2 logarithm of e in units of `2^-100`. -/
def fxLog2e : Nat := 0x171547652b82fe1777d0ffda0d

/-- Product of two fixed-point numbers. -/
def fxMul (a b : Nat) : Nat := a * b / 2 ^ fxBits

/-- Power series of the exponential at `t`: the terms from `term` on, the next being number `k`. -/
def fxExp (t : Nat) : Nat → Nat → Nat → Nat → Nat
  | 0, _, _, acc => acc
  | fuel + 1, k, term, acc => fxExp t fuel (k + 1) (fxMul term t / k) (acc + term)

/-- Power series of the sine with steps of two terms, `t2` the square of the angle. -/
def fxSin (t2 : Nat) : Nat → Nat → Nat → Int → Bool → Int
  | 0, _, _, acc, _ => acc
  | fuel + 1, k, term, acc, neg =>
    fxSin t2 fuel (k + 2) (fxMul term t2 / ((k + 1) * (k + 2))) (if neg then acc - term else acc + term) (!neg)

/-- A finite value in units of `2^-100`, rounded down. -/
def toFx (s : Bool) (m : Nat) (e : Int) : Int :=
  let x : Nat := if 0 ≤ e + fxBits then m * 2 ^ (e + fxBits).toNat else m / 2 ^ (-(e + fxBits)).toNat
  if s then -(x : Int) else x

/-- `2^x` for `x` in units of `2^-100`, as an exact value. -/
def exp2Val (x : Int) : FVal :=
  let n := x / (2 ^ fxBits : Nat)
  let f := (x % (2 ^ fxBits : Nat)).toNat
  .fin false (fxExp (fxMul f fxLn2) 34 1 (2 ^ fxBits) 0) (n - fxBits)

/-- The fraction bits of a base-2 logarithm of `y` in [1, 2), one squaring each. -/
def log2Frac : Nat → Nat → Nat → Nat
  | 0, _, acc => acc
  | fuel + 1, y, acc =>
    let y2 := fxMul y y
    if 2 ^ (fxBits + 1) ≤ y2 then log2Frac fuel (y2 / 2) (2 * acc + 1) else log2Frac fuel y2 (2 * acc)

/-- `log2 (m * 2^e)` for `m` not 0. -/
def log2Val (m : Nat) (e : Int) : FVal :=
  let y := m * 2 ^ fxBits / 2 ^ log2 m
  ofScaled ((log2 m + e) * (2 ^ 60 : Nat) + (log2Frac 60 y 0 : Nat)) (-60) false

/-- `sin (pi * x)` for a magnitude `x = m * 2^e`; below 2^-50 it is `pi * x` to 96 bits. -/
def sinPiMag (m : Nat) (e : Int) : FVal :=
  if (log2 m : Int) + e < -50 then .fin false (m * fxPi) (e - fxBits) else
  let per := 2 ^ (fxBits + 1)
  let x : Nat := (toFx false m e).toNat % per
  let neg := 2 ^ fxBits ≤ x
  let r := x % 2 ^ fxBits
  let r := if 2 ^ (fxBits - 1) < r then 2 ^ fxBits - r else r
  let t := fxMul r fxPi
  match ofScaled (fxSin (fxMul t t) 20 1 t 0 false) (-100) false with
  | .fin _ a q => .fin neg a q
  | v => v

/-- Whether `m * 2^e` is an integer. -/
def isInt (m : Nat) (e : Int) : Bool := 0 ≤ e || m % 2 ^ (min (-e).toNat (log2 m + 1)) = 0

/-- Exact hyperbolic tangent of `m * 2^e`, `m` not 0, as a magnitude. -/
def tanhMag (m : Nat) (e : Int) : FVal :=
  if (log2 m : Int) + e < -12 then
    let sq := fxMul (toFx false m e).toNat (toFx false m e).toNat
    .fin false (m * (2 ^ fxBits - sq / 3)) (e - fxBits)
  else
    let x : Nat := if 6 < (log2 m : Int) + e then 64 * 2 ^ fxBits else (toFx false m e).toNat
    let ex := exp2Val (2 * fxMul x fxLog2e : Nat)
    let one : FVal := .fin false 1 0
    (FVal.div (FVal.sum false [ex, one.neg]).1 (FVal.sum false [ex, one]).1).1

/-- Exact logistic sigmoid of `± m * 2^e`. -/
def sigmVal (s : Bool) (m : Nat) (e : Int) : FVal :=
  let x : Nat := if 8 < (log2 m : Int) + e then 256 * 2 ^ fxBits else (toFx false m e).toNat
  let ex := exp2Val (-(fxMul x fxLog2e : Nat))
  let one : FVal := .fin false 1 0
  (FVal.div (if s then ex else one) (FVal.sum false [ex, one]).1).1

/-- What a special function gives before narrowing (R189, R190): a value that R189 names, with its flags; or an
approximation of an exact value, with its bound as ULPs, or as an absolute power of two. -/
inductive Sfu where
  | named (v : FVal) (flags : Flags)
  | approx (v : FVal) (ulps : Nat) (absol : Option Int)
  deriving DecidableEq, Repr

/-- The nine functions of one operand (R188, R189); `op` is the opcode. -/
def sfuExact (op : Nat) (a : FVal) : Sfu :=
  let one : FVal := .fin false 1 0
  let half : FVal := .fin false 1 (-1)
  match a with
  | .nan => .named .nan 0
  | .inf s =>
    match op with
    | 0x60 => .named (.fin s 0 0) 0
    | 0x61 => if s then .named .nan flagNV else .named (.fin false 0 0) 0
    | 0x62 => if s then .named .nan flagNV else .named (.inf false) 0
    | 0x63 => if s then .named (.fin false 0 0) 0 else .named (.inf false) 0
    | 0x64 => if s then .named .nan flagNV else .named (.inf false) 0
    | 0x67 => .named (.fin s 1 0) 0
    | 0x68 => if s then .named (.fin false 0 0) 0 else .named one 0
    | _ => .named .nan flagNV
  | .fin s m e =>
    if m = 0 then
      match op with
      | 0x60 => .named (.inf s) flagDZ
      | 0x61 => .named (.inf s) flagDZ
      | 0x62 => .named a 0
      | 0x63 => .named one 0
      | 0x64 => .named (.inf true) flagDZ
      | 0x65 => .named a 0
      | 0x66 => .named one 0
      | 0x67 => .named a 0
      | _ => .named half 0
    else
      let int := isInt m e
      let odd : Bool := if 0 ≤ e then (e = 0 && m % 2 = 1) else m / 2 ^ (-e).toNat % 2 = 1
      match op with
      | 0x60 => .approx (FVal.div one a).1 1 none
      | 0x61 =>
        if s then .named .nan flagNV
        else
          let (r, q) := sqrtMag m e
          .approx (FVal.div one (.fin false r q)).1 1 none
      | 0x62 =>
        if s then .named .nan flagNV
        else
          let (r, q) := sqrtMag m e
          .approx (.fin false r q) 0 none
      | 0x63 =>
        let big : Bool := 9 < (log2 m : Int) + e
        let x := if big then (if s then -(1024 : Int) * (2 ^ fxBits : Nat) else 1024 * (2 ^ fxBits : Nat)) else toFx s m e
        if int then .named (.fin false 1 (x / (2 ^ fxBits : Nat))) 0 else .approx (exp2Val x) 2 none
      | 0x64 =>
        if s then .named .nan flagNV
        else if m = 2 ^ log2 m then .named (FVal.ofInt (log2 m + e)) 0
        else
          let near := -1 ≤ (log2 m : Int) + e && (log2 m : Int) + e < 1
          .approx (log2Val m e) 2 (if near then some (-22) else none)
      | 0x65 =>
        if int then .named (.fin s 0 0) 0
        else if isInt m (e + 1) then
          .named (.fin (s != (m / 2 ^ (-e).toNat % 2 = 1)) 1 0) 0
        else
          match sinPiMag m e with
          | .fin n r q => .approx (.fin (s != n) r q) 0 (some (-22))
          | v => .approx v 0 (some (-22))
      | 0x66 =>
        if int then .named (.fin odd 1 0) 0
        else if isInt m (e + 1) then .named (.fin false 0 0) 0
        else
          -- cos (pi x) = sin (pi (x + 1/2)), and x < 2^23 has at most 149 fraction bits
          .approx (match FVal.sum false [.fin false m e, half] with
            | (.fin _ n q, _) => sinPiMag n q
            | (v, _) => v) 0 (some (-22))
      | 0x67 =>
        match tanhMag m e with
        | .fin _ r q => .approx (.fin s r q) 2 none
        | v => .approx v 2 none
      | _ => .approx (sigmVal s m e) 2 none

/-- Whether `|c - v|` is at most `n` units of `2^q`. -/
def within (c v : FVal) (n : Nat) (q : Int) : Bool :=
  match FVal.sum false [c, v.neg] with
  | (.fin _ m e, _) =>
    match FVal.cmp (.fin false m e) (.fin false n q) with
    | some o => o ≤ 0
    | none => false
  | _ => false

/-- The FP32 result of an approximate function: the exact value rounded by RNE and moved by `err` codes, where that
stays inside the bound; else the rounded value (R188). -/
def approxF32 (v : FVal) (ulps : Nat) (absol : Option Int) (err : Int) : Nat :=
  let base := (Fmt.f32.round 1 false v 0).code
  let mag := base % 2 ^ 31
  if Fmt.f32.top < mag then base
  else
    let neg := 2 ^ 31 ≤ base
    let o : Int := (if neg then -(mag : Int) else mag) + err
    let cand := Fmt.f32.signed (if o = 0 then neg else o < 0) o.natAbs
    let q : Int := match v with
      | .fin _ m e => max ((log2 m : Int) + e) (-126) - 23
      | _ => -149
    let ok := o.natAbs ≤ Fmt.f32.top &&
      (match absol with
        | some p => within (Fmt.f32.decode cand) v 1 p
        | none => within (Fmt.f32.decode cand) v ulps q)
    if ok then cand else base

/-- The least exponent of a normal value. -/
def Fmt.emin (f : Fmt) : Int := 1 - f.bias

/-- A value is tiny in a format: not zero, and below its least normal magnitude (R133). -/
def Fmt.tiny (f : Fmt) (v : FVal) : Bool :=
  match v with
  | .fin _ m e => m ≠ 0 && (log2 m : Int) + e < f.emin
  | _ => false

/-- A special function of one operand in a format, SQRT with its mode and saturation (R187-R190). -/
def sfu (op : Nat) (f : Fmt) (mode : RMode) (sat : Bool) (code r : Nat) (err : Int) : Res :=
  match sfuExact op (f.decode code) with
  | .named v fl =>
    let x := f.round (if op = 0x62 then mode else 1) (op = 0x62 && sat) v r
    { x with flags := x.flags ||| fl }
  | .approx v ulps absol =>
    if op = 0x62 then f.round mode sat v r
    else
      let c := approxF32 v ulps absol err
      let x := if f = Fmt.f32 then { code := c, flags := 0, drew := false } else f.narrow 1 false (Fmt.f32.decode c) 0
      let past : Bool := f.hasInf && x.code % 2 ^ (f.mbits + f.ebits) = f.infCode
      { code := x.code
        flags := flagNX ||| (if past then flagOF else 0) ||| (if f.tiny v then flagUF else 0)
        drew := false }

/-- DIVF in a format (R187-R190): the exact quotient rounded once. -/
def divf (f : Fmt) (mode : RMode) (sat : Bool) (a b r : Nat) : Res :=
  let (v, fl) := FVal.div (f.decode a) (f.decode b)
  let x := f.round mode sat v r
  { x with flags := x.flags ||| fl }

end Sys2Proof.Machine
end

