-- ==== Sys2Proof/Machine/Operands.lean ====
section
/-! DEFINITION. The operand forms of format V (R86-R91, R102-R105, R142-R149) and the runner that every format V
instruction goes through: checks at issue, sources, results and tags. -/

namespace Sys2Proof.Machine

/-! ### Source B -/

/-- The operand word of an immediate (R88, R176); `lit` is the literal of R91. -/
def immWord (op ty : Nat) (imm : BitVec 16) (lit : Option Word) : Dword :=
  match lit with
  | some w => if ty = 6 then w.signExtend 64 else w.setWidth 64
  | none =>
    let both : Word := imm ++ imm
    let low : BitVec 8 := imm.setWidth 8
    let sx : Word := imm.signExtend 32
    if floatOp op && op ≠ 0x4C then
      (if ty = 0 then (imm ++ 0#16 : Word) else if ty ≤ 2 then both else imm.setWidth 32 : Word).setWidth 64
    else if op = 0x4C then (if ty = 1 ∨ ty = 2 then both else sx : Word).setWidth 64
    else if ty = 6 then imm.signExtend 64
    else if op < 0x10 then
      (if ty ≤ 1 then sx else if ty ≤ 3 then both else (low ++ low ++ low ++ low : Word) : Word).setWidth 64
    else sx.setWidth 64

/-- The literal of the prefix (R91). -/
def Cx.literal (c : Cx) : Option Word :=
  match c.pfx with
  | some p => if p.lv then some p.lit else none
  | none => none

/-- A codebook bank of the issuing core. -/
def Cx.bank (c : Cx) (b : Nat) : Bank := (c.s.column c.col).banks.getD b Bank.empty

/-- The index of a codebook-expanded source in a lane (R88). -/
def cbIndex (v : VFields) (w : Word) : Nat :=
  if v.cw then w.toNat / 2 ^ (8 * v.sel.toNat) % 256 else w.toNat / 2 ^ (4 * v.sel.toNat) % 16

/-- An entry of a generation; 0 beyond the entries it holds. -/
def Gen.entry (g : Gen) (i : Nat) : Dword := g.entries.getD i 0

/-- Source B in a lane (R88): a pair gives 64 bits. -/
def Cx.srcB (c : Cx) (op : Nat) (v : VFields) (wide : Bool) (l : Nat) : Dword :=
  match v.bk.toNat with
  | 0 =>
    if wide then (c.w.rd (v.b.toNat + 1) l ++ c.w.rd v.b.toNat l : Dword) else (c.w.rd v.b.toNat l).setWidth 64
  | 1 => (c.g.gregs.getD (v.b.toNat % 16) 0).setWidth 64
  | 2 => immWord op v.ty.toNat v.imm16 c.literal
  | _ =>
    let e := (c.bank v.cb.toNat).cur.entry (cbIndex v (c.w.rd v.b.toNat l))
    if wide then e else if v.hi then (e >>> 32) &&& 0xFFFFFFFF#64 else e &&& 0xFFFFFFFF#64

/-- What source B counts as (R103). -/
def Cx.tagB (c : Cx) (v : VFields) (wide : Bool) : Nat :=
  match v.bk.toNat with
  | 0 => if wide then max (c.w.reg v.b.toNat).tag (c.w.reg (v.b.toNat + 1)).tag else (c.w.reg v.b.toNat).tag
  | 3 => if (c.w.reg v.b.toNat).tag = 0 then 0 else 2
  | _ => 0

/-! ### Sources -/

/-- The sources of one lane; a pair gives 64 bits, an unused operand 0. -/
structure VIn where
  lane : Nat
  a : Dword
  b : Dword
  c : Dword
  d : Dword
  e : Dword

/-- A register or pair operand in a lane. -/
def Warp.operand (w : Warp) (u : Use) (r l : Nat) : Dword :=
  match u with
  | .reg => (w.rd r l).setWidth 64
  | .pair => (w.rd (r + 1) l ++ w.rd r l : Dword)
  | _ => 0

/-- The fourth operand's register (R91, R156). -/
def Cx.fourth (c : Cx) : Option Nat :=
  match c.pfx with
  | some p => if p.ev then some p.e.toNat else none
  | none => none

/-- The sources of a lane (R141). -/
def Cx.sources (c : Cx) (op : Nat) (v : VFields) (d : VDesc) (l : Nat) : VIn :=
  { lane := l
    a := c.w.operand d.a v.a.toNat l
    b := if d.b = .none || d.b = .mask then 0 else c.srcB op v (d.b = .pair) l
    c := if d.cDst then 0 else c.w.operand d.c v.c.toNat l
    d := if d.dSrc then c.w.operand d.d v.d.toNat l else 0
    e := match c.fourth with
      | some e => c.w.operand (if d.d = .pair then .pair else .reg) e l
      | none => 0 }

/-- The tag of an operand (R103): the wider of a pair's two; U for one that is no register. -/
def Warp.tagOperand (w : Warp) (u : Use) (r : Nat) : Nat :=
  match u with
  | .reg => (w.reg r).tag
  | .pair => max (w.reg r).tag (w.reg (r + 1)).tag
  | _ => 0

/-- The tags of sources A, B, C, the fourth operand and D where it is read (R103). -/
def Cx.tags (c : Cx) (v : VFields) (d : VDesc) : Nat × Nat × Nat :=
  ( c.w.tagOperand d.a v.a.toNat
  , if d.b = .none || d.b = .mask then 0 else c.tagB v (d.b = .pair)
  , max (if d.cDst then 0 else c.w.tagOperand d.c v.c.toNat)
      (max (if d.dSrc then c.w.tagOperand d.d v.d.toNat else 0)
        (match c.fourth with
          | some e => c.w.tagOperand (if d.d = .pair then .pair else .reg) e
          | none => 0)) )

/-- The tag of a result by R103, rules 2 to 6. -/
def Cx.ruleTag (c : Cx) (op : Nat) (v : VFields) (d : VDesc) : Nat :=
  let (ta, tb, tc) := c.tags v d
  let plain := !c.masked && !c.sat && v.mod = 0
  if ta = 0 && tb = 0 && tc = 0 then 0
  else if (op = 0x00 || op = 0x01) && v.ty.toNat ≤ 1 && ta ≤ 1 && tb ≤ 1 && plain then 1
  else if op = 0x02 && v.ty.toNat ≤ 1 && ta ≤ 1 && tb ≤ 1 && (ta = 0 || tb = 0) && plain then 1
  else if op = 0x15 && v.ty = 0 && ta = 1 && tb = 0 && plain then 1
  else 2

/-- A register with a tag, from its lanes' values; `f` is the lane whose value a U register takes. -/
def mkReg (tag f : Nat) (val : Nat → Word) : Reg :=
  match tag with
  | 0 => .u (val f)
  | 1 => .a (val 0) (val 1 - val 0)
  | _ => .g ((List.range 32).map val)

/-! ### The runner -/

/-- The register ranges that the fields name, with their numbers in R399. -/
def Cx.uses (c : Cx) (v : VFields) (d : VDesc) : List RegUse :=
  let n (u : Use) : Nat := if u = .pair then 2 else 1
  let u (k : Nat) (x : Use) (r : BitVec 8) : List RegUse :=
    if x = .reg || x = .pair then [(k, r.toNat, n x)] else []
  u 0 d.d v.d ++ u 1 d.a v.a ++
    (if v.bk = 0 then u 2 d.b v.b else if v.bk = 3 then [(2, v.b.toNat, 1)] else []) ++
    (if v.bk = 2 then [] else u 3 d.c v.c) ++
    (match c.fourth with
      | some e => [(4, e, n d.d)]
      | none => [])

/-- The mask registers that the fields name, for the scoreboard. -/
def maskUses (op : Nat) (v : VFields) (d : VDesc) : List Nat :=
  (if d.d = .mask then [v.d.toNat] else []) ++ (if d.a = .mask then [v.a.toNat] else []) ++
    (if d.b = .mask then [v.b.toNat] else []) ++
    (if op = 0x06 || op = 0x07 then [v.c.toNat / 8, v.c.toNat % 8] else []) ++
    (if op = 0x22 then [v.sub.toNat % 8] else []) ++ (if op = 0x80 then [v.sub.toNat / 4] else [])

/-- The lanes whose codebook index is beyond the bank's length (R88, R193). -/
def Cx.badIndex (c : Cx) (v : VFields) : Word :=
  if v.bk = 3 then
    maskOf (fun l => c.live.getLsbD l && (c.bank v.cb.toNat).cur.len ≤ cbIndex v (c.w.rd v.b.toNat l))
  else 0

/-- The group's launch has `CB` clear (R438). -/
def Cx.noBanks (c : Cx) : Bool := !recCB c.g.record

/-- The counter that a format V opcode counts on, and whether its results are variable-latency (R84). -/
def vLatency (op : Nat) : Bool × Option Nat :=
  if 0x80 ≤ op then (true, some 2)
  else if op = 0x56 || op = 0x57 then (true, some 2)
  else if 0x60 ≤ op then (true, none)
  else (false, none)

/-- The checks of a format V slot at issue, in this order: held by the scoreboard or its counter, register index,
`CB`, class 6 sources, codebook index.  `some t` is where a failing check leads. -/
def Cx.vChecks (c : Cx) (op : Nat) (v : VFields) (us : List RegUse) (ms : List Nat) : Option State :=
  if c.held us ms (vLatency op).2 then some c.s
  else
    match c.regFault us with
    | some t => some t
    | none =>
      if v.bk = 3 && c.noBanks then some (c.raise 0x11 0 c.live 0 [])
      else
        match c.badSource us with
        | some r => some (c.shape r)
        | none =>
          let bad := c.badIndex v
          if bad = 0 then none
          else some (c.raise 0x20 1 bad 0 [v.cb.setWidth 32, v.b.setWidth 32,
            BitVec.ofNat 32 (v.sel.toNat + if v.cw then 8 else 0)])

/-- The generations that a slot captures at issue (R192). -/
def Cx.captures (c : Cx) (v : VFields) : List Nat :=
  if v.bk = 3 then [(c.bank v.cb.toNat).cur.uid] else []

/-- A format V slot: its checks, then `sem`, which gives the results or the state of a fault of its own. -/
def Cx.issueV (c : Cx) (op : Nat) (v : VFields) (more : List RegUse) (gens : Cx → List Nat)
    (sem : Cx → VDesc → Except State Results) (d : VDesc) : State :=
  match c.vChecks op v (c.uses v d ++ more) (maskUses op v d) with
  | some t => t
  | none =>
    match sem c d with
    | .error t => t
    | .ok r =>
      if (vLatency op).1 then c.variable (vLatency op).2 (c.captures v ++ gens c) r v.y else c.fixed r v.y

/-- A format V instruction. -/
def runV (op : Nat) (v : VFields) (more : List RegUse) (gens : Cx → List Nat)
    (sem : Cx → VDesc → Except State Results) (s : State) : Host.Outcome State Fault Refusal :=
  match cx s, vDesc op v.ty.toNat v.sub.toNat with
  | some c, some d => .next (c.issueV op v more gens sem d)
  | _, _ => .next s

/-- A warp-collective format V instruction (R202). -/
def runVAll (op : Nat) (v : VFields) (more : List RegUse) (sem : Cx → VDesc → Except State Results) (s : State) :
    Host.Outcome State Fault Refusal :=
  match cx s, vDesc op v.ty.toNat v.sub.toNat with
  | some c, some d =>
    match c.gather with
    | .error t => .next t
    | .ok c => .next (c.issueV op v more (fun _ => []) sem d)
  | _, _ => .next s

/-- What an operation gives in one lane: a value (a pair in 64 bits), a mask bit, flags, and the draws it took. -/
structure LOut where
  val : Dword
  bit : Bool
  flags : BitVec 5
  draws : Nat

/-- A plain value. -/
def LOut.of (x : Dword) : LOut := { val := x, bit := false, flags := 0, draws := 0 }

/-- A truth value for a mask destination. -/
def LOut.test (b : Bool) : LOut := { val := 0, bit := b, flags := 0, draws := 0 }

/-- The results of an operation that works lane by lane (R142, R143-R147): with every source U it executes once, on the
uniform unit, and draws from the lowest lane of the PC group (R103, R129). -/
def Cx.lanewise (c : Cx) (op : Nat) (v : VFields) (d : VDesc) (tag : Nat) (f : VIn → Word → LOut) : Results :=
  let gen (l : Nat) : Word := c.w.gens.getD l 0
  let fst := lowest c.live
  let once := tag = 0
  let outs : List LOut := (List.range 32).map (fun l =>
    if once then (if l = fst then f (c.sources op v d l) (gen (lowest c.run.lanes)) else LOut.of 0)
    else if c.live.getLsbD l || (tag = 1 && l ≤ 1) then f (c.sources op v d l) (gen l) else LOut.of 0)
  let out (l : Nat) : LOut := outs.getD (if once then fst else l) (LOut.of 0)
  let lo (l : Nat) : Word := (out l).val.setWidth 32
  let hi (l : Nat) : Word := ((out l).val >>> 32).setWidth 32
  let dr := v.d.toNat
  { regs := match d.d with
      | .reg => [(dr, mkReg tag fst lo)]
      | .pair => [(dr, mkReg tag fst lo), (dr + 1, mkReg tag fst hi)]
      | _ => []
    masks := if d.d = .mask then [(dr, c.live ||| c.zeroed, maskOf (fun l => c.live.getLsbD l && (out l).bit))] else []
    flags := (List.range 32).map (fun l => if c.live.getLsbD l && !v.q then (out l).flags else 0)
    gens := (List.range 32).map (fun l =>
      if once then (if c.run.lanes.getLsbD l then advanceGen (out fst).draws (gen l) else gen l)
      else if c.live.getLsbD l then advanceGen (out l).draws (gen l) else gen l) }

/-- A lane-by-lane format V instruction whose tag follows R103. -/
def runLanes (op : Nat) (v : VFields) (f : Cx → VIn → Word → LOut) (s : State) : Host.Outcome State Fault Refusal :=
  runV op v [] (fun _ => []) (fun c d => .ok (c.lanewise op v d (c.ruleTag op v d) (f c))) s

/-- The same with a tag of the instruction's own, G under a prefix mask (R149). -/
def runTagged (op : Nat) (v : VFields) (tag : Cx → VDesc → Nat) (f : Cx → VIn → Word → LOut) (s : State) :
    Host.Outcome State Fault Refusal :=
  runV op v [] (fun _ => []) (fun c d =>
    .ok (c.lanewise op v d (if c.masked then 2 else tag c d) (f c))) s

end Sys2Proof.Machine
end

