-- ==== Sys2Proof/Machine/IntOps.lean ====
section
/-! DEFINITION. Integer arithmetic, opcodes 0x00 to 0x0F (R150-R154). -/

namespace Sys2Proof.Machine

/-- Element width of an integer type (R87, R115). -/
def elemBits (ty : Nat) : Nat := if ty ≤ 1 then 32 else if ty ≤ 3 then 16 else if ty ≤ 5 then 8 else 64
/-- Number of elements of an integer type. -/
def elemCount (ty : Nat) : Nat := if ty ≤ 1 then 1 else if ty ≤ 3 then 2 else if ty ≤ 5 then 4 else 1
/-- The signed types; `.b64` is unsigned (R150). -/
def elemSigned (ty : Nat) : Bool := ty = 0 || ty = 2 || ty = 4

/-- The integer that `n` bits hold. -/
def intOf (signed : Bool) (n x : Nat) : Int :=
  let m := x % 2 ^ n
  if signed && 2 ^ (n - 1) ≤ m then (m : Int) - (2 ^ n : Nat) else m

/-- Element `e` of an operand. -/
def elemOf (signed : Bool) (n : Nat) (x : Dword) (e : Nat) : Int := intOf signed n (x.toNat / 2 ^ (n * e))

/-- Elements packed, each modulo 2^n (R115). -/
def pack (n : Nat) (xs : List Int) : Dword :=
  BitVec.ofNat 64 (xs.foldr (fun (x : Int) (a : Nat) => a * 2 ^ n + (x % (2 ^ n : Nat)).toNat) 0)

/-- An exact result clamped to the range of a type (R131). -/
def clampInt (signed : Bool) (n : Nat) (x : Int) : Int :=
  let lo : Int := if signed then -(2 ^ (n - 1) : Nat) else 0
  let hi : Int := if signed then ((2 ^ (n - 1) : Nat) : Int) - 1 else ((2 ^ n : Nat) : Int) - 1
  if x < lo then lo else if hi < x then hi else x

/-- An instruction of R151: an exact formula on each element, wrapped or clamped. -/
def elementwise (op : Nat) (v : VFields) (f : Int → Int → Int → Int) (s : State) : Host.Outcome State Fault Refusal :=
  let ty := v.ty.toNat
  let n := elemBits ty
  let sg := elemSigned ty
  runLanes op v (fun c i _ => LOut.of (pack n ((List.range (elemCount ty)).map (fun e =>
    let x := f (elemOf sg n i.a e) (elemOf sg n i.b e) (elemOf sg n i.c e)
    if c.sat then clampInt sg n x else x)))) s

def execIadd (v : VFields) (s : State) : Host.Outcome State Fault Refusal := elementwise 0x00 v (fun a b _ => a + b) s
def execIsub (v : VFields) (s : State) : Host.Outcome State Fault Refusal := elementwise 0x01 v (fun a b _ => a - b) s
def execImul (v : VFields) (s : State) : Host.Outcome State Fault Refusal := elementwise 0x02 v (fun a b _ => a * b) s
def execImulh (v : VFields) (s : State) : Host.Outcome State Fault Refusal :=
  elementwise 0x03 v (fun a b _ => (a * b) / (2 ^ elemBits v.ty.toNat : Nat)) s
def execImad (v : VFields) (s : State) : Host.Outcome State Fault Refusal := elementwise 0x04 v (fun a b c => a * b + c) s

/-- IMADW (R150): the result and C are pairs of the type's signedness. -/
def execImadw (v : VFields) (s : State) : Host.Outcome State Fault Refusal :=
  let sg := elemSigned v.ty.toNat
  runLanes 0x05 v (fun _ i _ =>
    LOut.of (pack 64 [elemOf sg 32 i.a 0 * elemOf sg 32 i.b 0 + elemOf sg 64 i.c 0])) s

/-- The carry masks of IADDC and ISUBB (R152): output, input. -/
def carryOut (v : VFields) : Nat := v.c.toNat / 8 % 8
def carryIn (v : VFields) : Nat := v.c.toNat % 8

/-- IADDC and ISUBB (R152): the carry or borrow goes through a mask register; the tag that the rule states yields to a prefix
with a mask (R149). -/
def carrying (op : Nat) (v : VFields) (f : Int → Int → Int → Int) (s : State) : Host.Outcome State Fault Refusal :=
  runV op v [] (fun _ => []) (fun c d =>
    let cin : Word := if carryIn v = 0 then 0 else c.w.mask (carryIn v)
    let x (i : VIn) : Int :=
      f (elemOf false 32 i.a 0) (elemOf false 32 i.b 0) (if cin.getLsbD i.lane then 1 else 0)
    let tag := if carryIn v = 0 && !c.masked then c.ruleTag op v d else 2
    let r := c.lanewise op v d tag (fun i _ => LOut.of (pack 32 [x i]))
    let out := maskOf (fun l => c.live.getLsbD l &&
      (let y := x (c.sources op v d l); y < 0 || (2 ^ 32 : Nat) ≤ y))
    .ok { r with masks := if carryOut v = 0 then [] else [(carryOut v, c.live ||| c.zeroed, out)] }) s

def execIaddc (v : VFields) (s : State) : Host.Outcome State Fault Refusal := carrying 0x06 v (fun a b k => a + b + k) s
def execIsubb (v : VFields) (s : State) : Host.Outcome State Fault Refusal := carrying 0x07 v (fun a b k => a - b - k) s

def execImin (v : VFields) (s : State) : Host.Outcome State Fault Refusal := elementwise 0x08 v (fun a b _ => min a b) s
def execImax (v : VFields) (s : State) : Host.Outcome State Fault Refusal := elementwise 0x09 v (fun a b _ => max a b) s
def execIabs (v : VFields) (s : State) : Host.Outcome State Fault Refusal :=
  elementwise 0x0A v (fun a _ _ => if a < 0 then -a else a) s

/-- ISAD (R150, R151): one 32-bit sum of absolute differences. -/
def execIsad (v : VFields) (s : State) : Host.Outcome State Fault Refusal :=
  let ty := v.ty.toNat
  runLanes 0x0B v (fun _ i _ => LOut.of (pack 32 [(List.range (elemCount ty)).foldl (fun acc e =>
    acc + (elemOf (elemSigned ty) (elemBits ty) i.a e - elemOf (elemSigned ty) (elemBits ty) i.b e).natAbs)
    (elemOf false 32 i.c 0)])) s

def execIclamp (v : VFields) (s : State) : Host.Outcome State Fault Refusal :=
  elementwise 0x0C v (fun a b c => min (max a b) c) s

/-- IDOT2 and IDOT4 (R153); `SUB` 1 gives B's elements the other signedness. -/
def intDot (op : Nat) (v : VFields) (s : State) : Host.Outcome State Fault Refusal :=
  let ty := v.ty.toNat
  let n := elemBits ty
  let sa := elemSigned ty
  let sb := sa != (v.sub = 1)
  let sr := sa || sb
  runLanes op v (fun c i _ =>
    let x := (List.range (elemCount ty)).foldl (fun acc e => acc + elemOf sa n i.a e * elemOf sb n i.b e)
      (elemOf sr 32 i.c 0)
    LOut.of (pack 32 [if c.sat then clampInt sr 32 x else x])) s

def execIdot2 (v : VFields) (s : State) : Host.Outcome State Fault Refusal := intDot 0x0D v s
def execIdot4 (v : VFields) (s : State) : Host.Outcome State Fault Refusal := intDot 0x0E v s

/-- The conditions of ICMP (R154). -/
def icmpHolds (sub : Nat) (a b : Int) : Bool :=
  match sub with
  | 0 => a = b
  | 1 => a ≠ b
  | 2 => a < b
  | 3 => a ≤ b
  | 4 => b < a
  | _ => b ≤ a

def execIcmp (v : VFields) (s : State) : Host.Outcome State Fault Refusal :=
  let ty := v.ty.toNat
  let sg := elemSigned ty
  let n := elemBits ty
  runLanes 0x0F v (fun _ i _ => LOut.test (icmpHolds v.sub.toNat (elemOf sg n i.a 0) (elemOf sg n i.b 0))) s

end Sys2Proof.Machine
end

