-- ==== Sys2Proof/Machine/Float.lean ====
section
/-! DEFINITION. Floating-point arithmetic, comparison and selection, opcodes 0x40 to 0x52 (R171-R178). -/

namespace Sys2Proof.Machine

/-- The element format of a floating type (R87). -/
def fmtOf (ty : Nat) : Fmt := match ty with
  | 0 => Fmt.f32
  | 1 => Fmt.f16
  | 2 => Fmt.bf16
  | 3 => Fmt.f16
  | _ => Fmt.bf16

/-- Elements of a floating type (R143, R144). -/
def fcount (ty : Nat) : Nat := if ty = 1 ∨ ty = 2 then 2 else 1

/-- `MOD` on a code: absolute value, then negation, of the sign bit alone (R89). -/
def Fmt.modify (f : Fmt) (abs neg : Bool) (code : Nat) : Nat :=
  let top := 2 ^ (f.mbits + f.ebits)
  let x := if abs then code % top else code
  if neg then (if top ≤ x then x - top else x + top) else x

/-- The code of element `e` of an operand. -/
def codeOf (f : Fmt) (x : Dword) (e : Nat) : Nat := x.toNat / 2 ^ (f.width * e) % 2 ^ f.width

/-- Element `e` of source A after `MOD` (bits 6 and 8). -/
def modA (v : VFields) (f : Fmt) (x : Dword) (e : Nat) : Nat := f.modify (v.mod.getLsbD 1) (v.mod.getLsbD 3) (codeOf f x e)
/-- Element `e` of source B after `MOD` (bits 5 and 7). -/
def modB (v : VFields) (f : Fmt) (x : Dword) (e : Nat) : Nat := f.modify (v.mod.getLsbD 0) (v.mod.getLsbD 2) (codeOf f x e)

/-- Elements evaluated in ascending order, each with the next draw (R129): value, flags and draws of the lane. -/
def runElems (width : Nat) (g : Nat → Nat → Res) : List Nat → Word → LOut → LOut
  | [], _, o => o
  | e :: t, gen, o =>
    let x := g e (drawOf gen)
    runElems width g t (if x.drew then nextGen gen else gen)
      { val := o.val ||| (BitVec.ofNat 64 x.code <<< (width * e)), bit := false, flags := o.flags ||| x.flags
        draws := o.draws + if x.drew then 1 else 0 }

/-- An instruction that gives one element of its own type for each element of its sources (R143, R144). -/
def floatOps (op : Nat) (v : VFields) (g : Cx → Fmt → Nat → Nat → Nat → Nat → Res) (s : State) :
    Host.Outcome State Fault Refusal :=
  let f := fmtOf v.ty.toNat
  runLanes op v (fun c i gen =>
    runElems f.width (fun e r => g c f (modA v f i.a e) (modB v f i.b e) (codeOf f i.c e) r)
      (List.range (fcount v.ty.toNat)) gen (LOut.of 0)) s

/-- One rounding of an exact result with the flags of an invalid operation (R126, R131, R171). -/
def Cx.roundTo (c : Cx) (f : Fmt) (x : FVal × Flags) (r : Nat) : Res :=
  let y := f.round c.mode c.sat x.1 r
  { y with flags := y.flags ||| x.2 }

/-- An exact zero sum of unlike signs is -0 under RDN (R113). -/
def Cx.rdn (c : Cx) : Bool := c.mode = 4

/-- A sum with the flags of its terms. -/
def sumOf (rdn : Bool) (ts : List (FVal × Flags)) : FVal × Flags :=
  let x := FVal.sum rdn (ts.map Prod.fst)
  (x.1, ts.foldl (fun a t => a ||| t.2) x.2)

def execFadd (v : VFields) (s : State) : Host.Outcome State Fault Refusal :=
  floatOps 0x40 v (fun c f a b _ r => c.roundTo f (FVal.sum c.rdn [f.decode a, f.decode b]) r) s
def execFsub (v : VFields) (s : State) : Host.Outcome State Fault Refusal :=
  floatOps 0x41 v (fun c f a b _ r => c.roundTo f (FVal.sum c.rdn [f.decode a, (f.decode b).neg]) r) s
def execFmul (v : VFields) (s : State) : Host.Outcome State Fault Refusal :=
  floatOps 0x42 v (fun c f a b _ r => c.roundTo f (FVal.mul (f.decode a) (f.decode b)) r) s
def execFfma (v : VFields) (s : State) : Host.Outcome State Fault Refusal :=
  floatOps 0x43 v (fun c f a b k r =>
    c.roundTo f (sumOf c.rdn [FVal.mul (f.decode a) (f.decode b), (f.decode k, 0)]) r) s

/-- FMIN and FMAX (R173): `prop` for the forms in which a NaN wins; `less a b` chooses `a`. -/
def selectF (f : Fmt) (prop : Bool) (less : FVal → FVal → Bool) (a b : Nat) : Nat :=
  let x := f.decode a
  let y := f.decode b
  if x = .nan then (if prop || y = .nan then f.nanCode else b)
  else if y = .nan then (if prop then f.nanCode else a)
  else if less x y then a else b

def minF (f : Fmt) (a b : Nat) : Nat := selectF f false FVal.below a b
def maxF (f : Fmt) (a b : Nat) : Nat := selectF f false (fun x y => FVal.below y x) a b

/-- A chosen code, which raises no flag. -/
def Res.of (code : Nat) : Res := { code, flags := 0, drew := false }

def execFmin (v : VFields) (s : State) : Host.Outcome State Fault Refusal :=
  floatOps 0x44 v (fun _ f a b _ _ => Res.of (minF f a b)) s
def execFmax (v : VFields) (s : State) : Host.Outcome State Fault Refusal :=
  floatOps 0x45 v (fun _ f a b _ _ => Res.of (maxF f a b)) s
def execFminm (v : VFields) (s : State) : Host.Outcome State Fault Refusal :=
  floatOps 0x46 v (fun _ f a b _ _ => Res.of (selectF f true FVal.below a b)) s
def execFmaxm (v : VFields) (s : State) : Host.Outcome State Fault Refusal :=
  floatOps 0x47 v (fun _ f a b _ _ => Res.of (selectF f true (fun x y => FVal.below y x) a b)) s

/-- The conditions of FCMP on the order of the operands; `none` is unordered (R174). -/
def fcmpHolds (sub : Nat) (o : Option Int) : Bool :=
  match sub, o with
  | 0, some x => x = 0
  | 1, some x => x ≠ 0
  | 1, none => true
  | 2, some x => x < 0
  | 3, some x => x ≤ 0
  | 4, some x => 0 < x
  | 5, some x => 0 ≤ x
  | 6, some _ => true
  | 7, none => true
  | _, _ => false

def execFcmp (v : VFields) (s : State) : Host.Outcome State Fault Refusal :=
  let f := fmtOf v.ty.toNat
  runLanes 0x48 v (fun _ i _ =>
    let o := FVal.cmp (f.decode (modA v f i.a 0)) (f.decode (modB v f i.b 0))
    { LOut.test (fcmpHolds v.sub.toNat o) with
      flags := if o.isNone && 2 ≤ v.sub.toNat && v.sub.toNat ≤ 5 then flagNV else 0 }) s

/-- FRND (R175): an integral value in the same format, with the operand's sign and without NX. -/
def frndElem (f : Fmt) (mode a r : Nat) : Res :=
  match f.decode a with
  | .nan => Res.of f.nanCode
  | .inf _ => Res.of a
  | .fin s m e =>
    if m = 0 ∨ 0 ≤ e then Res.of a
    else
      let (x, _, drew) := roundInt mode s m e r
      { f.round 2 false (.fin s x.natAbs 0) 0 with flags := 0, drew }

def execFrnd (v : VFields) (s : State) : Host.Outcome State Fault Refusal :=
  floatOps 0x49 v (fun c f a _ _ r => frndElem f c.mode a r) s

/-- FFRAC (R175): a - floor(a), rounded toward zero. -/
def ffracElem (f : Fmt) (a : Nat) : Res :=
  match f.decode a with
  | .nan => Res.of f.nanCode
  | .inf _ => { code := f.nanCode, flags := flagNV, drew := false }
  | .fin s m e =>
    if m = 0 ∨ 0 ≤ e then Res.of 0
    else
      let p := 2 ^ (-e).toNat
      let x := m % p
      f.round 2 false (.fin false (if x = 0 then 0 else if s then p - x else x) e) 0

def execFfrac (v : VFields) (s : State) : Host.Outcome State Fault Refusal :=
  floatOps 0x4A v (fun _ f a _ _ _ => ffracElem f a) s

/-- The class field of FCLASS (R177). -/
def fclassElem (f : Fmt) (a : Nat) : Nat :=
  match f.decode a with
  | .nan => 256
  | .inf s => if s then 1 else 128
  | .fin s m _ =>
    let sub := a % 2 ^ (f.mbits + f.ebits) < 2 ^ f.mbits
    if m = 0 then (if s then 8 else 16)
    else if sub then (if s then 4 else 32)
    else (if s then 2 else 64)

def execFclass (v : VFields) (s : State) : Host.Outcome State Fault Refusal :=
  let f := fmtOf v.ty.toNat
  runLanes 0x4B v (fun _ i gen =>
    runElems 16 (fun e _ => Res.of (fclassElem f (modA v f i.a e))) (List.range (fcount v.ty.toNat)) gen (LOut.of 0)) s

/-- FLDEXP (R176): the exact product with a power of two, rounded.  DESIGN CHOICE (log entry 93): under saturation too an infinite
operand is returned as R176 says, without a flag, although R131 would turn an infinite result into the largest finite
value. -/
def execFldexp (v : VFields) (s : State) : Host.Outcome State Fault Refusal :=
  let f := fmtOf v.ty.toNat
  let n := if fcount v.ty.toNat = 2 then 16 else 32
  runLanes 0x4C v (fun c i gen =>
    runElems f.width (fun e r =>
      match f.decode (modA v f i.a e) with
      | .nan => Res.of f.nanCode
      | .inf _ => Res.of (modA v f i.a e)
      | .fin sg m x =>
        if m = 0 then Res.of (modA v f i.a e) else c.roundTo f (.fin sg m (x + elemOf true n i.b e), 0) r)
      (List.range (fcount v.ty.toNat)) gen (LOut.of 0)) s

/-- FEXPO (R176): the unbiased exponent as an integer of `n` bits. -/
def fexpoElem (f : Fmt) (n a : Nat) : Res :=
  match f.decode a with
  | .nan => { code := 2 ^ (n - 1) - 1, flags := flagNV, drew := false }
  | .inf _ => { code := 2 ^ (n - 1) - 1, flags := flagNV, drew := false }
  | .fin _ m e =>
    if m = 0 then { code := 2 ^ (n - 1), flags := flagDZ, drew := false }
    else Res.of (((log2 m : Int) + e) % (2 ^ n : Nat)).toNat

def execFexpo (v : VFields) (s : State) : Host.Outcome State Fault Refusal :=
  let f := fmtOf v.ty.toNat
  let n := if fcount v.ty.toNat = 2 then 16 else 32
  runLanes 0x4D v (fun _ i gen =>
    runElems n (fun e _ => fexpoElem f n (modA v f i.a e)) (List.range (fcount v.ty.toNat)) gen (LOut.of 0)) s

/-- FMANT (R176): the mantissa in [1, 2) with the operand's sign. -/
def fmantElem (f : Fmt) (a : Nat) : Res :=
  match f.decode a with
  | .nan => Res.of f.nanCode
  | .inf _ => { code := f.nanCode, flags := flagNV, drew := false }
  | .fin s m _ => if m = 0 then Res.of a else f.round 1 false (.fin s m (-(log2 m : Int))) 0

def execFmant (v : VFields) (s : State) : Host.Outcome State Fault Refusal :=
  floatOps 0x4E v (fun _ f a _ _ _ => fmantElem f a) s

/-- FDOT2 and FDOT4 (R172): an exact sum with one rounding to FP32. -/
def floatDot (op n : Nat) (v : VFields) (s : State) : Host.Outcome State Fault Refusal :=
  let f := fmtOf v.ty.toNat
  runLanes op v (fun c i gen =>
    let ts := (List.range n).map (fun e => FVal.mul (f.decode (modA v f i.a e)) (f.decode (modB v f i.b e)))
    let x := c.roundTo Fmt.f32 (sumOf c.rdn ((Fmt.f32.decode (codeOf Fmt.f32 i.c 0), 0) :: ts)) (drawOf gen)
    { val := BitVec.ofNat 64 x.code, bit := false, flags := x.flags, draws := if x.drew then 1 else 0 }) s

def execFdot2 (v : VFields) (s : State) : Host.Outcome State Fault Refusal := floatDot 0x4F 2 v s
def execFdot4 (v : VFields) (s : State) : Host.Outcome State Fault Refusal := floatDot 0x50 4 v s

/-- FCPYS (R178). -/
def execFcpys (v : VFields) (s : State) : Host.Outcome State Fault Refusal :=
  floatOps 0x51 v (fun _ f a b _ _ =>
    let top := 2 ^ (f.mbits + f.ebits)
    let sa : Bool := top ≤ a
    let sb : Bool := top ≤ b
    let sg := match v.sub.toNat with
      | 0 => sb
      | 1 => !sb
      | _ => sa != sb
    Res.of (if f.decode a = .nan then f.nanCode else f.signed sg (a % top))) s

/-- FMED3 (R178). -/
def execFmed3 (v : VFields) (s : State) : Host.Outcome State Fault Refusal :=
  floatOps 0x52 v (fun _ f a b k _ => Res.of (maxF f (minF f a b) (minF f (maxF f a b) k))) s

end Sys2Proof.Machine
end

