-- ==== Sys2Proof/Machine/Memory.lean ====
section
/-! DEFINITION. Loads, stores, atomics, FENCE and WAITV, opcodes 0xA0 to 0xA9 (R245-R258, R268-R270). -/

namespace Sys2Proof.Machine

/-- What an access does to the bytes. -/
inductive MKind where
  | load
  | store
  | atomic
  deriving DecidableEq, Repr

/-- An access instruction: opcode, kind, space, bytes and registers of a lane, sign extension, and its fields. -/
structure MOp where
  op : Nat
  kind : MKind
  sp : Nat
  bytes : Nat
  regs : Nat
  sx : Bool
  m : MFields
  deriving DecidableEq, Repr

/-- The access that a format M instruction makes (R249, R253). -/
def mopOf (op : Nat) (m : MFields) : MOp :=
  let sp := m.sp.toNat
  let (n, r) : Nat × Nat :=
    if op = 0xA2 ∨ op = 0xA3 ∨ op = 0xA4 then (widthOf (m.b.toNat % 16)).getD (4, 1)
    else if 0xA5 ≤ op ∧ (m.aty = 2 ∨ m.aty = 3) then (8, 2)
    else (4, 1)
  { op, kind := if op = 0xA1 ∨ op = 0xA4 then .store else if op < 0xA5 then .load else .atomic
    sp, bytes := n, regs := r, sx := (op = 0xA2 || op = 0xA3) && m.b.getLsbD 3, m }

/-- The access returns a value to registers. -/
def MOp.returns (o : MOp) : Bool := o.kind = .load || (o.kind = .atomic && o.m.ret)

/-- The access is an acquire (R234). -/
def MOp.acquires (o : MOp) : Bool := o.kind ≠ .store && o.m.ord.getLsbD 0

/-- The wait counter of an access (R84). -/
def MOp.counter (o : MOp) : Nat := if o.sp = 1 then 2 else if o.returns then 0 else 1

/-- The access of one lane: address, block name in space 011, data words (for CAS the new value, then the expected). -/
structure Job where
  lane : Nat
  addr : Dword
  name : Word
  data : List Word
  deriving DecidableEq, Repr

/-- A cause met at the owner by a lane: its address, code, reason and first detail word. -/
structure Bad where
  lane : Nat
  addr : Dword
  code : Nat
  reason : Nat
  d0 : Word
  deriving DecidableEq, Repr

/-- What the lanes of an access have done so far. -/
structure Perf where
  s : State
  g : Group
  vals : List (Nat × List Word)
  miss : List Job
  bad : List Bad
  remote : List RemoteReq
  stored : List (Site × Bytes)
  acks : List Unack

/-- Words as bytes, `n` of them. -/
def bytesOf (ws : List Word) (n : Nat) : Bytes := ((ws.map wordBytes).flatten).take n

/-- Bytes as the words that a load fills (R249). -/
def loadWords (bs : Bytes) (sx : Bool) : List Word :=
  match bs with
  | [b] => [if sx then b.signExtend 32 else b.setWidth 32]
  | [b, c] => [if sx then ((c ++ b : BitVec 16)).signExtend 32 else ((c ++ b : BitVec 16)).setWidth 32]
  | _ => (List.range (bs.length / 4)).map (fun i => fieldW bs (4 * i))

/-- Elementwise FP addition of an atomic (R254), RNE. -/
def atomFadd (aty old b : Nat) : Nat :=
  let f := if aty = 4 then Fmt.f32 else if aty = 5 then Fmt.f16 else Fmt.bf16
  let add (x y : Nat) : Nat := (f.round 1 false (FVal.sum false [f.decode x, f.decode y]).1 0).code
  if aty = 4 then add old b else add (old % 65536) (b % 65536) + 65536 * add (old / 65536) (b / 65536)

/-- The new value of an atomic (R254), on values of `8 n` bits. -/
def atomNew (aop aty old b : Nat) : Nat :=
  let w := if aty = 2 ∨ aty = 3 then 64 else 32
  let sgn : Bool := aty = 1 || aty = 3
  let lt (x y : Nat) : Bool := intOf sgn w x < intOf sgn w y
  match aop with
  | 0 => (old + b) % 2 ^ w
  | 1 => if lt b old then b else old
  | 2 => if lt old b then b else old
  | 3 => Nat.land old b
  | 4 => Nat.lor old b
  | 5 => Nat.xor old b
  | 6 => b
  | 7 => if b ≤ old then 0 else old + 1
  | 8 => if old = 0 ∨ b < old then b else old - 1
  | _ => atomFadd aty old b

/-- One step of an atomic on the old bytes (R255): the new ones, or none where CAS does not store. -/
def atomStep (o : MOp) (old : Bytes) (data : List Word) : Option Bytes :=
  let x := leNat old
  let b := leNat (bytesOf (data.take o.regs) o.bytes)
  if o.op = 0xA6 then
    (if x = leNat (bytesOf (data.drop o.regs) o.bytes) then some (toBytes o.bytes b) else none)
  else some (toBytes o.bytes (atomNew o.m.aop o.m.aty x b))

/-- The detail of an owner cause: the device column of vault lost (R399). -/
def badOf (s : State) (ctx : Nat) (o : MOp) (j : Job) (code reason : Nat) : Bad :=
  let col : Nat := if o.sp = 2 then vaultCol j.addr
    else match (s.ctx ctx).bind (fun c => c.block? j.name) with
      | some b => (match b.place with | .vault c _ => c | .gddr .. => 0)
      | none => 0
  { lane := j.lane, addr := if code = 0x17 then j.name.setWidth 64 else if code = 0x18 then 0 else j.addr, code, reason
    d0 := if code = 0x18 then BitVec.ofNat 32 col else 0 }

/-- The flits of a request: its data go in flits of 128 bytes, one behind the other. -/
def requestParts : Nat → FlitReq → List FlitReq
  | 0, _ => []
  | k + 1, r =>
    if r.data.length ≤ 128 then [r]
    else { r with data := r.data.take 128, more := true } :: requestParts k { r with data := r.data.drop 128 }

/-- A request of some lanes to a peer (R243, R454, R458).  DESIGN CHOICE (log entry 125): no rule says how a flit carries the
operands of an ATOMU; more than 128 bytes of them go in several flits. -/
def sendJobs (o : MOp) (single : Bool) (fill : Word) (p : Perf) (js : List Job) : Perf :=
  match js with
  | [] => p
  | j :: _ =>
    let tag := p.s.nextTag
    let req : FlitReq :=
      { tag, addr := j.addr, write := o.kind = .store, len := o.bytes
        data := (js.map (fun j => bytesOf (j.data.take o.regs) o.bytes)).flatten
        atom := if o.kind = .atomic then some o.m.off else none
        cas := o.op = 0xA6
        cmp := BitVec.ofNat 64 (leNat (bytesOf (j.data.drop o.regs) o.bytes)) }
    let s := (requestParts 3 req).foldl (fun (s : State) r => s.sendReq p.g j.addr r) { p.s with nextTag := tag + 1 }
    { p with
      s
      remote := p.remote ++ [{ tag, kind := match o.kind with | .load => 0 | .store => 1 | .atomic => 2
                               lanes := js.map Job.lane, bytes := o.bytes, sx := o.sx, single, fill, addr := j.addr, acq := o.acquires }]
      acks := if o.kind = .load then p.acks else p.acks ++ [{ tag, since := s.clock.toNat, flight := none, addr := j.addr }] }

/-- The access of one lane in its memory (R250, R255, R268, R269). -/
def performJob (o : MOp) (single : Bool) (fill : Word) (flight : Nat) (p : Perf) (j : Job) : Perf :=
  match p.s.locate p.g.ctx o.sp j.name j.addr (o.kind ≠ .load) with
  | .error (code, reason) =>
    if code = 0x10 then { p with miss := p.miss ++ [j] }
    else { p with bad := p.bad ++ [badOf p.s p.g.ctx o j code reason] }
  | .ok x =>
    match x with
    | .peer _ => sendJobs o single fill p [j]
    | _ =>
      let far := remoteSite p.g o.sp j.addr x
      let s := p.s.gatherVa p.g o.sp j.addr (o.kind ≠ .load)
      let ack (p : Perf) : Perf := if far then
          { p with s := { p.s with nextTag := p.s.nextTag + 1 }
                   acks := p.acks ++ [{ tag := p.s.nextTag, since := p.s.clock.toNat, flight := some flight, addr := j.addr }] }
        else p
      if o.kind ≠ .store && s.sitePoison p.g x o.bytes then { p with s, bad := p.bad ++ [badOf s p.g.ctx o j 0x12 0] }
      else
        match o.kind with
        | .load => { p with s, vals := p.vals ++ [(j.lane, loadWords (s.siteRead p.g x o.bytes) o.sx)] }
        | .store =>
          let bs := bytesOf j.data o.bytes
          let (s, g) := s.siteWrite p.g x bs
          ack { p with s, g, stored := p.stored ++ [(x, bs)] }
        | .atomic =>
          let old := s.siteRead p.g x o.bytes
          let (s, g) := match atomStep o old j.data with
            | some bs => s.siteWrite p.g x bs
            | none => (s, p.g)
          ack { p with s, g, vals := p.vals ++ [(j.lane, loadWords old false)] }

/-- The accesses of an instruction, lane by lane in ascending order (R218); those of an ATOMU are one access, with one
acknowledgement (R255). -/
def performAll (o : MOp) (single : Bool) (fill : Word) (flight : Nat) (s : State) (g : Group) (js : List Job) : Perf :=
  let p : Perf := { s, g, vals := [], miss := [], bad := [], remote := [], stored := [], acks := [] }
  let p := match js with
    | j :: _ => if o.op = 0xA7 && o.sp = 0 && isPeer j.addr then sendJobs o false fill p js
      else
        let p := js.foldl (performJob o single fill flight) p
        if o.op = 0xA7 then { p with acks := p.acks.take 1 } else p
    | [] => p
  let (s, g) := p.s.siteHeal p.g p.stored
  { p with s, g }

/-- The signed displacement of a format M slot (R91, R218). -/
def Cx.displacement (c : Cx) (m : MFields) : Int :=
  match c.pfx with
  | some p => if p.lv then p.lit.toInt else m.off.toInt
  | none => m.off.toInt

/-- The effective address of a lane (R218), the byte within the block in space 011 (R226). -/
def Cx.eaOf (c : Cx) (m : MFields) (disp : Int) (l : Nat) : Dword :=
  let x : Int := disp + if m.bo then (c.w.rd m.b.toNat l).toInt else 0
  match m.sp.toNat with
  | 0 => (c.w.rd (m.a.toNat + 1) l ++ c.w.rd m.a.toNat l : Dword) + addr64 x
  | 3 => (BitVec.ofInt 32 x).setWidth 64
  | _ => (c.w.rd m.a.toNat l + BitVec.ofInt 32 x).setWidth 64

/-- The registers of a lane as data words. -/
def Warp.words (w : Warp) (r n l : Nat) : List Word := (List.range n).map (fun i => w.rd (r + i) l)

/-- The jobs of an access in the lanes of a slot (R250-R255); helper lanes store nothing (R247). -/
def Cx.jobs (c : Cx) (o : MOp) (single : Bool) : List Job :=
  let ls := (lanesOf c.live).filter (fun l => o.kind = .load || !c.w.help.getLsbD l)
  let disp := if o.kind = .atomic then 0 else c.displacement o.m
  let f := lowest c.live
  let data (l : Nat) : List Word :=
    if o.op = 0xA6 then c.w.words o.m.b.toNat o.regs l ++ c.w.words o.m.d.toNat o.regs l
    else if o.kind = .atomic && o.m.ret then c.w.words o.m.b.toNat o.regs l
    else if o.kind = .load then []
    else c.w.words o.m.d.toNat o.regs l
  let ls := if single && o.kind = .load then (if c.live = 0 then [] else [f]) else ls
  ls.map (fun l =>
    let a := if o.op = 0xA7 then f else l
    { lane := l, addr := c.eaOf o.m disp a, name := c.w.rd o.m.a.toNat a, data := data l })

/-- The register ranges of an access (R245). -/
def MOp.uses (o : MOp) : List RegUse :=
  [(1, o.m.a.toNat, if o.sp = 0 then 2 else 1)] ++ (if o.m.bo then [(2, o.m.b.toNat, 1)] else []) ++
    (if o.kind = .atomic && o.m.ret then [(2, o.m.b.toNat, o.regs)] else []) ++ [(0, o.m.d.toNat, o.regs)]

/-- An access executes once: LDU, ATOMU, and a load whose every source counts as U (R248, R251, R255). -/
def Cx.once (c : Cx) (o : MOp) : Bool :=
  o.op = 0xA2 || o.op = 0xA7 ||
    (o.kind = .load && (c.w.reg o.m.a.toNat).tag = 0 && (o.sp ≠ 0 || (c.w.reg (o.m.a.toNat + 1)).tag = 0) &&
      (!o.m.bo || (c.w.reg o.m.b.toNat).tag = 0))

/-- The first cause at issue of some lanes' accesses, with the lanes that meet it (R218, R220, R224-R227, R241). -/
def Cx.issueFault (c : Cx) (sp n : Nat) (write : Bool) (js : List Job) : Option State :=
  let raise (code : Nat) (p : Job → Bool) (det : List Word) : State :=
    let hit := js.filter p
    c.raise code 0 (maskOf (fun l => hit.any (fun j => j.lane = l))) ((hit.head?.map Job.addr).getD 0) det
  let off (j : Job) : Bool := j.addr.toNat % n ≠ 0
  let cause (j : Job) : Option Nat :=
    match c.s.outside c.g sp j.addr n write with
    | some k => some k
    | none => if sp = 4 then c.s.tileFault c.g c.w j.lane j.addr n else none
  let lock (j : Job) : Option (Nat × Lock) :=
    let b := lockByte c.g sp j.name j.addr
    (c.s.column c.col).conflict c.g.ctx sp b (b + n) write
  if js.any off then some (raise 0x14 off [])
  else
    match js.findSome? cause with
    | some k => some (raise k (fun j => cause j = some k) [])
    | none =>
      match js.findSome? lock with
      | some (i, k) =>
        some (raise 0x15 (fun j => (lock j).isSome) [BitVec.ofNat 32 i, BitVec.ofNat 32 k.op, BitVec.ofNat 32 k.slot])
      | none => none

/-- A scratchpad line that some access reads is absent (R224). -/
def Group.missing (g : Group) (off n : Nat) : Bool := g.absent.any (fun l => off < 128 * (l + 1) && 128 * l < off + n)

/-- Some access parks at a vault or a slice (R231, R233). -/
def Cx.parked (c : Cx) (sp : Nat) (write : Bool) (js : List Job) : Bool :=
  js.any (fun j => match c.s.locate c.g.ctx sp j.name j.addr write with
    | .ok x => c.s.parks x 1
    | .error _ => false)

/-- The writes of some accesses of a group that R243 counts. -/
def State.countedWrites (s : State) (g : Group) (o : MOp) (js : List Job) : Nat :=
  if o.kind = .load then 0
  else ((if o.op = 0xA7 then js.take 1 else js).filter (fun j => match s.locate g.ctx o.sp j.name j.addr true with
    | .ok x => remoteSite g o.sp j.addr x
    | .error _ => false)).length

/-- Those of a slot's accesses. -/
def Cx.counted (c : Cx) (o : MOp) (js : List Job) : Nat := c.s.countedWrites c.g o js

/-- The access of a log entry as format M gives it. -/
def LogEntry.mop (e : LogEntry) : MOp := mopOf (opOf e.slotWord) (MFields.ofWord e.slotWord)

/-- The threads whose accesses a log entry still holds (R269). -/
def LogEntry.threads (e : LogEntry) : Word := if e.single then e.fill else e.pcm

/-- A log entry of a load, store or atomic, and not of a texture, ray or attribute access. -/
def LogEntry.plain (e : LogEntry) : Bool := opOf e.slotWord < 0xA8

/-- The threads of a request that a peer has not answered. -/
def RemoteReq.threads (r : RemoteReq) : Word := if r.single then r.fill else maskOf (fun l => r.lanes.contains l)

/-- Some log entry of the warp satisfies a test. -/
def Warp.anyLog (w : Warp) (p : LogEntry → Bool) : Bool :=
  w.logs.any (fun x => match x with
    | some e => p e
    | none => false)

/-- Some peer has not answered a request of the warp that satisfies a test. -/
def Warp.anyRemote (w : Warp) (p : RemoteReq → Bool) : Bool := w.flights.any (fun f => f.remote.any p)

/-- The token addition of a QSIG that has not performed (R352), by some of the threads, satisfies a test of its address. -/
def Warp.anySignal (w : Warp) (lanes : Word) (p : Dword → Bool) : Bool :=
  w.flights.any (fun f => match f.kind with
    | .signal va _ => f.grp &&& lanes ≠ 0 && p va
    | _ => false)

/-- Some of the threads has an earlier access that has not performed: its replay stands out (R223), a peer's answer, or the
addition of a QSIG. -/
def Warp.owes (w : Warp) (lanes : Word) : Bool :=
  w.anySignal lanes (fun _ => true) || w.anyLog (fun e => e.threads &&& lanes ≠ 0) || w.anyRemote (fun r => r.threads &&& lanes ≠ 0)

/-- Some of the threads has an acquire that has not performed: its later accesses wait (R223). -/
def Warp.owesAcquire (w : Warp) (lanes : Word) : Bool :=
  w.anyLog (fun e => e.plain && e.mop.acquires && e.threads &&& lanes ≠ 0) ||
    w.anyRemote (fun r => r.acq && r.threads &&& lanes ≠ 0)

/-- Some of the threads has a store, an atomic or a signal that waits to perform. -/
def Warp.owesWrite (w : Warp) (lanes : Word) : Bool :=
  w.anySignal lanes (fun _ => true) || w.anyLog (fun e => e.plain && e.mop.kind ≠ .load && e.threads &&& lanes ≠ 0)

/-- An access of some threads waits for an earlier one of the same threads that has not performed: a replay or the addition of a
QSIG of the same bytes (R223, R236), or, where it writes, the replay of a texture, ray or attribute access, whose bytes the log
does not list. -/
def Warp.meets (w : Warp) (o : MOp) (lanes : Word) (addr : Dword) : Bool :=
  w.anySignal lanes (fun va => o.sp = 0 && va.toNat < addr.toNat + o.bytes && addr.toNat < va.toNat + 8) || w.anyLog (fun e =>
    if e.plain then
      o.sp = e.mop.sp && e.lanes.any (fun l => ((if e.single then e.fill else laneBit l.lane) &&& lanes) ≠ 0 &&
        l.addr.toNat < addr.toNat + o.bytes && addr.toNat < l.addr.toNat + e.mop.bytes)
    else o.kind ≠ .load && e.threads &&& lanes ≠ 0)

/-- A release of some threads is held until every earlier access of theirs has performed (R223) and every counted write
of the warp is acknowledged (R243). -/
def Warp.releaseHeld (w : Warp) (lanes : Word) : Bool := w.unack ≠ [] || w.owes lanes

/-- The operand log has no free entry (R270). -/
def Warp.logFull (w : Warp) : Bool := w.logs.all Option.isSome

/-- A cause of an operation as its record has it: a refusal by the fabric is the device's, and names no slot (R398, R459). -/
def Cause.byFabric (k : Cause) (now : Nat) : Cause :=
  if k.code = 0x50 then { k with src := 3, pc := 0, slot := 0, sv := false, op := 0, lanes := 0, grp := 0, issued := now } else k

/-- A cause that an issued operation meets after issue (R397, R398). -/
def Flight.later (f : Flight) (code reason : Nat) (lanes : Word) (addr : Dword) (det : List Word) : Cause :=
  { code, reason, prec := false, src := 0, pc := f.pc, slot := f.slot, sv := true, hdr := false, op := f.op, rslot := 0
    rnext := false, lanes, grp := f.grp, addr, det, issued := f.issued }

/-- A cause that a warp has already is raised no second time. -/
def Warp.addCause (w : Warp) (c : Cause) : Warp :=
  if w.causes.any (fun k => k.code = c.code) then w else { w with causes := w.causes ++ [c] }

/-- A read of a warp's operation that the firmware of another module or the switch has refused is a cause of the warp (R412, R457,
R459). -/
def State.lostRead (s : State) (grp wid flight cause : Nat) (va : Dword) : State :=
  s.updWarp grp wid (fun w =>
    match w.flights.find? (fun f => f.id = flight) with
    | some f => w.addCause ((f.later cause 0 f.grp va []).byFabric s.clock.toNat)
    | none => w)

/-- An owner cause of some lanes after issue (R268, R397, R399): the lowest lane's cause, with the lanes that meet it. -/
def badCause (c : Cx) (bad : List Bad) : List Cause :=
  match bad with
  | [] => []
  | b :: _ =>
    let k := c.cause b.code b.reason (maskOf (fun l => bad.any (fun x => x.lane = l && x.code = b.code))) b.addr
      (if b.code = 0x18 then [b.d0] else [])
    [({ k with prec := false, rslot := 0 } : Cause).byFabric c.s.clock.toNat]

/-- The log entry of the lanes that a translation fault holds, with the address that has none (R269). -/
def Cx.logOf (c : Cx) (js : List (Job × Dword)) (flight : Nat) (single : Bool) : LogEntry :=
  { slotWord := c.run.words.getD c.slot 0
    prefixWord := match c.pfx with | some _ => some (c.run.words.getD (c.slot - 1) 0) | none => none
    pc := c.run.pc, slot := c.slot, pcm := maskOf (fun l => js.any (fun j => j.1.lane = l))
    lanes := js.map (fun j => { lane := j.1.lane, addr := j.1.addr, name := j.1.name, data := j.1.data, miss := j.2 }), flight, single
    fill := c.live }

/-- The faults of some lanes enter the queue, one for each region (R409). -/
def queueLanes (s : State) (g : Group) (w : Warp) (write : Bool) (log : Nat) (js : List Job) : State :=
  js.foldl (fun s j => s.queueFault (faultOf g w 0 (if write then 1 else 0) log j.addr)) s

/-- The registers that the lanes of a slot fill: word `i` of each lane's value; lanes without one keep theirs. -/
def Cx.filled (c : Cx) (d n : Nat) (single : Bool) (vals : List (Nat × List Word)) : List (Nat × Reg) :=
  (List.range n).map (fun i =>
    if single then (d + i, .u ((((vals.head?).map Prod.snd).getD []).getD i 0))
    else (d + i, .g ((List.range 32).map (fun l =>
        match vals.find? (fun v => v.1 = l) with
        | some v => v.2.getD i 0
        | none => c.w.rd (d + i) l))))

/-- The end of a memory slot without a live lane (R247): it accesses nothing and raises no counter; `MZ` zeroes its
registers at once. -/
def Cx.endIdle (c : Cx) (regs : List (Nat × Reg)) (y : Bool) : State :=
  { c with w := c.writeRegs { regs, masks := [], flags := [], gens := c.w.gens } }.finish y

/-- The end of a slot that has accessed memory: results on their way, log entry, faults, causes (R98, R99, R268-R270). -/
def Cx.endAccess (c : Cx) (o : MOp) (single : Bool) (p : Perf) (y : Bool) : State :=
  let id := c.w.nextFlight
  let broken := o.kind = .load && p.bad ≠ []
  let helpers : List (Nat × List Word) :=
    if o.kind = .atomic then (lanesOf (c.live &&& c.w.help)).map (fun l => (l, List.replicate o.regs 0)) else []
  let uniform := single && o.kind = .load
  let c : Cx := { c with s := p.s, g := p.g }
  let regs := if !o.returns || broken then [] else c.filled o.m.d.toNat o.regs uniform (p.vals ++ helpers)
  let dests := c.dests { regs, masks := [], flags := [], gens := c.w.gens }
  let log := c.w.logs.findIdx? Option.isNone
  let log := if p.miss = [] || broken then none else log
  let kind : FlightKind := if o.returns then .result else .store o.m.sco.toNat
  if c.live = 0 then c.endIdle regs y
  else
  let c := c.launchFlight (some o.counter) dests [] kind log p.remote []
  let w := { c.w with
    logs := match log with
      | some i => c.w.logs.set i (some (c.logOf (p.miss.map (fun j => (j, j.addr))) id uniform))
      | none => c.w.logs
    unack := c.w.unack ++ p.acks
    causes := c.w.causes ++ badCause c p.bad }
  let s := { c with w := w }.finish y
  match log with
  | some i => queueLanes s c.g w (o.kind ≠ .load) i p.miss
  | none => s

/-- LD, ST, LDU, LDQ, STQ, ATOM, CAS and ATOMU (R245-R255): held by the scoreboard, the counter, the operand log, an acquire
that has not performed, a replay that it must follow (R223) or the count of R243; the checks at issue; absent lines park; then
the accesses. -/
def runAccess (op : Nat) (m : MFields) (s : State) : Host.Outcome State Fault Refusal :=
  match cx s with
  | none => .next s
  | some c =>
    let o := mopOf op m
    if c.held o.uses [] (some o.counter) || c.w.logFull || c.w.owesAcquire c.live then .next s
    else
      match c.regFault o.uses with
      | some t => .next t
      | none =>
        let single := c.once o
        let tagged : Reg := if single && o.kind = .load then .u 0 else .g []
        let dummy : Results :=
          { regs := if o.returns then (List.range o.regs).map (fun i => (m.d.toNat + i, tagged)) else []
            masks := [], flags := [], gens := [] }
        match c.badResult dummy with
        | some r => .next (c.shape r)
        | none =>
          let js := c.jobs o single
          match c.issueFault o.sp o.bytes (o.kind ≠ .load) js with
          | some t => .next t
          | none =>
            if o.kind = .load && o.sp = 1 && js.any (fun j => c.g.missing j.addr.toNat o.bytes) then
              .next (c.park c.slot .presence)
            else if c.parked o.sp (o.kind ≠ .load) js || 4095 < c.w.unack.length + c.counted o js ||
                (o.kind ≠ .load && m.ord.getLsbD 1 && c.w.releaseHeld c.live) ||
                js.any (fun j => c.w.meets o (if single then c.live else laneBit j.lane) j.addr) then .next s
            else done (c.endAccess o single (performAll o (single && o.kind = .load) c.live c.w.nextFlight c.s c.g js) m.y)

def execLd (m : MFields) (s : State) : Host.Outcome State Fault Refusal := runAccess 0xA0 m s
def execSt (m : MFields) (s : State) : Host.Outcome State Fault Refusal := runAccess 0xA1 m s
def execLdu (m : MFields) (s : State) : Host.Outcome State Fault Refusal := runAccess 0xA2 m s
def execLdq (m : MFields) (s : State) : Host.Outcome State Fault Refusal := runAccess 0xA3 m s
def execStq (m : MFields) (s : State) : Host.Outcome State Fault Refusal := runAccess 0xA4 m s
def execAtom (m : MFields) (s : State) : Host.Outcome State Fault Refusal := runAccess 0xA5 m s
def execCas (m : MFields) (s : State) : Host.Outcome State Fault Refusal := runAccess 0xA6 m s
def execAtomu (m : MFields) (s : State) : Host.Outcome State Fault Refusal := runAccess 0xA7 m s

/-! ### FENCE (R256) -/

/-- A flight is a memory access: loads, atomics and stores of format M, the matrix engine's, the block store's and QSIG's. -/
def Flight.isAccess (f : Flight) : Bool :=
  (0xA0 ≤ f.op && f.op ≤ 0xB2) || f.op = 0xC2 || f.op = 0xC3 || (0xC5 ≤ f.op && f.op ≤ 0xC7) || f.op = 0xEB

/-- A flight reads memory: loads, atomics, CAS, loops, ACCLD and a drain with its biases. -/
def Flight.isRead (f : Flight) : Bool :=
  f.isAccess && (match f.kind with | .store _ => false | .spill .. => false | .signal .. => false | _ => true)

/-- Every earlier access of the warp has performed; a write that R243 counts has performed at no scope before its
acknowledgement. -/
def Warp.performed (w : Warp) : Bool := !w.flights.any Flight.isAccess && w.unack = []

/-- FENCE is held until the condition of its ordering holds (R256); at scope 2 or wider it orders group registers behind
every earlier access (R244). -/
def Warp.fenced (w : Warp) (ord sco : Nat) : Bool :=
  if ord = 1 && sco < 2 then !w.flights.any Flight.isRead else w.performed

def execFence (m : MFields) (s : State) : Host.Outcome State Fault Refusal :=
  match cx s with
  | none => .next s
  | some c => if c.w.fenced m.ord.toNat m.sco.toNat && !c.w.logFull then .next (c.finish m.y) else .next s

/-! ### WAITV (R257, R258) -/

/-- The condition of WAITV on the word and the comparand (R258). -/
def waitHolds (code : Nat) (v c : Word) : Bool :=
  let x := intOf (8 ≤ code : Bool) 32 v.toNat
  let y := intOf (8 ≤ code : Bool) 32 c.toNat
  match code % 8 with
  | 0 => decide (x = y)
  | 1 => decide (x ≠ y)
  | 2 => decide (x < y)
  | 3 => decide (x ≤ y)
  | 4 => decide (y < x)
  | _ => decide (y ≤ x)

/-- What one read of WAITV finds: the condition holds or not, no translation, a cause, or a peer that has to answer. -/
inductive WaitRead where
  | pass (p : Perf)
  | again (p : Perf)
  | miss
  | bad (p : Perf)
  | asked (p : Perf)

/-- What a WAITV reads and compares with, taken at issue: one word at the address of the lowest lane (R257, R97). -/
def Cx.waitOp (c : Cx) (m : MFields) : WaitOp :=
  let f := lowest c.live
  { lane := f, addr := c.eaOf m (c.displacement m) f, cmp := c.w.rd m.d.toNat f, word := c.run.words.getD c.slot 0
    len := c.run.words.length }

/-- The fields of a WAITV. -/
def WaitOp.fields (x : WaitOp) : MFields := MFields.ofWord x.word

/-- The read of a WAITV. -/
def WaitOp.job (x : WaitOp) : Job := { lane := x.lane, addr := x.addr, name := 0, data := [] }

/-- A word that a WAITV reads satisfies it (R258). -/
def WaitOp.holds (x : WaitOp) (v : Word) : Bool := waitHolds x.fields.b.toNat v x.cmp

/-- One read of WAITV (R257). -/
def Cx.waitRead (c : Cx) (x : WaitOp) : WaitRead :=
  let p := performAll { mopOf 0xA0 x.fields with op := 0xA9 } true c.live c.w.nextFlight c.s c.g [x.job]
  if p.miss ≠ [] then .miss
  else if p.bad ≠ [] then .bad p
  else
    match p.vals with
    | (_, ws) :: _ => if x.holds (ws.getD 0 0) then .pass p else .again p
    | [] => .asked p

/-- The warp after a read that did not pass: a cause to deliver, or a request that a peer answers. -/
def Cx.afterWaitRead (c : Cx) (r : WaitRead) : Cx :=
  match r with
  | .bad p => { c with w := { c.w with causes := c.w.causes ++ badCause c p.bad } }
  | .asked p => { c with s := p.s, g := p.g }.launchFlight none [] [] .result none p.remote []
  | .again p => { c with s := p.s, g := p.g }
  | .pass p => { c with s := p.s, g := p.g }
  | .miss => c

/-- WAITV (R257): the group passes at once if the condition holds, and parks otherwise. -/
def execWaitv (m : MFields) (s : State) : Host.Outcome State Fault Refusal :=
  match cx s with
  | none => .next s
  | some c =>
    let us : List RegUse := [(1, m.a.toNat, if m.sp = 0 then 2 else 1), (0, m.d.toNat, 1)]
    if c.w.busy us c.maskUse || c.w.logFull || c.w.owesAcquire c.live then .next s
    else
      match c.regFault us with
      | some t => .next t
      | none =>
        if c.live = 0 then .next (c.finish m.y)
        else
          let x := c.waitOp m
          let j := x.job
          match c.issueFault m.sp.toNat 4 false [j] with
          | some t => .next t
          | none =>
            if m.sp = 1 && c.g.missing j.addr.toNat 4 then .next (c.park c.slot .presence)
            else if c.parked m.sp.toNat false [j] || c.w.meets (mopOf 0xA0 m) (laneBit j.lane) j.addr then .next s
            else
              let r := c.waitRead x
              let c' := (c.afterWaitRead r).yielding m.y
              match r with
              | .pass _ => done (c'.finish false)
              | .miss => done ((c'.park c.slot (.waitv x)).queueFault (faultOf c.g c.w 0 0 0xFF j.addr))
              | _ => done (c'.park c.slot (.waitv x))

end Sys2Proof.Machine
end

