-- ==== Sys2Proof/Machine/Fetch.lean ====
section
/-! DEFINITION. What TEX, TEXG, RAYQ, RAYB and ATTR have in common: operands, results, log entries and causes (R246-R248,
R266-R270). -/

namespace Sys2Proof.Machine

/-- What one lane of such an instruction gives: its words, or the cause and address that it met. -/
abbrev LaneOut := Except (Nat × Dword) (List Word × List (Dword × Nat))

/-- The results of a fetch instruction over its lanes. -/
structure Fetched where
  vals : List (Nat × List Word)
  miss : List (Job × Dword)
  bad : List Bad
  pages : List (Dword × Nat)

/-- The lanes of a fetch in ascending order. -/
def fetchAll (f : Job → LaneOut) (js : List Job) : Fetched :=
  js.foldl (fun r j =>
    match f j with
    | .ok (ws, ps) => { r with vals := r.vals ++ [(j.lane, ws)], pages := r.pages ++ ps }
    | .error (c, va) =>
      if c = 0x10 then { r with miss := r.miss ++ [(j, va)] }
      else { r with bad := r.bad ++ [{ lane := j.lane, addr := va, code := c % 256, reason := c / 256, d0 := 0 }] })
    { vals := [], miss := [], bad := [], pages := [] }

/-- Every page of some reads is gathered by its owner (R222); those of another module go as requests (R454), whose answers
are the free values that the reads took. -/
def State.gatherAll (s : State) (g : Group) (ps : List (Dword × Nat)) : State :=
  ps.foldl (fun s p =>
    if isPeer p.1 then s.requestRead g.ctx (lanternOf g.col) p.1 p.2
    else (pagePieces 64 p.1 p.2).foldl (fun s q => s.gather g.ctx (some g.launch) (lanOf q.1) (offOf q.1) false) s) s

/-- The reads of a slot's lanes, each checked at issue: its address (R220), and against the range-lock table of the core
(R241). -/
def Cx.guarded (c : Cx) (va : Dword) (n : Nat) : Rd Bytes :=
  if badGlobal c.s va then Rd.fail 0x16 va
  else
    match (c.s.column c.col).conflict c.g.ctx 0 va.toNat (va.toNat + n) false with
    | some (i, _) => Rd.fail (lockMet i) va
    | none => c.s.fetch c.g.ctx va n

/-- Some lane's read parks (R233). -/
def Fetched.parks (r : Fetched) : Bool := r.bad.any (fun b => b.code = 0 && b.reason = 2)

/-- A cause that some lanes' reads meet at issue, before any effect: space bounds (0x16) of an address that they compute (R220,
R268), or a range-lock conflict (0x15, R241, R271). -/
def Cx.readFault (c : Cx) (r : Fetched) : Option State :=
  let lanes (bs : List Bad) : Word := maskOf (fun l => bs.any (fun x => x.lane = l))
  let out := r.bad.filter (fun b => b.code = 0x16)
  let bad := r.bad.filter (fun b => b.code = 0x15)
  match out, bad with
  | o :: _, _ => some (c.raise 0x16 0 (lanes out) o.addr [])
  | [], [] => none
  | [], b :: _ =>
    match (c.s.column c.col).locks.getD b.reason none with
    | some k => some (c.raise 0x15 0 (lanes bad) b.addr
        [BitVec.ofNat 32 b.reason, BitVec.ofNat 32 k.op, BitVec.ofNat 32 k.slot])
    | none => none

/-- The end of a fetch slot (R98, R266-R270): `n` registers from `d` on, in lanes that gave fewer words the rest keep
their values. -/
def Cx.endFetch (c : Cx) (d n : Nat) (r : Fetched) (after : State → State) (y : Bool) : State :=
  let id := c.w.nextFlight
  let broken := r.bad ≠ []
  let vals : List (Nat × Reg) := (List.range n).map (fun i =>
    (d + i, .g ((List.range 32).map (fun l =>
      match r.vals.find? (fun v => v.1 = l) with
      | some v => (match v.2[i]? with | some x => x | none => c.w.rd (d + i) l)
      | none => c.w.rd (d + i) l))))
  let vals := if broken then [] else vals
  let dests := c.dests { regs := vals, masks := [], flags := [], gens := c.w.gens }
  let log := if r.miss = [] || broken then none else c.w.logs.findIdx? Option.isNone
  if c.live = 0 then c.endIdle vals y
  else
  let c := c.launchFlight (some 7) dests [] .result log [] []
  let w := { c.w with
    logs := match log with
      | some i => c.w.logs.set i (some (c.logOf r.miss id false))
      | none => c.w.logs
    causes := c.w.causes ++ badCause c (r.bad.map (fun b => { b with reason := 0 })) }
  let s : State := (c.s.gatherAll c.g r.pages).draw.2
  let s := after s
  let s := { c with w := w, s := s }.finish y
  match log with
  | some i => r.miss.foldl (fun s m => s.queueFault (faultOf c.g w 0 0 i m.2)) s
  | none => s

/-- The end of a fetch slot whose reads have met no precise cause, or the slot's wait or fault (R223, R233, R241). -/
def Cx.takeFetch (c : Cx) (d n : Nat) (r : Fetched) (after : State → State) (y : Bool) : State :=
  match c.readFault r with
  | some t => t
  | none => if r.parks then c.s else c.endFetch d n r after y

/-- The checks that every such slot meets first: the scoreboard, the counter, the log, accesses that have not performed and
that it must follow (R223), the budget, tags. -/
def Cx.fetchChecks (c : Cx) (us : List RegUse) (d n : Nat) : Option State :=
  if c.held us [] (some 7) || c.w.logFull || c.w.owesAcquire c.live || c.w.owesWrite c.live then some c.s
  else
    match c.regFault us with
    | some t => some t
    | none =>
      match c.badResult { regs := (List.range n).map (fun i => (d + i, .g [])), masks := [], flags := [], gens := [] } with
      | some r => some (c.shape r)
      | none => none

/-- Bytes of a descriptor or layout in space 001 or 101 (R262, R266). -/
def State.localRead (s : State) (g : Group) (sp : Nat) (ea : Dword) (n : Nat) : Rd Bytes :=
  let x : Site := if sp = 1 then .scr ea.toNat else .const ea.toNat
  if s.sitePoison g x n then Rd.fail 0x12 ea else pure (s.siteRead g x n)

end Sys2Proof.Machine
end

