-- ==== Sys2Proof/Machine/Tex.lean ====
section
/-! DEFINITION. Texture sampling: TEX and TEXG (R262-R264, R391-R395). -/

namespace Sys2Proof.Machine

/-- A texture descriptor (R391). -/
structure Tex where
  base : Dword
  w : Nat
  h : Nat
  d : Nat
  fmt : Nat
  lvls : Nat
  dim : Nat
  magF : Nat
  minF : Nat
  mipF : Nat
  wrapU : Nat
  wrapV : Nat
  wrapR : Nat
  deriving DecidableEq, Repr

/-- The fields of a descriptor (R391). -/
def Tex.ofBytes (b : Bytes) : Tex :=
  let f := field b 0x11 1
  let wr := field b 0x12 1
  { base := fieldD b 0, w := field b 8 2 + 1, h := field b 0xA 2 + 1, d := field b 0xC 2 + 1, fmt := field b 0xE 1
    lvls := field b 0xF 1, dim := field b 0x10 1, magF := f % 4, minF := f / 4 % 4, mipF := f / 16 % 4
    wrapU := wr % 4, wrapV := wr / 4 % 4, wrapR := wr / 16 % 4 }

/-- A reserved code or a non-zero reserved bit, or a limit that is broken (R391, R267). -/
def Tex.bad (t : Tex) (b : Bytes) : Bool :=
  let big := max t.w (max t.h (if t.dim = 2 then t.d else 1))
  bits t.base 57 7 ≠ 0 || t.base.toNat % 4096 ≠ 0 || 9 < t.fmt || t.lvls = 0 || 1 + log2 big < t.lvls || 2 < t.dim ||
    (t.dim = 0 && t.d ≠ 1) || 1 < t.magF || 1 < t.minF || 2 < t.mipF || 64 ≤ field b 0x11 1 || 64 ≤ field b 0x12 1 ||
    !zeroField b 0x13 13

/-- Bytes of a texel, and log2 of the block's width and height (R392). -/
def texelShape (fmt : Nat) : Nat × Nat × Nat :=
  match fmt with
  | 0 => (1, 6, 6)
  | 1 => (2, 6, 5)
  | 4 => (2, 6, 5)
  | 6 => (8, 5, 4)
  | 8 => (8, 5, 4)
  | 9 => (16, 4, 4)
  | _ => (4, 5, 5)

/-- Width, height and slices of a level (R393). -/
def Tex.level (t : Tex) (l : Nat) : Nat × Nat × Nat :=
  (max 1 (t.w / 2 ^ l), max 1 (t.h / 2 ^ l), if t.dim = 2 then max 1 (t.d / 2 ^ l) else if t.dim = 1 then t.d else 1)

/-- Blocks to a row, and blocks of a slice of a level (R393). -/
def Tex.blocks (t : Tex) (l : Nat) : Nat × Nat :=
  let (_, bw, bh) := texelShape t.fmt
  let (w, h, _) := t.level l
  let row := (w + 2 ^ bw - 1) / 2 ^ bw
  (row, row * ((h + 2 ^ bh - 1) / 2 ^ bh))

/-- The place of a texel in its block (R393): the bits of x and y interleaved. -/
def swizzle (bw bh x y : Nat) : Nat :=
  let k := bh
  (List.range k).foldl (fun a i => a + (x / 2 ^ i % 2) * 2 ^ (2 * i) + (y / 2 ^ i % 2) * 2 ^ (2 * i + 1)) 0 +
    (if bw = k + 1 then (x / 2 ^ k % 2) * 2 ^ (2 * k) else 0)

/-- The address of a texel (R393). -/
def Tex.addr (t : Tex) (l s x y : Nat) : Dword :=
  let (size, bw, bh) := texelShape t.fmt
  let before := ((List.range l).map (fun k => (t.blocks k).2 * (t.level k).2.2)).foldl (· + ·) 0
  let (row, per) := t.blocks l
  let block := before + s * per + y / 2 ^ bh * row + x / 2 ^ bw
  t.base + BitVec.ofNat 64 (4096 * block + size * swizzle bw bh (x % 2 ^ bw) (y % 2 ^ bh))

/-- Integer fifth root, one bit at a time. -/
def root5 (n : Nat) : Nat → Nat → Nat
  | 0, acc => acc
  | k + 1, acc =>
    let t := acc + 2 ^ k
    root5 n k (if t * t * t * t * t ≤ n then t else acc)

/-- The colour of an 8-bit sRGB code, IEC 61966-2-1, rounded once (R392): x / 12.92 below the threshold, else
((x + 0.055) / 1.055) ^ 2.4 with x the code over 255. -/
def srgb (c : Nat) : Word :=
  if c ≤ 10 then (Machine.toF32 (FVal.div (FVal.ofInt (c * 100 : Nat)) (FVal.ofInt (255 * 1292 : Nat))).1)
  else
    let n := c * 1000 + 255 * 55
    let d := 255 * 1055
    let x := n ^ 12 * 2 ^ 300
    let y := root5 (x / d ^ 12) 62 0
    toF32 (.fin false (2 * y + (if y ^ 5 * d ^ 12 = x then 0 else 1)) (-61))

/-- A unorm code of 8 bits (R392). -/
def unorm8 (c : Nat) : Word := toF32 (FVal.div (FVal.ofInt (c : Nat)) (FVal.ofInt 255)).1

/-- The four channels of a texel as FP32 words (R392). -/
def channels (fmt : Nat) (b : Bytes) : List Word :=
  let u (i : Nat) : Word := unorm8 (field b i 1)
  let h (i : Nat) : Word := toF32 (Fmt.f16.decode (field b (2 * i) 2))
  let f (i : Nat) : Word := toF32 (f32 (fieldW b (4 * i)))
  match fmt with
  | 0 => [u 0, 0, 0, 0x3F800000#32]
  | 1 => [u 0, u 1, 0, 0x3F800000#32]
  | 2 => [u 0, u 1, u 2, u 3]
  | 3 => [srgb (field b 0 1), srgb (field b 1 1), srgb (field b 2 1), u 3]
  | 4 => [h 0, 0, 0, 0x3F800000#32]
  | 5 => [h 0, h 1, 0, 0x3F800000#32]
  | 6 => [h 0, h 1, h 2, h 3]
  | 7 => [f 0, 0, 0, 0x3F800000#32]
  | 8 => [f 0, f 1, 0, 0x3F800000#32]
  | _ => [f 0, f 1, f 2, f 3]

/-- The texel used on an axis of size `n`, none for a border texel (R394). -/
def wrapTexel (mode : Nat) (n : Nat) (i : Int) : Option Nat :=
  match mode with
  | 0 => some (i % n).toNat
  | 1 =>
    let m := (i % (2 * n : Nat)).toNat
    some (if m < n then m else 2 * n - 1 - m)
  | 2 => some (min (max i 0) (n - 1 : Nat)).toNat
  | _ => if 0 ≤ i ∧ i < n then some i.toNat else none

/-- The floor of a finite value. -/
def floorVal (v : FVal) : Int :=
  match v with
  | .fin s m e => (roundInt 4 s m e 0).1
  | _ => 0

/-- The texels that a coordinate selects on an axis, with the weight of the second in 1/256 (R394, R395); `c` is the
coordinate's word. -/
def axisTexels (linear : Bool) (mode n : Nat) (c : Word) : List (Option Nat × Nat) :=
  match f32 c with
  | .nan => [(none, 256)]
  | .inf neg =>
    let pick (k : Nat) : Option Nat := match mode with
      | 2 => some (if neg then 0 else n - 1)
      | 3 => none
      | _ => some (Config.infTexel c k % n)
    if linear then
      let a := Config.infTexel c 2 % 256
      [(pick 0, 256 - a), (pick 1, a)]
    else [(pick 0, 256)]
  | v =>
    let x := (FVal.mul v (FVal.ofInt (n : Nat))).1
    if linear then
      let y := f32 (toF32 (FVal.sum false [x, .fin true 1 (-1)]).1)
      match y with
      | .fin _ _ _ =>
        let i := floorVal y
        let fr := (FVal.sum false [y, FVal.ofInt (-i)]).1
        let a := (floorVal (FVal.mul fr (FVal.ofInt 256)).1).toNat
        [(wrapTexel mode n i, 256 - a), (wrapTexel mode n (i + 1), a)]
      | _ =>
        -- u times the size is beyond FP32: as an infinite coordinate
        let a := Config.infTexel c 2 % 256
        let pick (k : Nat) : Option Nat := match mode with
          | 2 => some (if y.sign then 0 else n - 1)
          | 3 => none
          | _ => some (Config.infTexel c k % n)
        [(pick 0, 256 - a), (pick 1, a)]
    else [(wrapTexel mode n (floorVal x), 256)]

/-- The array layer (R394): none for a NaN coordinate, whose texels are border texels. -/
def layerOf (d : Nat) (r : Word) : Option Nat :=
  match f32 r with
  | .nan => none
  | .inf neg => some (if neg then 0 else d - 1)
  | v => some (min (max (floorVal (FVal.sum false [v, .fin false 1 (-1)]).1) 0) (d - 1 : Nat)).toNat

/-- The weighted texels of a level: slice, x and y with weights in 1/2^24 (R394, R395). -/
def Tex.taps (t : Tex) (linear : Bool) (l : Nat) (uvr : List Word) : List (Option (Nat × Nat × Nat) × Nat) :=
  let (w, h, d) := t.level l
  let xs := axisTexels linear t.wrapU w (uvr.getD 0 0)
  let ys := axisTexels linear t.wrapV h (uvr.getD 1 0)
  let zs := if t.dim = 2 then axisTexels linear t.wrapR d (uvr.getD 2 0)
    else if t.dim = 1 then [(layerOf d (uvr.getD 2 0), 256)] else [(some 0, 256)]
  (zs.map (fun z => (ys.map (fun y => xs.map (fun x =>
    ((match z.1, x.1, y.1 with
      | some s, some a, some b => some (s, a, b)
      | _, _, _ => none), z.2 * y.2 * x.2)))).flatten)).flatten

/-- The levels that are filtered, each with linear or nearest and its weight in 1/256 (R395); `lam` is clamped. -/
def Tex.levelsOf (t : Tex) (lam : FVal) : List (Nat × Bool × Nat) :=
  let pos := match FVal.cmp lam (.fin false 0 0) with | some o => 0 < o | none => false
  if !pos then [(0, t.magF = 1, 256)]
  else if t.mipF = 0 then [(0, t.minF = 1, 256)]
  else if t.mipF = 1 then
    [(min (floorVal (FVal.sum false [lam, .fin false 1 (-1)]).1).toNat (t.lvls - 1), t.minF = 1, 256)]
  else
    let i := floorVal lam
    let b := (floorVal (FVal.mul (FVal.sum false [lam, FVal.ofInt (-i)]).1 (FVal.ofInt 256)).1).toNat
    [(i.toNat, t.minF = 1, 256 - b), (min (i.toNat + 1) (t.lvls - 1), t.minF = 1, b)]

/-- λ with a NaN read as 0, clamped to the levels (R395). -/
def Tex.clampLod (t : Tex) (lam : Word) : FVal :=
  let top := FVal.ofInt (t.lvls - 1 : Nat)
  match f32 lam with
  | .nan => .fin false 0 0
  | v =>
    match FVal.cmp v (.fin false 0 0), FVal.cmp v top with
    | some a, some b => if a < 0 then .fin false 0 0 else if 0 < b then top else v
    | _, _ => .fin false 0 0

/-- One texture sample: the exact weighted sum of its texels, each channel rounded once (R395). -/
def Tex.sample (t : Tex) (rd : Dword → Nat → Rd Bytes) (uvr : List Word) (lam : Word) : Rd (List Word) := do
  let taps := ((t.levelsOf (t.clampLod lam)).map (fun l =>
    (t.taps l.2.1 l.1 uvr).map (fun x => (l.1, x.1, x.2 * l.2.2)))).flatten
  let vals ← taps.mapM (fun x => do
    match x.2.1 with
    | none => pure ([0, 0, 0, 0], x.2.2)
    | some (s, a, b) =>
      let bs ← rd (t.addr x.1 s a b) (texelShape t.fmt).1
      pure (channels t.fmt bs, x.2.2))
  pure ((List.range 4).map (fun c =>
    toF32 (FVal.sum false (vals.map (fun v => (FVal.mul (f32 (v.1.getD c 0)) (.fin false v.2 (-32))).1))).1))

/-! ### Level of detail (R264, R395) -/

/-- FP32 subtraction by RNE. -/
def subF32 (a b : Word) : Word := toF32 (FVal.sum false [f32 a, (f32 b).neg]).1

/-- The derivatives in x and y of a coordinate of a lane from its quad (R264); `have'` tells the lanes in `live`. -/
def quadDeriv (have' : Nat → Bool) (f : Nat → Word) (l : Nat) : Word × Word :=
  let q := l / 4 * 4
  let i := l % 4
  let diff (a b : Nat) : Option Word := if have' (q + a) && have' (q + b) then some (subF32 (f (q + b)) (f (q + a))) else none
  let row (r : Nat) : Option Word := diff (2 * r) (2 * r + 1)
  let col (c : Nat) : Option Word := diff c (c + 2)
  let pick (a b : Option Word) : Word := match a with | some x => x | none => b.getD 0
  (pick (row (i / 2)) (row (1 - i / 2)), pick (col (i % 2)) (col (1 - i % 2)))

/-- λ from the derivatives of u and v in x and y (R395), the logarithm within the bound of R188. -/
def Tex.lod (t : Tex) (dux dvx duy dvy : Word) : Word :=
  let size (n : Nat) : Word := toF32 (FVal.ofInt (n : Nat))
  let len (du dv : Word) : Word :=
    let a := mulF32 du (size t.w)
    let b := mulF32 dv (size t.h)
    BitVec.ofNat 32 (sfu 0x62 Fmt.f32 1 false (addF32 (mulF32 a a) (mulF32 b b)).toNat 0 0).code
  let x := len dux dvx
  let y := len duy dvy
  let rho : Word := match f32 x, f32 y with
    | .nan, _ => x
    | _, .nan => y
    | p, q => match FVal.cmp p q with | some o => if o < 0 then y else x | none => x
  BitVec.ofNat 32 (sfu 0x64 Fmt.f32 1 false rho.toNat 0 (Config.sfuError 0x64 rho)).code

/-! ### The instructions -/

/-- The descriptor of a job, read in its space (R262, R267). -/
def readTex (s : State) (g : Group) (sp : Nat) (ea : Dword) : Rd Tex := do
  let b ← s.localRead g sp ea 32
  let t := Tex.ofBytes b
  if t.bad b then Rd.fail 0x11 ea else pure t

/-- One lane of TEX or TEXG from its address and its words u, v, r, λ, with the reads of its texels. -/
def texLane (s : State) (g : Group) (rd : Dword → Nat → Rd Bytes) (sp : Nat) (j : Job) : LaneOut :=
  (do
    let t ← readTex s g sp j.addr
    t.sample rd (j.data.take 3) (j.data.getD 3 0) : Rd (List Word)) []

/-- λ of a lane (R263, R395): implicit, biased or explicit for TEX, from the gradients for TEXG. -/
def Cx.texLod (c : Cx) (m : MFields) (grad : Bool) (t : Tex) (l : Nat) : Word :=
  let a := m.a.toNat
  let r (i l : Nat) : Word := c.w.rd (a + i) l
  if grad then t.lod (r 4 l) (r 5 l) (r 6 l) (r 7 l)
  else if m.b = 2 then r 4 l
  else
    let (ux, uy) := quadDeriv c.live.getLsbD (r 1) l
    let (vx, vy) := quadDeriv c.live.getLsbD (r 2) l
    let lam := t.lod ux vx uy vy
    if m.b = 1 then addF32 lam (r 4 l) else lam

/-- TEX and TEXG (R262). -/
def runTex (m : MFields) (grad : Bool) (s : State) : Host.Outcome State Fault Refusal :=
  match cx s with
  | none => .next s
  | some c =>
    let n := if grad then 8 else if m.b = 1 || m.b = 2 then 5 else 4
    match c.fetchChecks [(1, m.a.toNat, n), (0, m.d.toNat, 4)] m.d.toNat 4 with
    | some t => .next t
    | none =>
      let sp := m.sp.toNat
      let disp := c.displacement m
      let js := (lanesOf c.live).map (fun l =>
        let ea : Dword := (c.w.rd m.a.toNat l + BitVec.ofInt 32 disp).setWidth 64
        let lam := match (readTex c.s c.g sp ea : Rd Tex) [] with
          | .ok (t, _) => c.texLod m grad t l
          | .error _ => 0
        ({ lane := l, addr := ea, name := 0, data := [c.w.rd (m.a.toNat + 1) l, c.w.rd (m.a.toNat + 2) l, c.w.rd (m.a.toNat + 3) l, lam] } : Job))
      match c.issueFault sp 32 false js with
      | some t => .next t
      | none =>
        if sp = 1 && js.any (fun j => c.g.missing j.addr.toNat 32) then .next (c.park c.slot .presence)
        else done (c.takeFetch m.d.toNat 4 (fetchAll (texLane c.s c.g c.guarded sp) js) id m.y)

def execTex (m : MFields) (s : State) : Host.Outcome State Fault Refusal := runTex m false s
def execTexg (m : MFields) (s : State) : Host.Outcome State Fault Refusal := runTex m true s

end Sys2Proof.Machine
end

