-- ==== Sys2Proof/Machine/Attr.lean ====
section
/-! DEFINITION. The attribute engine: ATTR (R266, R387-R390). -/

namespace Sys2Proof.Machine

/-- A layout (R387): attributes as byte offset and format, and whether derivatives are delivered. -/
structure Layout where
  attrs : List (Nat × Nat)
  der : Bool
  deriving DecidableEq, Repr

/-- Components of a format, and bytes (R387). -/
def attrComps (f : Nat) : Nat := [1, 2, 3, 4, 2, 4, 4].getD f 0
def attrBytes (f : Nat) : Nat := [4, 8, 12, 16, 4, 8, 4].getD f 0

/-- Registers that ATTR writes under a layout (R388). -/
def Layout.count (l : Layout) : Nat := (2 + (l.attrs.map (fun a => attrComps a.2)).foldl (· + ·) 0) * (if l.der then 3 else 1)

/-- A layout at an address of space 001 or 101; one that breaks R387 is invalid (R267).  DESIGN CHOICE (log entry
115): an address that is not aligned to 16 bytes breaks it, and gives 0x11. -/
def readLayout (s : State) (g : Group) (sp : Nat) (ea : Dword) : Rd Layout := do
  if ea.toNat % 16 ≠ 0 then Rd.fail 0x11 ea
  else
    let h ← s.localRead g sp ea 4
    let n := field h 0 1
    if n = 0 || 16 < n || 1 < field h 1 1 || !zeroField h 2 2 then Rd.fail 0x11 ea
    else
      let b ← s.localRead g sp (ea + 4) (4 * n)
      let ws := wordsAt b 0 n
      if ws.any (fun w => w.toNat / 2 ^ 19 ≠ 0 || w.toNat % 4 ≠ 0 || w.toNat / 2 ^ 16 = 7) then Rd.fail 0x11 ea
      else pure { attrs := ws.map (fun w => (w.toNat % 65536, w.toNat / 65536)), der := field h 1 1 = 1 }

/-- The components of an attribute of a vertex as exact values (R388). -/
def attrVals (f : Nat) (b : Bytes) : List FVal :=
  (List.range (attrComps f)).map (fun i =>
    if f ≤ 3 then f32 (fieldW b (4 * i))
    else if f ≤ 5 then Fmt.f16.decode (field b (2 * i) 2)
    else f32 (unorm8 (field b i 1)))

/-- The components of a vertex under a layout. -/
def readVertex (rd : Dword → Nat → Rd Bytes) (k : Clus) (lay : Layout) (i : Nat) : Rd (List FVal) := do
  let vs ← lay.attrs.mapM (fun a => do
    let base := k.vatt + BitVec.ofNat 64 (k.vstr * i + a.1)
    let ws ← (List.range (attrBytes a.2 / 4)).mapM (fun j => rd (base + BitVec.ofNat 64 (4 * j)) 4)
    pure (attrVals a.2 ws.flatten))
  pure vs.flatten

/-- The barycentrics b1, b2 and their derivatives db1/dx, db1/dy, db2/dx, db2/dy. -/
abbrev Bary := List Word

/-- The barycentrics of a pixel (R389) from its clip vertices (x, y, w), its view rectangle and its pixel. -/
def pixelBary (cs : List Vec3) (vx vy vw vh px py : Nat) : Bary :=
  match cs with
  | [c0, c1, c2] =>
    let q (n d : Int) : Ratio := { n, d := d.toNat }
    let xn := (q (2 * (px : Int) + 1 - 2 * vx) vw).sub Ratio.one
    let yn := Ratio.one.sub (q (2 * (py : Int) + 1 - 2 * vy) vh)
    let dxn := q 2 vw
    let dyn := (q 2 vh).neg
    let a (c : Vec3) : Ratio := c.x.sub (xn.mul c.z)
    let b (c : Vec3) : Ratio := c.y.sub (yn.mul c.z)
    let da (c : Vec3) : Ratio := (dxn.mul c.z).neg
    let db (c : Vec3) : Ratio := (dyn.mul c.z).neg
    -- D of vertex i from the two others, and its derivatives
    let minor (p r : Vec3) : Ratio := ((a p).mul (b r)).sub ((a r).mul (b p))
    let minorX (p r : Vec3) : Ratio := ((da p).mul (b r)).sub ((da r).mul (b p))
    let minorY (p r : Vec3) : Ratio := ((a p).mul (db r)).sub ((a r).mul (db p))
    let tot (f : Vec3 → Vec3 → Ratio) : Ratio := ((f c1 c2).add (f c2 c0)).add (f c0 c1)
    let d := tot minor
    if d.isZero then List.replicate 6 0
    else
      let slope (m dm : Ratio) (f : Vec3 → Vec3 → Ratio) : Word := (((dm.mul d).sub (m.mul (tot f))).div (d.mul d)).toF32
      let m1 := minor c2 c0
      let m2 := minor c0 c1
      [ (m1.div d).toF32, (m2.div d).toF32
      , slope m1 (minorX c2 c0) minorX, slope m1 (minorY c2 c0) minorY
      , slope m2 (minorX c0 c1) minorX, slope m2 (minorY c0 c1) minorY ]
  | _ => List.replicate 6 0

/-- `a / sqrt b` rounded to FP32 and moved by a free error inside a relative 2^-18 (R390). -/
def overRoot (a b : Ratio) (err : Int) : Word :=
  if a.isZero || b.isZero then 0
  else
    let sq := ((a.mul a).div b).toFVal
    let v : FVal := match sq with
      | .fin _ m e => let (r, q) := sqrtMag m e; .fin (a.n < 0) r q
      | x => x
    let base := toF32 v
    let cand := BitVec.ofInt 32 ((base.toNat : Int) + err)
    let dist := (FVal.sum false [f32 cand, v.neg]).1
    let ok : Bool := match dist, v with
      | .fin _ m e, .fin _ n g => (match FVal.cmp (.fin false m e) (.fin false n (g - 18)) with | some o => o ≤ 0 | none => false)
      | _, _ => false
    if ok then cand else base

/-- The derivatives of the barycentrics over the footprint of a hit (R390): the direction, the triangle's vertices and
the width, all exact, in world space. -/
def hitDerivs (d v0 v1 v2 : Vec3) (width : Ratio) (id : Dword) : Bary :=
  let p := v1.sub v0
  let q := v2.sub v0
  let n := p.cross q
  let nd := n.dot d
  if n.isZero || nd.isZero then (List.range 4).map (fun i => Config.hitWeight id (3 + i))
  else
    let f := d.cross n
    let f := if f.isZero then p else f
    let g := d.cross f
    -- a vector moved along d onto the plane
    let onto (m : Vec3) : Vec3 := m.sub (d.scale ((n.dot m).div nd))
    let nn := n.dot n
    let b1 (m : Vec3) : Ratio := ((n.dot (m.cross q)).div nn).mul width
    let b2 (m : Vec3) : Ratio := ((n.dot (p.cross m)).div nn).mul width
    let e (i : Nat) : Int := Config.footprintError (id.toNat * 4 + i)
    [ overRoot (b1 (onto f)) (f.dot f) (e 0), overRoot (b1 (onto g)) (g.dot g) (e 1)
    , overRoot (b2 (onto f)) (f.dot f) (e 2), overRoot (b2 (onto g)) (g.dot g) (e 3) ]

/-- The registers of R388 from the barycentrics and the components of the three vertices. -/
def attrWords (der : Bool) (bs : Bary) (a0 a1 a2 : List FVal) : List Word :=
  let b (i : Nat) : FVal := f32 (bs.getD i 0)
  let mul (x y : FVal) : FVal := (FVal.mul x y).1
  let sum (l : List FVal) : FVal := (FVal.sum false l).1
  let b0 := sum [FVal.ofInt 1, (b 0).neg, (b 1).neg]
  let tri := (a0.zip (a1.zip a2))
  let val (x y z : FVal) : Word := toF32 (sum [mul b0 x, mul (b 0) y, mul (b 1) z])
  let dif (i j : Nat) (x y z : FVal) : Word := toF32 (sum [mul (b i) (sum [y, x.neg]), mul (b j) (sum [z, x.neg])])
  [bs.getD 0 0, bs.getD 1 0] ++ tri.map (fun t => val t.1 t.2.1 t.2.2) ++
    (if der then (bs.drop 2).take 4 ++ (tri.map (fun t => [dif 2 4 t.1 t.2.1 t.2.2, dif 3 5 t.1 t.2.1 t.2.2])).flatten else [])

/-- The cluster and triangle of a record, its layout's limit checked (R387). -/
def recTriangle (rd : Dword → Nat → Rd Bytes) (lay : Layout) (lva : Dword) (i : Inst) (id : Dword) :
    Rd (Clus × Nat × Nat × Nat) := do
  let k ← readClus rd i (idClus id)
  if lay.attrs.any (fun a => k.vstr < a.1 + attrBytes a.2) then Rd.fail 0x11 lva
  else
    match k.tris[idTri id]? with
    | none => Rd.fail 0x11 lva
    | some t => pure (k, t)

/-- One lane of ATTR with a record (R388-R390); a pixel's instance record must be that of its number (R363, R364). -/
def attrRecord (s : State) (ctx : Nat) (rd : Dword → Nat → Rd Bytes) (lay : Layout) (lva : Dword) (r : List Word) :
    Rd (List Word) := do
  let w (i : Nat) : Word := r.getD i 0
  let id : Dword := w 3 ++ w 2
  let hit := w 0 = 0x40000000#32
  let p? := (s.ctx ctx).bind Ctx.pass
  let iva : Dword ← (if hit then pure (w 17 ++ w 16 : Dword)
    else match p? with
      | some p => pure (passInst p.desc + BitVec.ofNat 64 (128 * idInst id))
      | none => Rd.fail 0x11 lva)
  let i ← readInst rd iva
  let _ ← (if !hit && i.iid ≠ idInst id then Rd.fail 0x11 iva else pure ())
  let (k, t) ← recTriangle rd lay lva i id
  let a0 ← readVertex rd k lay t.1
  let a1 ← readVertex rd k lay t.2.1
  let a2 ← readVertex rd k lay t.2.2
  let pos (j : Nat) : Rd (List Word) := do
    let p ← readPos rd k j
    pure (matVec i.o2w 3 (p ++ [oneF]))
  let p0 ← pos t.1
  let p1 ← pos t.2.1
  let p2 ← pos t.2.2
  if hit then
    let ex (j : Nat) : Rd (Option Vec3) := do
      let p ← readPos rd k j
      let row (n : Nat) : Option Ratio := Ratio.ofFVal (FVal.sum false ((((i.o2w.drop (4 * n)).take 4).zip (p ++ [oneF])).map
        (fun x => (FVal.mul (f32 x.1) (f32 x.2)).1))).1
      pure (match row 0, row 1, row 2 with
        | some x, some y, some z => some { x, y, z }
        | _, _, _ => none)
    let v0 ← ex t.1
    let v1 ← ex t.2.1
    let v2 ← ex t.2.2
    let width := (FVal.sum false [f32 (w 14), (FVal.mul (f32 (w 4)) (f32 (w 15))).1]).1
    let ds : Bary := match Vec3.ofWords [w 9, w 10, w 11], v0, v1, v2, Ratio.ofFVal width with
      | some d, some x, some y, some z, some u => hitDerivs d x y z u id
      | _, _, _, _, _ => (List.range 4).map (fun j => Config.hitWeight id (3 + j))
    pure (attrWords lay.der ([w 12, w 13] ++ ds) a0 a1 a2)
  else
    let v := ((p?.map Pass.views).getD []).getD (idView id) []
    let clip (p : List Word) : Option Vec3 :=
      let c := matVec (wordsAt v 0x10 16) 4 (p ++ [oneF])
      Vec3.ofWords [c.getD 0 0, c.getD 1 0, c.getD 3 0]
    let bs : Bary := match clip p0, clip p1, clip p2 with
      | some x, some y, some z =>
        pixelBary [x, y, z] (field v 0 2) (field v 2 2) (field v 4 2) (field v 6 2) ((w 1).toNat % 65536) ((w 1).toNat / 65536)
      | _, _, _ => List.replicate 6 0
    pure (attrWords lay.der bs a0 a1 a2)

/-- One lane of ATTR (R266): 0 in every register of a lane without a record. -/
def attrLane (s : State) (g : Group) (w : Warp) (rd : Dword → Nat → Rd Bytes) (sp : Nat) (j : Job) : LaneOut :=
  (do
    let lay ← readLayout s g sp j.addr
    match w.recs.getD j.lane none with
    | none => pure (List.replicate lay.count 0)
    | some r => attrRecord s g.ctx rd lay j.addr r : Rd (List Word)) []

/-- The layout of a job, where it is valid. -/
def jobLayout (s : State) (g : Group) (sp : Nat) (j : Job) : Option Layout :=
  match (readLayout s g sp j.addr : Rd Layout) [] with
  | .ok (l, _) => some l
  | .error _ => none

/-- Bytes of a layout as far as its count tells (R387). -/
def layoutBytes (s : State) (g : Group) (sp : Nat) (j : Job) : Nat :=
  let x : Site := if sp = 1 then .scr j.addr.toNat else .const j.addr.toNat
  4 + 4 * min 16 (field (s.siteRead g x 1) 0 1)

/-- Register index (0x03) for a range that a lane's layout computes (R72, R266). -/
def Cx.countFault (c : Cx) (d : Nat) (ns : List (Nat × Nat)) : Option State :=
  let past (n : Nat) : Bool := !c.w.inBudget (d + n - 1)
  let bad := ns.filter (fun x => past x.2)
  if bad = [] then none
  else
    let n := (bad.map Prod.snd).foldl max 0
    let r := ((List.range n).find? (fun i => !c.w.inBudget (d + i))).getD 0
    some (c.raise 3 0 (maskOf (fun l => bad.any (fun x => x.1 = l))) 0 [BitVec.ofNat 32 (d + r), 5])

/-- ATTR (R266). -/
def execAttr (m : MFields) (s : State) : Host.Outcome State Fault Refusal :=
  match cx s with
  | none => .next s
  | some c =>
    let d := m.d.toNat
    match c.fetchChecks [(1, m.a.toNat, 1), (0, d, 1)] d 1 with
    | some t => .next t
    | none =>
      let sp := m.sp.toNat
      let disp := c.displacement m
      let js := (lanesOf c.live).map (fun l =>
        ({ lane := l, name := 0, data := []
           addr := (c.w.rd m.a.toNat l + BitVec.ofInt 32 disp).setWidth 64 } : Job))
      match c.issueFault sp 1 false js with
      | some t => .next t
      | none =>
        let missing (n : Job → Nat) : Bool := sp = 1 && js.any (fun j => c.g.missing j.addr.toNat (n j))
        if missing (fun _ => 4) || missing (layoutBytes s c.g sp) then .next (c.park c.slot .presence)
        else
          let whole (j : Job) : Option Nat := c.s.outside c.g sp j.addr (layoutBytes s c.g sp j) false
          let out := js.filter (fun j => (whole j).isSome)
          match out with
          | j :: _ => .next (c.raise 0x16 0 (maskOf (fun l => out.any (fun x => x.lane = l))) j.addr [])
          | [] =>
            let ns := js.filterMap (fun j => (jobLayout c.s c.g sp j).map (fun l => (j.lane, l.count)))
            let n := (ns.map Prod.snd).foldl max 0
            match c.countFault d ns with
            | some t => .next t
            | none =>
              if c.w.busy [(0, d, n)] [] then .next s
              else
                match c.fetchChecks [(0, d, n)] d n with
                | some t => .next t
                | none => done (c.takeFetch d n (fetchAll (attrLane c.s c.g c.w c.guarded sp) js) id m.y)

end Sys2Proof.Machine
end

