-- ==== Sys2Proof/Machine/Control.lean ====
section
/-! DEFINITION. Control instructions, opcodes 0x90 to 0x9E, and the mask stack (R45-R48, R205-R216). -/

namespace Sys2Proof.Machine

/-! ### The mask stack (R46, R207) -/

/-- The innermost entry of a lane: its place in the stack, the entry pushed last first (R207). -/
def Warp.innermost (w : Warp) (l : Nat) : Option Nat := w.stack.findIdx? (fun e => e.members.getLsbD l)

/-- The innermost entry of a kind. -/
def Warp.innermostOf (w : Warp) (kind l : Nat) : Option Nat :=
  w.stack.findIdx? (fun e => e.kind = kind && e.members.getLsbD l)

/-- The one value that a function has on every lane of a mask, if it has one. -/
def common (lanes : Word) (f : Nat → Option Nat) : Option Nat :=
  match lanesOf lanes with
  | [] => none
  | l :: t => if t.all (fun k => f k = f l) then f l else none

/-- Withdrawal (R207): the lanes leave every entry above entry `i`; an entry without members is removed. -/
def Warp.withdraw (w : Warp) (lanes : Word) (i : Nat) : Warp :=
  let above := (w.stack.take i).map (fun e => { e with members := e.members &&& ~~~lanes })
  { w with stack := above.filter (fun e => e.members ≠ 0) ++ w.stack.drop i }

/-- A member of entry `i` has arrived: it is parked there, or has exited (R46, R214). -/
def Warp.arrived (w : Warp) (i l : Nat) : Bool :=
  !w.live.getLsbD l || (w.parked.getLsbD l && w.innermost l = some i)

/-- The first entry whose members have all arrived. -/
def Warp.complete (w : Warp) : Option Nat :=
  (List.range w.stack.length).find? (fun i =>
    match w.stack[i]? with
    | some e => (lanesOf e.members).all (w.arrived i)
    | none => false)

/-- Pops (R207): each complete entry is removed and its parked threads leave their park; the lowest of them, if any, is
given back with the warp.  DESIGN CHOICE (log entry 114): of two entries that one EXIT completes the older one, popped last, gives
the group that becomes current. -/
def Warp.settle : Nat → Warp → Option Nat → Warp × Option Nat
  | 0, w, l => (w, l)
  | n + 1, w, l =>
    match w.complete with
    | none => (w, l)
    | some i =>
      match w.stack[i]? with
      | none => (w, l)
      | some e =>
        let freed := e.members &&& w.live
        Warp.settle n { w with stack := w.stack.eraseIdx i, parked := w.parked &&& ~~~freed }
          (if freed = 0 then l else some (lowest freed))

/-! ### The current PC group (R47) -/

/-- The next current PC group after one at `old`: the eligible group with the lowest PC above it, else with the lowest. -/
def Warp.nextGroup (w : Warp) (old : Dword) : Option Nat :=
  let rs := w.readyGroups
  let least (ls : List Nat) : Option Nat :=
    ls.foldl (fun b l => match b with | none => some l | some k => if w.pcOf l < w.pcOf k then some l else b) none
  match least (rs.filter (fun l => old < w.pcOf l)) with
  | some l => some l
  | none => least rs

/-- A new current PC group, with the fairness count at 0 (R48). -/
def Warp.turnTo (w : Warp) (l : Option Nat) : Warp := { w with cur := l, fair := 0 }

/-- The warp after a control instruction has moved the lanes of the PC group that stood at `old`: complete entries pop,
and the current PC group follows R47; with no eligible group, the next choice still starts from `old`. -/
def Warp.regroup (w : Warp) (lanes : Word) (old : Dword) : Warp :=
  let (w, popped) := Warp.settle 33 w none
  let rest := lanes &&& w.live &&& ~~~w.parked
  match popped with
  | some l => w.turnTo (some (lowest (w.groupOf l)))
  | none =>
    if rest ≠ 0 ∧ (lanesOf rest).all (fun l => w.pcOf l = w.pcOf (lowest rest)) then
      { w with cur := some (lowest (w.groupOf (lowest rest))) }
    else
      match w.nextGroup old with
      | some l => w.turnTo (some l)
      | none => { w with cur := none, curPc := old }

/-! ### The slot -/

/-- Lanes sent to a PC by the slot. -/
def Cx.send (c : Cx) (w : Warp) (lanes : Word) (pc : Dword) : Warp :=
  let w := w.moveTo lanes pc
  { w with came := (List.range 32).map (fun l =>
      if lanes.getLsbD l then some (c.run.pc, c.slot, opOf (c.run.words.getD c.slot 0)) else w.came.getD l none) }

/-- Lanes parked at a reconvergence PC. -/
def Cx.parkAt (c : Cx) (w : Warp) (lanes : Word) (pc : Dword) : Warp :=
  let w := c.send w lanes pc
  { w with parked := w.parked ||| lanes }

/-- The clause ends with the slot; the warp is as the slot leaves it. -/
def Cx.leave (c : Cx) (w : Warp) : State := { c with w := w.regroup c.run.lanes c.run.pc }.commit none

/-- The direct target (R93). -/
def Cx.target (c : Cx) (k : KFields) : Dword := codeAddr (c.run.pc + 8#64 * k.tgt.signExtend 64)

/-- The lanes of the PC group whose condition holds (R205). -/
def Cx.taken (c : Cx) (k : KFields) : Word :=
  if k.m = 0 then c.run.lanes
  else c.run.lanes &&& (if k.neg then ~~~(c.w.mask k.m.toNat) else c.w.mask k.m.toNat)

/-- Mask-stack (0x06) with its reason (R207, R399). -/
def Cx.badStack (c : Cx) (reason : Nat) : State := c.raise 6 reason c.run.lanes 0 [BitVec.ofNat 32 c.w.stack.length]

/-- A push (R46, R207): none at depth 32. -/
def Cx.push (c : Cx) (kind : Nat) (rpc : Option Dword) : Option Warp :=
  if 32 ≤ c.w.stack.length then none
  else some { c.w with stack := { kind, rpc, members := c.run.lanes } :: c.w.stack }

/-- A control instruction: held while its mask or its registers are pending (R98), then its effect with its yield.  In a clause
of class 6 a source with tag G raises shape (R80), before the instruction's own checks (log entry 89). -/
def runK (k : KFields) (regs : List Nat) (sem : Cx → State) (s : State) : Host.Outcome State Fault Refusal :=
  match cx s with
  | none => .next s
  | some c =>
    let us : List RegUse := regs.map (fun r => (1, r, 1))
    if c.w.busy us (if k.m = 0 then [] else [k.m.toNat]) then .next s
    else
      match c.regFault us with
      | some t => .next t
      | none =>
        match c.badSource us with
        | some r => .next (c.shape r)
        | none => .next (sem (c.yielding k.y))

/-- IF (R208). -/
def execIfCond (k : KFields) (s : State) : Host.Outcome State Fault Refusal :=
  runK k [] (fun c =>
    match c.push 1 none with
    | none => c.badStack 1
    | some w =>
      let t := c.taken k
      c.leave (c.send (w.moveTo t c.after) (c.run.lanes &&& ~~~t) (c.target k))) s

/-- ELSE and ENDIF (R208): the innermost entry's reconvergence PC is fixed or checked, and the lanes park there. -/
def Cx.join (c : Cx) (pc : Dword) : State :=
  match common c.run.lanes c.w.innermost with
  | none => c.badStack 2
  | some i =>
    match c.w.stack[i]? with
    | none => c.badStack 2
    | some e =>
      if e.kind ≠ 1 then c.badStack 2
      else if e.rpc ≠ none ∧ e.rpc ≠ some pc then c.badStack 3
      else c.leave (c.parkAt { c.w with stack := c.w.stack.set i { e with rpc := some pc } } c.run.lanes pc)

def execElseJoin (k : KFields) (s : State) : Host.Outcome State Fault Refusal := runK k [] (fun c => c.join (c.target k)) s
def execEndif (k : KFields) (s : State) : Host.Outcome State Fault Refusal := runK k [] (fun c => c.join c.after) s

/-- LOOP (R209). -/
def execLoop (k : KFields) (s : State) : Host.Outcome State Fault Refusal :=
  runK k [] (fun c =>
    match c.push 2 (some (c.target k)) with
    | none => c.badStack 1
    | some w => c.leave (w.moveTo c.run.lanes c.after)) s

/-- ENDLOOP (R209). -/
def execEndloop (k : KFields) (s : State) : Host.Outcome State Fault Refusal :=
  runK k [] (fun c =>
    match common c.run.lanes c.w.innermost with
    | none => c.badStack 2
    | some i =>
      match c.w.stack[i]? with
      | none => c.badStack 2
      | some e =>
        if e.kind ≠ 2 then c.badStack 2
        else
          let t := c.taken k
          c.leave (c.parkAt (c.send c.w t (c.target k)) (c.run.lanes &&& ~~~t) (e.rpc.getD 0))) s

/-- The innermost kind-2 entry of a lane, with no kind-3 entry met before it (R209). -/
def Warp.loopEntry (w : Warp) (l : Nat) : Option Nat :=
  match w.stack.findIdx? (fun e => e.kind ≠ 1 && e.members.getLsbD l) with
  | some i => if (w.stack[i]?.map StackEntry.kind) = some 2 then some i else none
  | none => none

/-- BRK (R209): the lanes with the condition withdraw from the entries above the loop's and park at its exit. -/
def execBrk (k : KFields) (s : State) : Host.Outcome State Fault Refusal :=
  runK k [] (fun c =>
    match common c.run.lanes c.w.loopEntry with
    | none => c.badStack 2
    | some i =>
      match c.w.stack[i]? with
      | none => c.badStack 2
      | some e =>
        let t := c.taken k
        let w := (c.w.moveTo (c.run.lanes &&& ~~~t) c.after).withdraw t i
        c.leave (c.parkAt w t (e.rpc.getD 0))) s

/-- CONT (R209). -/
def execCont (k : KFields) (s : State) : Host.Outcome State Fault Refusal :=
  runK k [] (fun c =>
    let t := c.taken k
    c.leave (c.send (c.w.moveTo (c.run.lanes &&& ~~~t) c.after) t (c.target k))) s

/-- JMP (R210). -/
def execJmp (k : KFields) (s : State) : Host.Outcome State Fault Refusal :=
  runK k [] (fun c => c.leave (c.send c.w c.run.lanes (c.target k))) s

/-- JMPU (R210): its condition register must carry tag U. -/
def execJmpu (k : KFields) (s : State) : Host.Outcome State Fault Refusal :=
  runK k [k.a.toNat] (fun c =>
    match c.w.reg k.a.toNat with
    | .u x =>
      c.leave (if (x ≠ 0) != k.neg then c.send c.w c.run.lanes (c.target k) else c.w.moveTo c.run.lanes c.after)
    | _ => c.raise 7 0 c.run.lanes 0 [k.a.setWidth 32]) s

/-- What a target word is for the checks of R211 and R212: no fetch, no entry, or an entry with its budget. -/
inductive CallTarget where
  | absent
  | faulty (cause : Nat)
  | noEntry
  | entry (budget : Nat)
  deriving DecidableEq, Repr

/-- The target word of a call, fetched as an instruction (R211). -/
def Cx.callTarget (c : Cx) (pc : Dword) : CallTarget :=
  match c.s.fetchWord c.g.ctx pc with
  | .error e => if e = 0x10 then .absent else .faulty e
  | .ok h => if isHeader h && isEntry h then .entry (budgetOf h + 1) else .noEntry

/-- CALL (R211). -/
def execCall (k : KFields) (s : State) : Host.Outcome State Fault Refusal :=
  runK k [] (fun c =>
    match c.push 3 (some c.after) with
    | none => c.badStack 1
    | some w =>
      let pc := c.target k
      match c.callTarget pc with
      | .absent => c.parkFetch pc
      | .faulty e => c.raise e 0 c.run.lanes pc []
      | .noEntry => c.raise 8 0 c.run.lanes pc []
      | .entry b =>
        if c.w.ng < b then c.raise 4 0 c.run.lanes pc [BitVec.ofNat 32 b, BitVec.ofNat 32 c.w.ng]
        else c.leave (c.send w c.run.lanes pc)) s

/-- The least address of some lanes, and the lanes that hold one of a list. -/
def leastOf (f : Nat → Dword) (ls : List Nat) : Dword :=
  ls.foldl (fun b l => if f l < b then f l else b) (f (ls.headD 0))

/-- CALLI (R212). -/
def execCalli (k : KFields) (s : State) : Host.Outcome State Fault Refusal :=
  runK k [k.a.toNat, k.a.toNat + 1] (fun c =>
    match c.push 3 (some c.after) with
    | none => c.badStack 1
    | some w =>
      let ls := lanesOf c.run.lanes
      let t (l : Nat) : Dword := c.w.rd (k.a.toNat + 1) l ++ c.w.rd k.a.toNat l
      let odd := ls.filter (fun l => bits (t l) 0 3 ≠ 0 || bits (t l) 57 7 ≠ 0)
      let fetched := ls.map (fun l => (l, c.callTarget (t l)))
      let sel (p : CallTarget → Bool) : List Nat := (fetched.filter (fun x => p x.2)).map Prod.fst
      let mask (xs : List Nat) : Word := maskOf (fun l => xs.contains l)
      if odd ≠ [] then c.raise 0x14 0 (mask odd) (t (odd.headD 0)) []
      else
        match fetched.find? (fun x => x.2 = .absent) with
        | some x => c.parkFetch (t x.1)
        | none =>
          match fetched.find? (fun x => match x.2 with | .faulty _ => true | _ => false) with
          | some (l, .faulty e) => c.raise e 0 (laneBit l) (t l) []
          | _ =>
            let bad := sel (fun x => x = .noEntry)
            if bad ≠ [] then c.raise 8 0 (mask bad) (leastOf t bad) []
            else
              let past := sel (fun x => match x with | .entry b => c.w.ng < b | _ => false)
              if past ≠ [] then
                let pc := leastOf t past
                let b := match c.callTarget pc with | .entry b => b | _ => 0
                c.raise 4 0 (mask (past.filter (fun l => t l = pc))) pc [BitVec.ofNat 32 b, BitVec.ofNat 32 c.w.ng]
              else
                let w := ls.foldl (fun w l => c.send w (laneBit l) (t l)) w
                let pc := leastOf t ls
                { c with w := w.turnTo (some (lowest (w.groupOf ((ls.find? (fun l => t l = pc)).getD 0)))) }.commit none) s

/-- EXIT (R74, R214): in the trap handler it retires every live thread of the warp (R404). -/
def Cx.exitThreads (c : Cx) : State :=
  c.leave { c.w with live := if c.w.mode = .handler then 0 else c.w.live &&& ~~~c.run.lanes }

/-- RET (R213): as EXIT for lanes that belong to no kind-3 entry. -/
def execRet (k : KFields) (s : State) : Host.Outcome State Fault Refusal :=
  runK k [] (fun c =>
    let ls := lanesOf c.run.lanes
    if ls.all (fun l => c.w.innermostOf 3 l = none) then c.exitThreads
    else
      match common c.run.lanes (c.w.innermostOf 3) with
      | none => c.badStack 2
      | some i =>
        match c.w.stack[i]? with
        | none => c.badStack 2
        | some e => c.leave (c.parkAt (c.w.withdraw c.run.lanes i) c.run.lanes (e.rpc.getD 0))) s

def execExit (k : KFields) (s : State) : Host.Outcome State Fault Refusal := runK k [] Cx.exitThreads s

/-- SETBND (R215). -/
def execSetbnd (k : KFields) (s : State) : Host.Outcome State Fault Refusal :=
  runK k (if k.tgt = 0 then [k.a.toNat] else []) (fun c =>
    let set (n : Nat) : State := { c with w := { c.w with bundle := BitVec.ofNat 32 n } }.finish false
    if k.tgt ≠ 0 then set k.tgt.toNat
    else
      match c.w.reg k.a.toNat with
      | .u x =>
        if x = 2 then set 1 else if x = 4 then set 2 else if x = 8 then set 3 else if x = 16 then set 4
        else if x = 32 then set 5 else c.raise 1 8 c.run.lanes 0 [x]
      | _ => c.shape k.a.toNat) s

/-- NOP (R216). -/
def execNop (k : KFields) (s : State) : Host.Outcome State Fault Refusal := runK k [] (fun c => c.finish false) s

end Sys2Proof.Machine
end

