-- ==== Sys2Proof/Machine/Levels.lean ====
section
/-! DEFINITION. Launch levels (R53-R57). -/

namespace Sys2Proof.Machine

/-- Level word i of a launch record (R53). -/
def recLvl (r : Bytes) (i : Nat) : Word := fieldW r (0x20 + 4 * i)
/-- `V`. -/
def lvlV (w : Word) : Bool := w.getLsbD 31
/-- `DOM`. -/
def lvlDom (w : Word) : Nat := w.toNat / 2 ^ 28 % 8
/-- `SCO`. -/
def lvlSco (w : Word) : Nat := w.toNat / 2 ^ 25 % 8
/-- `CO`. -/
def lvlCo (w : Word) : Bool := w.getLsbD 24
/-- The extent. -/
def lvlExt (w : Word) : Nat := w.toNat % 2 ^ 24 + 1

/-- Number of valid levels. -/
def recLevels (r : Bytes) : Nat := (List.range 8).countP (fun i => lvlV (recLvl r i))

/-- `T_i`: threads per item of level i (R54). -/
def recT (r : Bytes) (i : Nat) : Nat := (List.range (i + 1)).foldl (fun a k => a * lvlExt (recLvl r k)) 1

/-- `sr.lvl[i]` of thread t (R57). -/
def levelIndex (r : Bytes) (i t : Nat) : Word :=
  let n := recLevels r
  if i + 1 < n then BitVec.ofNat 32 (t / recT r i % lvlExt (recLvl r (i + 1)))
  else if i + 1 = n then BitVec.ofNat 32 (t / recT r i)
  else 0

/-- Log2 of the initial bundle width of a launch (R57). -/
def recBundle (r : Bytes) : Word :=
  let ts := ((List.range (recLevels r)).filter (fun i => lvlDom (recLvl r i) = 0)).map (recT r)
  match ts.max? with
  | some t => if t = 2 then 1 else if t = 4 then 2 else if t = 8 then 3 else if t = 16 then 4 else 5
  | none => 5

/-- `sr.lvl[i]` can differ among the lanes of a warp of a group (R357). -/
def levelVaries (r : Bytes) (lit : Bool) (i : Nat) : Bool :=
  if lit then i = 0 || i = 3 else i < recLevels r && recT r i < 32

end Sys2Proof.Machine
end

