-- ==== Sys2Proof/Machine/Barrier.lean ====
section
/-! DEFINITION. Hardware barriers: phases, waits and their ends (R338-R341). -/

namespace Sys2Proof.Machine

/-- The slots of the clause in which a wait ends behind its slot; a clause has at most 16 (R78). -/
def Wait.len : Wait → Nat
  | .bar _ _ n => n
  | .harvest _ n => n
  | .sleep _ n => n
  | _ => 16

/-- Where a thread stands when its wait ends: at its resume slot, or at the clause behind its own when no slot is left. -/
def Wait.standsAt (x : Wait) (pc : Dword) (k : Nat) : Dword × Nat := if k < x.len then (pc, k) else (nextClause pc x.len, 0)

/-- PCs, resume slots and waits of 32 threads of which some wait no longer. -/
def wakeAll (p : Wait → Bool) (pcs : List Dword) (rsl : List Nat) (wait : List Wait) : List Dword × List Nat × List Wait :=
  let at' (l : Nat) : Dword × Nat :=
    let x := wait.getD l .none
    if p x then x.standsAt (pcs.getD l 0) (rsl.getD l 0) else (pcs.getD l 0, rsl.getD l 0)
  ((List.range 32).map (fun l => (at' l).1), (List.range 32).map (fun l => (at' l).2), wait.map (fun x => if p x then .none else x))

/-- A warp of which some threads wait no longer. -/
def Warp.wake (w : Warp) (p : Wait → Bool) : Warp :=
  if w.wait.any p then
    let r := wakeAll p w.pcs w.rsl w.wait
    { w with pcs := r.1, rsl := r.2.1, wait := r.2.2 }
  else w

/-- The lanes of a group that wait for some reason become eligible: they issue their slot again, or go on behind it; those of a
handler frame wait no longer when it comes back. -/
def Group.wake (g : Group) (p : Wait → Bool) : Group :=
  { g with warps := g.warps.map (fun w =>
      { w.wake p with hframe := w.hframe.map (fun f =>
          let r := wakeAll p f.pcs f.rsl f.wait
          { f with pcs := r.1, rsl := r.2.1, wait := r.2.2 }) }) }

/-- A barrier as placement sets it (R338). -/
def Barrier.zero : Barrier := { ph := 0, exp := 0, arr := 0, t0 := 0, auto := false, arrivals := [] }

/-- Barrier `id` of a group. -/
def Group.bar (g : Group) (id : Nat) : Barrier := g.bars.getD id Barrier.zero

/-- Barrier `id` replaced. -/
def Group.setBar (g : Group) (id : Nat) (b : Barrier) : Group := { g with bars := putAt Barrier.zero g.bars id b }

/-- Phase `v` of a barrier whose open phase is `ph` has completed (R341). -/
def phasePassed (ph v : Word) : Bool := 1 ≤ (ph - v).toNat && (ph - v).toNat ≤ 2 ^ 31

/-- The open phase of a barrier completes, if it can (R340): its waits end. -/
def Group.phase (g : Group) (id : Nat) : Group :=
  let b := g.bar id
  if b.exp ≠ 0 && b.arr = b.exp && g.ops.all (fun o => o.parked = []) then
    let ph := b.ph + 1
    (g.setBar id { Barrier.zero with ph }).wake (fun x =>
      match x with
      | .bar i v _ => i = id && phasePassed ph v
      | .barw i v => i = id && phasePassed ph v
      | _ => false)
  else g

/-- Every barrier whose open phase can complete does so. -/
def Group.phases (g : Group) : Group := (List.range 16).foldl Group.phase g

/-- An arrival that names `n` (R339): none when it names another count than the open phase expects. -/
def Barrier.arrive (b : Barrier) (n wcount wid now : Nat) : Option Barrier :=
  let e := if n = 0 then wcount else n
  if b.exp = 0 then some { b with exp := e, arr := 1, t0 := now, auto := n = 0, arrivals := [wid] }
  else if (b.auto && n = 0) || e = b.exp then some { b with arr := b.arr + 1, arrivals := b.arrivals ++ [wid] }
  else none

/-- A barrier after a regrouping that left `k` of `was` warps (R346). -/
def Barrier.adjust (b : Barrier) (was k : Nat) : Barrier :=
  if b.exp ≠ 0 && b.auto then { b with exp := max (max (b.exp - (was - k)) b.arr) 1 } else b

end Sys2Proof.Machine
end

