-- ==== Sys2Proof/Machine/EngMem.lean ====
section
/-! DEFINITION. Accesses of the matrix unit, the engines and the Taper: addresses made of a base and a displacement,
reads and writes that carry poison (R229), and what holds them up. -/

namespace Sys2Proof.Machine

/-- An address of a unit: a space, a base and a displacement.  In space 011 the base is the block's name and the
displacement the byte within the block (R226). -/
structure EAddr where
  sp : Nat
  base : Dword
  disp : Int
  deriving DecidableEq, Repr

/-- The block name. -/
def EAddr.name (x : EAddr) : Word := if x.sp = 3 then x.base.setWidth 32 else 0

/-- The effective address (R218).  DESIGN CHOICE (log entry 123): outside the global space the upper half of a 64-bit address is left
aside, and so in space 011 beside the block's name. -/
def EAddr.ea (x : EAddr) : Dword :=
  match x.sp with
  | 0 => x.base + addr64 x.disp
  | 3 => (BitVec.ofInt 32 x.disp).setWidth 64
  | _ => (x.base.setWidth 32 + BitVec.ofInt 32 x.disp).setWidth 64

/-- An address further on. -/
def EAddr.plus (x : EAddr) (d : Int) : EAddr := { x with disp := x.disp + d }

/-- What an access of a unit meets: done; parked (R224, R231, R233); no translation; a cause with its reason; a refusal by the
firmware of another module (0x10, R457) or by the switch (0x50, R459), which ends the context. -/
inductive Got (α : Type) where
  | ok (a : α)
  | wait
  | miss (va : Dword)
  | bad (cause reason : Nat) (va : Dword)
  | lost (cause : Nat) (va : Dword)

/-- The machine as a unit works in it: its group, and the writes to peers that it has sent (R243). -/
structure Unit where
  s : State
  g : Group
  sent : List (Nat × Dword)

/-- The pieces of a range of vault addresses that lie in one column each (R225), modulo 2^32 (R218). -/
def columnPieces : Nat → Dword → Nat → List (Dword × Nat)
  | 0, _, _ => []
  | k + 1, ea, n =>
    if n = 0 then []
    else
      let room := 2 ^ 24 - ea.toNat % 2 ^ 24
      if n ≤ room then [(ea, n)]
      else (ea, room) :: columnPieces k (((ea + BitVec.ofNat 64 room).setWidth 32).setWidth 64) (n - room)

/-- The pieces of an access that lie in one page each, in a vault in one column each. -/
def EAddr.pieces (x : EAddr) (n : Nat) : List (Dword × Nat) :=
  match x.sp with
  | 0 => pagePieces 32768 x.ea n
  | 2 => columnPieces 1024 x.ea n
  | _ => [(x.ea, n)]

/-- The first cause at issue of a range of bytes, with its address (R220, R224-R227). -/
def State.outsideAll (s : State) (g : Group) (x : EAddr) (n : Nat) (write : Bool) : Option (Nat × Dword) :=
  let ps := if x.sp = 2 then x.pieces n else [(x.ea, n)]
  ps.findSome? (fun p => (s.outside g x.sp p.1 p.2 write).map (fun k => (k, p.1)))

/-- A byte with whether it is poisoned or made of poisoned ones (R229). -/
abbrev Marked := Byte × Bool

/-- Bytes without poison. -/
def clean (bs : Bytes) : List Marked := bs.map (fun b => (b, false))

/-- Whether some of the bytes carry poison. -/
def tainted (bs : List Marked) : Bool := bs.any Prod.snd

/-- The bytes alone. -/
def plainBytes (bs : List Marked) : Bytes := bs.map Prod.fst

/-- What a failed access leaves for the caller. -/
def Got.recast {α β : Type} (r : Got α) : Got β :=
  match r with
  | .ok _ => .wait
  | .wait => .wait
  | .miss va => .miss va
  | .bad c r va => .bad c r va
  | .lost c va => .lost c va

/-- The bytes of one piece; another module's come as its answers bring them, cause and poison with them (R457). -/
def Unit.peekPiece (u : Unit) (x : EAddr) (ea : Dword) (n : Nat) : Got (Unit × List Marked) :=
  match u.s.locate u.g.ctx x.sp x.name ea false with
  | .error (c, r) => if c = 0x10 then .miss ea else .bad c r ea
  | .ok site =>
    if u.s.parks site n then .wait
    else
      match site with
      | .peer va =>
        let s := u.s.draw.2.requestRead u.g.ctx (lanternOf u.g.col) va n
        let c := u.s.peerCause va
        if c = 0 then .ok ({ u with s }, u.s.peerBytes va n)
        else if c = peerRefused ∨ c = 0x50 then .lost (c % 256) va
        else .bad c 0 va
      | .key k =>
        .ok ({ u with s := u.s.gatherVa u.g x.sp ea false },
          (List.range n).map (fun i => (u.s.mem.get (k + i), u.s.mem.poisoned (k + i) 1)))
      | .scr o => .ok (u, (List.range n).map (fun i => (u.g.scr.get (o + i), u.g.scr.poisoned (o + i) 1)))
      | _ => .ok (u, clean (u.s.siteRead u.g site n))

/-- `n` bytes read by a unit. -/
def Unit.peek (u : Unit) (x : EAddr) (n : Nat) : Got (Unit × List Marked) :=
  match u.s.outsideAll u.g x n false with
  | some (c, ea) => .bad c 0 ea
  | none =>
    (x.pieces n).foldl (fun acc p =>
      match acc with
      | .ok (u, bs) =>
        match u.peekPiece x p.1 p.2 with
        | .ok (u, more) => .ok (u, bs ++ more)
        | r => r
      | r => r) (.ok (u, []))

/-- Bytes read by the matrix unit: absent lines hold it up (R289), and poison is a cause (R230). -/
def Unit.fetch (u : Unit) (x : EAddr) (n : Nat) : Got (Unit × Bytes) :=
  if x.sp = 1 && u.g.missing x.ea.toNat n then .wait
  else
    match u.peek x n with
    | .ok (u, bs) => if tainted bs then .bad 0x12 0 x.ea else .ok (u, plainBytes bs)
    | r => r.recast

/-- Several ranges read one after another. -/
def Unit.fetchAll (u : Unit) : List (EAddr × Nat) → Got (Unit × List Bytes)
  | [] => .ok (u, [])
  | (x, n) :: t =>
    match u.fetch x n with
    | .ok (u, bs) =>
      match u.fetchAll t with
      | .ok (u, rest) => .ok (u, bs :: rest)
      | r => r
    | r => r.recast

/-- Poison of the sectors that take marked bytes, from an address on (R229). -/
def Mem.taint (m : Mem) (a : Nat) (bs : List Marked) : Mem :=
  ((List.range bs.length).zip bs).foldl (fun m x => if x.2.2 then m.poisonRange (a + x.1) 1 else m) m

/-- The bytes of one piece written: a sector written whole loses its poison, and one that takes bytes made of poisoned
ones is poisoned (R229). -/
def Unit.pokePiece (u : Unit) (x : EAddr) (ea : Dword) (bs : List Marked) : Got Unit :=
  match u.s.locate u.g.ctx x.sp x.name ea true with
  | .error (c, r) => if c = 0x10 then .miss ea else .bad c r ea
  | .ok site =>
    if u.s.parks site bs.length then .wait
    else
      let data := plainBytes bs
      match site with
      | .peer va =>
        let (s, tags) := u.s.requestWrite u.g.ctx (lanternOf u.g.col) va data (bs.map Prod.snd)
        .ok { u with s, sent := u.sent ++ tags }
      | _ =>
        let (s, g) := (u.s.gatherVa u.g x.sp ea true).siteWrite u.g site data
        let (s, g) := s.siteHeal g [(site, data)]
        match site with
        | .key k => .ok { u with s := { s with mem := s.mem.taint k bs }, g }
        | .scr o => .ok { u with s, g := { g with scr := g.scr.taint o bs } }
        | _ => .ok { u with s, g }

/-- Bytes written by a unit. -/
def Unit.poke (u : Unit) (x : EAddr) (bs : List Marked) : Got Unit :=
  match u.s.outsideAll u.g x bs.length true with
  | some (c, ea) => .bad c 0 ea
  | none =>
    let r := (x.pieces bs.length).foldl (fun (acc : Got (Unit × List Marked)) p =>
      match acc with
      | .ok (u, rest) =>
        match u.pokePiece x p.1 (rest.take p.2) with
        | .ok u => .ok (u, rest.drop p.2)
        | r => r.recast
      | r => r) (.ok (u, bs))
    match r with
    | .ok (u, _) => .ok u
    | r => r.recast

/-! ### Scale streams (R118, R119) -/

/-- Nibble `i` of a stream. -/
def nibble (bs : Bytes) (i : Nat) : Nat := (bs.getD (i / 2) 0).toNat / (if i % 2 = 0 then 1 else 16) % 16

/-- A byte that starts at nibble `i`. -/
def nibbleByte (bs : Bytes) (i : Nat) : Nat := nibble bs i + 16 * nibble bs (i + 1)

/-- A chain's value as a scale: outside 0 to 254 it is the NaN scale. -/
def chainScale (x : Int) : Nat := if x < 0 ∨ 254 < x then 255 else x.toNat

/-- The scales and ninth codes of `n` blocks of a stream from nibble `i` on (R118, R119); `prev` the chain's value, none
before the first block. -/
def decodeStream (bs : Bytes) (delta nine : Bool) : Nat → Nat → Option Int → List (Nat × Nat)
  | 0, _, _ => []
  | n + 1, i, prev =>
    let (x, j) : Int × Nat := match delta, prev with
      | true, some p =>
        let d := nibble bs i
        if d = 8 then ((nibbleByte bs (i + 1) : Int), i + 3) else (p + (if d < 8 then (d : Int) else (d : Int) - 16), i + 1)
      | _, _ => ((nibbleByte bs i : Int), i + 2)
    let (c9, j) := if nine then (nibble bs j, j + 1) else (0, j)
    (chainScale x, c9) :: decodeStream bs delta nine n j (some x)

/-- The nibbles of a stream of scales with their ninth codes (R118, R119). -/
def encodeNibbles (delta nine : Bool) : List (Nat × Nat) → Option Nat → List Nat
  | [], _ => []
  | (s, c9) :: t, prev =>
    let full : List Nat := [s % 16, s / 16]
    let own : List Nat := match delta, prev with
      | true, some p => if s ≠ 255 ∧ s ≤ p + 7 ∧ p ≤ s + 7 then [(s + 16 - p) % 16] else 8 :: full
      | _, _ => full
    own ++ (if nine then [c9] else []) ++ encodeNibbles delta nine t (some s)

/-- Nibbles as bytes, low first; a last one alone is padded with 0. -/
def packNibbles : List Nat → Bytes
  | [] => []
  | [a] => [BitVec.ofNat 8 a]
  | a :: b :: t => BitVec.ofNat 8 (a + 16 * b) :: packNibbles t

/-- A stream as a device encoder writes it (R118, R119). -/
def encodeStream (delta nine : Bool) (xs : List (Nat × Nat)) : Bytes := packNibbles (encodeNibbles delta nine xs none)

end Sys2Proof.Machine
end

