-- ==== Sys2Proof/Machine/Block.lean ====
section
/-! DEFINITION. Format slots and block-scaled elements (R114, R117-R124). -/

namespace Sys2Proof.Machine

/-- A format slot (R123). -/
structure FSlot where
  etype : Nat
  blk : Nat
  senc : Nat
  nine : Bool
  vq : Bool
  cbk : Nat
  vshp : Nat
  iw : Bool
  rnd : Nat
  sat : Bool
  deriving DecidableEq, Repr

/-- The fields of a slot's word (R123). -/
def FSlot.ofWord (w : Dword) : FSlot :=
  { etype := (bits w 0 5).toNat, blk := (bits w 5 2).toNat, senc := (bits w 7 2).toNat, nine := w.getLsbD 9
    vq := w.getLsbD 10, cbk := (bits w 11 3).toNat, vshp := (bits w 14 3).toNat, iw := w.getLsbD 17
    rnd := (bits w 18 3).toNat, sat := w.getLsbD 21 }

/-- Reasons 1 to 3 of R124 for a slot's word. -/
def slotFormatReason (w : Dword) : Option Nat :=
  let f := FSlot.ofWord w
  let blocks := f.blk ≠ 0
  firstReason
    [ (1, !w.getLsbD 63)
    , (2, bits w 22 41 ≠ 0 || f.etype = 7 || 0x0E ≤ f.etype || f.senc = 3 || f.vshp = 7 || f.rnd = 7)
    , (3, (blocks != (f.senc ≠ 0)) || (blocks && !(3 ≤ f.etype && f.etype ≤ 6)) || (f.etype = 6 && !blocks) ||
        (f.nine && (f.etype ≠ 6 || f.rnd ≠ 1)) ||
        (f.vq && (f.etype ≠ 0 || blocks || f.senc ≠ 0 || f.nine)) ||
        (!f.vq && (f.cbk ≠ 0 || f.vshp ≠ 0 || f.iw))) ]

/-- Elements of a block (R123). -/
def FSlot.blockSize (f : FSlot) : Nat := 8 * 2 ^ f.blk

/-- The floating format of an element type; none for an integer type. -/
def elemFmt (etype : Nat) : Option Fmt :=
  match etype with
  | 0 => some Fmt.f32
  | 1 => some Fmt.f16
  | 2 => some Fmt.bf16
  | 3 => some Fmt.e4m3
  | 4 => some Fmt.e5m2
  | 5 => some Fmt.e2m1
  | 6 => some Fmt.e2m1
  | _ => none

/-- Width in bits of an element type (R123). -/
def etypeBits (etype : Nat) : Nat :=
  match etype with
  | 0 | 0x0C | 0x0D => 32
  | 1 | 2 | 0x0A | 0x0B => 16
  | 5 | 6 => 4
  | _ => 8

/-- The ninth value of a code, in quarters (R114); code 0 leaves -0. -/
def ninthQuarters (c : Nat) : Int := [0, 1, 3, 5, 7, 10, 20, 32, 48, -1, -3, -5, -7, -10, -20, -32].getD c 0

/-- The ninth value of a code. -/
def ninth (c : Nat) : FVal := if c = 0 then .fin true 0 (-2) else ofScaled (ninthQuarters c) (-2) false

/-- The value of a code of a block format (R111, R114); `c9` is 0 without a ninth value. -/
def blockCode (f : Fmt) (c9 code : Nat) : FVal := if f = Fmt.e2m1 && code = 8 then ninth c9 else f.decode code

/-- A value times 2^k. -/
def FVal.scale (v : FVal) (k : Int) : FVal :=
  match v with
  | .fin s m e => .fin s m (e + k)
  | v => v

/-- A block-scaled element (R120). -/
def blockValue (f : Fmt) (scale c9 code : Nat) : FVal :=
  if scale = 255 then .nan else (blockCode f c9 code).scale ((scale : Int) - 127)

/-- Whether a value is finite. -/
def FVal.finite : FVal → Bool
  | .fin .. => true
  | _ => false

/-- floor(log2 |x|) of a finite non-zero value. -/
def FVal.expo : FVal → Option Int
  | .fin _ m e => if m = 0 then none else some (log2 m + e)
  | _ => none

/-- The block's scale, 255 for a NaN block (R121). -/
def blockScale (f : Fmt) (xs : List FVal) : Nat :=
  if f = Fmt.e2m1 && xs.any (fun x => !x.finite) then 255
  else
    let emax : Int := if f = Fmt.e2m1 then 2 else if f = Fmt.e4m3 then 8 else 15
    match (xs.filterMap FVal.expo).max? with
    | none => 127
    | some t => (max 0 (min 254 (t - emax + 127))).toNat

/-- The values of the set of R122 for a ninth code, in quarters, with their 4-bit codes ascending. -/
def nineSet (c9 : Nat) : List (Nat × Int) :=
  [(0, 0), (1, 2), (2, 4), (3, 6), (4, 8), (5, 12), (6, 16), (7, 24), (8, ninthQuarters c9), (9, -2), (10, -4), (11, -6)
  , (12, -8), (13, -12), (14, -16), (15, -24)]

/-- The nearest member to `x`, both in units of `2^q`, ties to the lower code: its code and distance. -/
def nearestNine (c9 : Nat) (x q : Int) : Nat × Nat :=
  let d (m : Int) : Nat := (x - m * (2 ^ (-2 - q).toNat : Nat)).natAbs
  (nineSet c9).foldl (fun b m => if d m.2 < b.2 then (m.1, d m.2) else b) (0, d 0)

/-- The unit exponent, at most -2, in which every value of a list is an integer. -/
def unitOf (xs : List FVal) : Int := xs.foldl (fun a v => match v with | .fin _ m e => if m = 0 then a else min a e | _ => a) (-2)

/-- A finite value in units of `2^q`. -/
def FVal.units (v : FVal) (q : Int) : Int :=
  match v with
  | .fin s m e => if m = 0 then 0 else scaled s m e q
  | _ => 0

/-- The block's ninth-value code (R122): the least sum of distances, the lowest code among equals. -/
def chooseNine (ys : List FVal) : Nat :=
  let q := unitOf ys
  let xs := ys.map (fun y => y.units q)
  let cost (c : Nat) : Nat := xs.foldl (fun a x => a + (nearestNine c x q).2) 0
  ((List.range 16).foldl (fun (b : Nat × Nat) c => let k := cost c; if k < b.2 then (c, k) else b) (0, cost 0)).1

/-- One element under a ninth code (R122): its code and flags. -/
def encodeNine (c9 : Nat) (y : FVal) : Res :=
  let q := unitOf [y]
  let x := y.units q
  let (code, d) := nearestNine c9 x q
  let quarter : Int := (2 ^ (-2 - q).toNat : Nat)
  let top : Int := (nineSet c9).foldl (fun a m => if x < 0 then (if m.2 < a then m.2 else a) else if a < m.2 then m.2 else a) 0
  { code
    flags := (if d = 0 then 0 else flagNX) |||
      (if d ≠ 0 && x ≠ 0 && x.natAbs < (4 * quarter).natAbs then flagUF else 0) |||
      (if top.natAbs * quarter.natAbs < x.natAbs then flagOF else 0)
    drew := false }

/-- One element of a block encoded under its scale and ninth code (R121, R122, R135). -/
def encodeElem (f : Fmt) (nine : Bool) (mode : RMode) (sat : Bool) (scale c9 : Nat) (x : FVal) (r : Nat) : Res :=
  if scale = 255 then { code := 0, flags := flagNV, drew := false }
  else
    let y := x.scale (127 - (scale : Int))
    if nine then encodeNine c9 y else f.narrow mode sat y r

/-- The ninth code of a block: 0 for a NaN block or without the ninth value. -/
def blockNine (nine : Bool) (scale : Nat) (xs : List FVal) : Nat :=
  if nine && scale ≠ 255 then chooseNine (xs.map (fun x => x.scale (127 - (scale : Int)))) else 0

end Sys2Proof.Machine
end

