-- ==== Sys2Proof/Machine/Matrix.lean ====
section
/-! DEFINITION. Matrix arithmetic (R138-R140), fragments, MMA, MMAS, ACCZ and FRAGX (R272-R282, R293, R299). -/

namespace Sys2Proof.Machine

/-! ### Arithmetic -/

/-- The value of an element: an integer type, a block-scaled code or a plain one (R111, R120). -/
def elemValue (f : FSlot) (scale c9 code : Nat) : FVal :=
  match elemFmt f.etype with
  | none =>
    let w := etypeBits f.etype
    FVal.ofInt (if f.etype % 2 = 0 then (BitVec.ofNat w code).toInt else (code : Int))
  | some fmt => if f.blk = 0 then fmt.decode code else blockValue fmt scale (if f.nine then c9 else 0) code

/-- What the adder takes: an element without a finite value is marked, and counts as 0 here (R140). -/
def FVal.plain (v : FVal) : FVal := if v.finite then v else .fin false 0 0

/-- One sum of a group of depths, added to an accumulator (R138). -/
def groupAdd (acc : Word) (ps : List (FVal × FVal)) : Word :=
  let sum := (FVal.sum false (ps.map (fun p => (FVal.mul p.1.plain p.2.plain).1))).1
  addF32 acc (toF32 (if sum.isZero then .fin false 0 0 else sum))

/-- A list cut into runs of 32. -/
def runs32 : Nat → List (FVal × FVal) → List (List (FVal × FVal))
  | 0, _ => []
  | n + 1, l => if l = [] then [] else l.take 32 :: runs32 n (l.drop 32)

/-- One K step of one element (R138, R139). -/
def stepAdd (ity : Bool) (acc : Word) (as bs : List FVal) : Word :=
  let ps := as.zip bs
  if ity then acc + BitVec.ofInt 32 (ps.foldl (fun (x : Int) p => x + p.1.units 0 * p.2.units 0) 0)
  else (runs32 (ps.length / 32 + 1) ps).foldl groupAdd acc

/-! ### Slots, tiles and causes -/

/-- The word of a format slot of the launch record. -/
def Cx.slotWord (c : Cx) (n : BitVec 3) : Dword := recFS c.g.record n.toNat

/-- The element width that a shape fixes (R274). -/
def shapeW (shape : Nat) : Nat := match shape % 8 with
  | 0 => 16
  | 1 => 8
  | _ => 4

/-- K of a shape's step, doubled in the sparse form (R274). -/
def shapeK (shape : Nat) (sparse : Bool) : Nat := (256 / shapeW shape) * (if 8 ≤ shape then 2 else 1) * (if sparse then 2 else 1)

/-- An element type stands in a shape's row (R274). -/
def typeFits (w etype : Nat) : Bool :=
  match w with
  | 16 => etype = 1 || etype = 2
  | 8 => etype = 3 || etype = 4 || etype = 8 || etype = 9
  | _ => etype = 5 || etype = 6

/-- An integer input type. -/
def intType (etype : Nat) : Bool := 8 ≤ etype

/-- An accumulation slot admits the inputs (R275). -/
def accFits (f : FSlot) (ints : Bool) : Bool :=
  f.blk = 0 && !f.vq && (if ints then f.etype = 0x0C || f.etype = 0x0D else f.etype = 0)

/-- The first of some slots that breaks R124, with its reason. -/
def firstBadSlot (ws : List (Nat × Dword)) : Option (Nat × Nat) :=
  ws.findSome? (fun x => (slotFormatReason x.2).map (fun r => (x.1, r)))

/-- Format slot (0x23) of a launch slot. -/
def Cx.badSlot (c : Cx) (n r : Nat) : State := c.raise 0x23 r c.live 0 [BitVec.ofNat 32 n]

/-- Matrix operand (0x22). -/
def Cx.badOperand (c : Cx) (r : Nat) (lanes : Word) (addr : Dword) (tile : Nat) : State :=
  c.raise 0x22 r lanes addr [BitVec.ofNat 32 tile]

/-- A tile of a warp. -/
def Tile.zero (ity : Bool) : Tile :=
  { elems := List.replicate 1024 0, ity, rowMk := 0, colMk := 0, cause := 0, reason := 0, steps := 0, opnd := false }

def Warp.tile (w : Warp) (t : Nat) : Tile := w.tiles.getD t (Tile.zero false)
def Warp.setTile (w : Warp) (t : Nat) (x : Tile) : Warp := { w with tiles := putAt (Tile.zero false) w.tiles t x }

/-- An element as it is read out: under a mark it is the canonical NaN (R140). -/
def Tile.read (t : Tile) (m n : Nat) : Word :=
  if t.rowMk.getLsbD m || t.colMk.getLsbD n then 0x7FC00000#32 else t.elems.getD (32 * m + n) 0

/-- The status word (R290). -/
def Tile.word (t : Tile) (run : Bool) : Word :=
  BitVec.ofNat 32 (t.cause * 2 ^ 24 + t.reason * 2 ^ 17 + t.steps * 2 ^ 8 + (if t.opnd then 8 else 0) + (if run then 4 else 0) +
    (if t.ity then 2 else 0) + if t.rowMk ||| t.colMk = 0 then 0 else 1)

/-- The cause that a tile's status records, raised at issue (R290, R398 SRC 10). -/
def Cx.raiseTile (c : Cx) (n : Nat) : State :=
  let t := c.w.tile n
  (c.s.updWarp c.g.uid c.w.wid (fun w => w.stopAt c.run.lanes c.slot .none)).deliver c.g.uid c.w.wid
    { c.cause t.cause t.reason c.live 0 [BitVec.ofNat 32 n, BitVec.ofNat 32 t.steps, if t.opnd then 1 else 0] with src := 2 } []

/-- The first checks of a slot on a tile: MAT and operands (R98, R99), the tile's number (R276), pending tiles (R288). -/
def Cx.tileChecks (c : Cx) (us : List RegUse) (n : Nat) (queues : Bool) : Option State :=
  if c.w.busy us [] || 63 ≤ c.w.counter 3 then some c.s
  else if c.w.acc ≤ n then some (c.raise 3 0 c.live 0 [BitVec.ofNat 32 n, 6])
  else if c.w.pendingTile n || (!queues && c.w.looping n) then some c.s
  else c.regFault us

/-! ### Fragments (R278, R279) -/

/-- The shape of an operand of MMA or MMAS: element width, depth, sparse. -/
structure FragShape where
  w : Nat
  k : Nat
  sparse : Bool
  deriving DecidableEq, Repr

/-- Registers of a fragment's scale records (R279). -/
def scaleRegs (f : FSlot) (k : Nat) : Nat := if f.blk = 0 then 0 else max 1 ((k / 2 + 2 * f.blockSize - 1) / (2 * f.blockSize))

/-- Registers of the metadata (R278). -/
def metaRegs (z : FragShape) : Nat := if z.sparse then (if z.w = 4 then 2 else 1) else 0

/-- Registers of operand A and of operand B (R278). -/
def regsA (z : FragShape) (f : FSlot) : Nat := 4 + metaRegs z + scaleRegs f z.k
def regsB (z : FragShape) (f : FSlot) : Nat := (if z.sparse then 8 else 4) + scaleRegs f z.k

/-- Value `i` of a lane's packed values (R278). -/
def Warp.packed (w : Warp) (base l bits i : Nat) : Nat :=
  (w.rd (base + i * bits / 32) l).toNat / 2 ^ (i * bits % 32) % 2 ^ bits

/-- The scale record of depth `x` within the span of lane `l` (R279): the scale and the ninth code. -/
def Warp.scaleRec (w : Warp) (f : FSlot) (k base l x : Nat) : Nat × Nat :=
  if f.blk = 0 then (127, 0)
  else
    let wide := k / 2 < f.blockSize
    let lane := if wide then l % 16 else l
    let j := if wide then 0 else x / f.blockSize
    let r := (w.rd (base + j / 2) lane).toNat / 2 ^ (16 * (j % 2))
    (r % 256, r / 256 % 16)

/-- The row slice of block `b` in a lane (R279). -/
def Warp.slice (w : Warp) (base l b : Nat) : Nat := (w.rd (base + b / 8) l).toNat / 2 ^ (4 * (b % 8)) % 16

/-- The number of set bits below a position of a lane's metadata. -/
def Warp.rank (w : Warp) (base l x : Nat) : Nat :=
  (List.range x).countP (fun i => w.slice base l (i / 4) / 2 ^ (i % 4) % 2 = 1)

/-- The element at depth `x` of the span of an active lane. -/
def Warp.fragElem (w : Warp) (z : FragShape) (f : FSlot) (isA : Bool) (base l x : Nat) : FVal :=
  let values := if isA then 4 else if z.sparse then 8 else 4
  let sbase := base + values + if isA then metaRegs z else 0
  let sc := w.scaleRec f z.k sbase l x
  if isA && z.sparse then
    if w.slice (base + 4) l (x / 4) / 2 ^ (x % 4) % 2 = 1 then
      elemValue f sc.1 sc.2 (w.packed base l z.w (w.rank (base + 4) l x))
    else .fin false 0 0
  else elemValue f sc.1 sc.2 (w.packed base l z.w x)

/-- Row `r` of an operand along its depth: inactive lanes supply +0 (R280). -/
def Warp.fragRow (w : Warp) (z : FragShape) (f : FSlot) (isA : Bool) (base : Nat) (act : Word) (r : Nat) : List FVal :=
  (List.range z.k).map (fun k =>
    let l := r + 16 * (k / (z.k / 2))
    if act.getLsbD l then w.fragElem z f isA base l (k % (z.k / 2)) else .fin false 0 0)

/-- The lanes whose slices take part in a block that breaks R282. -/
def Warp.badBlocks (w : Warp) (z : FragShape) (base : Nat) (act : Word) : Word :=
  let nb := z.k / 8
  let lanesOfBlock (h q : Nat) : List Nat := (List.range 4).map (fun i => 16 * h + 4 * q + i)
  let broken (h q b : Nat) : Bool :=
    let ls := (lanesOfBlock h q).filter (fun l => act.getLsbD l)
    let slices := ls.map (fun l => w.slice base l b)
    let pop (x : Nat) : Nat := (List.range 4).countP (fun i => x / 2 ^ i % 2 = 1)
    let col (i : Nat) : Nat := slices.countP (fun x => x / 2 ^ i % 2 = 1)
    slices.any (fun x => pop x ≠ 2) || (List.range 4).any (fun i => if ls.length = 4 then col i ≠ 2 else 2 < col i)
  maskOf (fun l => act.getLsbD l && (List.range nb).any (fun b => broken (l / 16) (l % 16 / 4) b))

/-! ### MMA and MMAS -/

/-- MMA and MMAS (R280, R281). -/
def runMma (sparse : Bool) (x : XFields) (s : State) : Host.Outcome State Fault Refusal :=
  match cx s with
  | none => .next s
  | some c =>
    match c.gather with
    | .error t => .next t
    | .ok c =>
      let wa := c.slotWord x.fa
      let wb := c.slotWord x.fb
      let wc := c.slotWord x.fc
      let f := FSlot.ofWord wa
      let g := FSlot.ofWord wb
      let h := FSlot.ofWord wc
      let z : FragShape := { w := shapeW x.shape.toNat, k := shapeK x.shape.toNat sparse, sparse }
      let na := regsA z f
      let nb := regsB z g
      let us : List RegUse := [(1, x.a.toNat, na), (2, x.b.toNat, nb), (3, x.c.toNat, 8)]
      if c.w.busy us [x.sub.toNat % 8] || 63 ≤ c.w.counter 3 then .next s
      else
        let bad (f : FSlot) : Bool := !typeFits z.w f.etype || f.vq || (f.blk ≠ 0 && z.k < f.blockSize)
        match firstBadSlot [(x.fa.toNat, wa), (x.fb.toNat, wb), (x.fc.toNat, wc)] with
        | some (n, r) => .next (c.badSlot n r)
        | none =>
          if bad f then .next (c.badSlot x.fa.toNat 4)
          else if bad g || intType f.etype != intType g.etype then .next (c.badSlot x.fb.toNat 4)
          else if !accFits h (intType f.etype) then .next (c.badSlot x.fc.toNat 4)
          else
            match c.regFault us with
            | some t => .next t
            | none =>
              match (List.range 8).find? (fun i => c.w.compact (x.c.toNat + i)) with
              | some i => .next (c.shape (x.c.toNat + i))
              | none =>
                let act := c.w.live &&& c.w.mask (x.sub.toNat % 8)
                let wrong := if sparse then c.w.badBlocks z (x.a.toNat + 4) act else 0
                if wrong ≠ 0 then .next (c.badOperand 4 wrong 0 0)
                else
                  let ints := intType f.etype
                  let rows := (List.range 16).map (c.w.fragRow z f true x.a.toNat act)
                  let cols := (List.range 16).map (c.w.fragRow z g false x.b.toNat act)
                  let mark (v : List FVal) : Bool := !ints && v.any (fun e => !e.finite)
                  let elem (m n l j : Nat) : Word :=
                    let a := rows.getD m []
                    let b := cols.getD n []
                    if mark a || mark b then 0x7FC00000#32
                    else stepAdd ints (if x.zc then 0 else c.w.rd (x.c.toNat + j) l) a b
                  let out (j : Nat) : Reg := .g ((List.range 32).map (fun l =>
                    if act.getLsbD l then elem (l % 16) (8 * (l / 16) + j) l j else c.w.rd (x.c.toNat + j) l))
                  let dests : List Dest := (List.range 8).map (fun j => .vec (x.c.toNat + j) act (out j))
                  .next ((c.launchFlight (some 3) dests [] .result none [] []).finish x.y)

def execMma (x : XFields) (s : State) : Host.Outcome State Fault Refusal := runMma false x s
def execMmas (x : XFields) (s : State) : Host.Outcome State Fault Refusal := runMma true x s

/-! ### ACCZ and FRAGX -/

/-- ACCZ (R293). -/
def execAccz (x : XFields) (s : State) : Host.Outcome State Fault Refusal :=
  match cx s with
  | none => .next s
  | some c =>
    let t := x.c.toNat
    match c.tileChecks [] t false with
    | some u => .next u
    | none =>
      let f := c.slotWord x.fc
      let e := (FSlot.ofWord f).etype
      match slotFormatReason f with
      | some r => .next (c.badSlot x.fc.toNat r)
      | none =>
        if !accFits (FSlot.ofWord f) (intType e) then .next (c.badSlot x.fc.toNat 4)
        else .next ((c.launchFlight (some 3) [] [] (.tile t (Tile.zero (intType e))) none [] []).finish x.y)

/-- A tile with the elements of one quadrant replaced (R299). -/
def Tile.putQuad (t : Tile) (q : Nat) (ws : List Word) : Tile :=
  { t with elems := (List.range 1024).map (fun i =>
      if i / 512 = q / 2 ∧ i % 32 / 16 = q % 2 then ws.getD (16 * (i / 32 % 16) + i % 16) 0 else t.elems.getD i 0) }

/-- Row and column of a tile that element `j` of a lane's fragment stands for (R278, R299). -/
def quadAt (q l j : Nat) : Nat × Nat := (16 * (q / 2) + l % 16, 16 * (q % 2) + 8 * (l / 16) + j)

/-- FRAGX `.get` (R299). -/
def execFragxGet (x : XFields) (s : State) : Host.Outcome State Fault Refusal :=
  match cx s with
  | none => .next s
  | some c =>
    match c.gather with
    | .error t => .next t
    | .ok c =>
      let a := x.a.toNat
      let t := x.c.toNat
      match c.tileChecks [(1, a, 8)] t false with
      | some u => .next u
      | none =>
        if (c.w.tile t).cause ≠ 0 then .next (c.raiseTile t)
        else
          match (List.range 8).find? (fun i => c.w.compact (a + i)) with
          | some i => .next (c.shape (a + i))
          | none =>
            let out (j : Nat) : Reg := .g ((List.range 32).map (fun l =>
              let p := quadAt (x.kc.toNat % 4) l j
              if c.live.getLsbD l then (c.w.tile t).read p.1 p.2 else c.w.rd (a + j) l))
            let dests : List Dest := (List.range 8).map (fun j => .vec (a + j) c.live (out j))
            .next ((c.launchFlight (some 3) dests [] .result none [] []).finish x.y)

/-- FRAGX `.put` (R299): the elements of the quadrant, row by row, go into the tile when it completes. -/
def execFragxPut (x : XFields) (s : State) : Host.Outcome State Fault Refusal :=
  match cx s with
  | none => .next s
  | some c =>
    match c.gather with
    | .error t => .next t
    | .ok c =>
      let a := x.a.toNat
      let t := x.c.toNat
      match c.tileChecks [(1, a, 8)] t false with
      | some u => .next u
      | none =>
        let elem (i : Nat) : Word :=
          let l := i / 16 + 16 * (i % 16 / 8)
          if c.live.getLsbD l then c.w.rd (a + i % 8) l else 0
        .next ((c.launchFlight (some 3) [] [] (.quad t (x.kc.toNat % 4) ((List.range 256).map elem)) none [] []).finish x.y)

/-- FRAGX `.stat` (R299). -/
def execFragxStat (x : XFields) (s : State) : Host.Outcome State Fault Refusal :=
  match cx s with
  | none => .next s
  | some c =>
    let a := x.a.toNat
    let t := x.c.toNat
    match c.tileChecks [(1, a, 1)] t false with
    | some u => .next u
    | none =>
      let r : Results := { regs := [(a, .u ((c.w.tile t).word (c.w.looping t)))], masks := [], flags := [], gens := [] }
      match c.badResult r with
      | some q => .next (c.shape q)
      | none => .next ((c.launchFlight (some 3) (c.dests r) [] .result none [] []).finish x.y)

end Sys2Proof.Machine
end

