-- ==== Sys2Proof/Machine/Loops.lean ====
section
/-! DEFINITION. Operand maps, MLOOP, MLOOPS, the step of a loop and MAPCHK (R283-R291, R298, R300). -/

namespace Sys2Proof.Machine

/-! ### Operand maps (R283) -/

def mapBase (m : Bytes) : Dword := fieldD m 0x00
def mapRstr (m : Bytes) : Nat := field m 0x08 4
def mapCstr (m : Bytes) : Nat := field m 0x0C 4
def mapKinc (m : Bytes) : Int := (fieldW m 0x10).toInt
def mapSpc (m : Bytes) : Nat := field m 0x14 1 % 8
def mapTr (m : Bytes) : Bool := (fieldW m 0x14).getLsbD 3
def mapSwz (m : Bytes) : Nat := field m 0x14 1 / 16 % 4
def mapFs (m : Bytes) : Nat := field m 0x15 1 % 8
def mapMeta (m : Bytes) : Dword := fieldD m 0x18
def mapStile (m : Bytes) : Dword := fieldD m 0x20
def mapSinc (m : Bytes) : Int := (fieldW m 0x28).toInt
def mapMinc (m : Bytes) : Int := (fieldW m 0x2C).toInt
def mapMstr (m : Bytes) : Nat := field m 0x30 4

/-- The first reason of R300 that a map's fields meet; `sparse` says that the map is read sparse, `blocks` that its slot
has blocks. -/
def mapReason (m : Bytes) (sparse blocks : Bool) : Option Nat :=
  let spc := mapSpc m
  let high (x : Dword) : Bool := spc ≠ 0 && bits x 32 32 ≠ 0
  let off (x : Dword) (n : Nat) : Bool := spc ≠ 3 && x.toNat % n ≠ 0
  firstReason
    [ (1, !(fieldW m 0x14).getLsbD 7 || (fieldW m 0x14).getLsbD 6 || 8 ≤ field m 0x15 1 || !zeroField m 0x16 2 ||
        !zeroField m 0x34 12 || 4 ≤ spc || high (mapBase m) || high (mapMeta m) || high (mapStile m))
    , (2, off (mapBase m) 16 || off (mapStile m) 16 || off (mapMeta m) 2 || mapRstr m % 16 ≠ 0 || mapCstr m % 16 ≠ 0 ||
        mapMstr m % 2 ≠ 0)
    , (3, if sparse then mapMeta m = 0 || mapCstr m ≠ 0 || mapTr m || mapSwz m ≠ 0 else mapMeta m ≠ 0)
    , (5, blocks != (mapStile m ≠ 0)) ]

/-- The width of an entry's elements and their format (R123, R275). -/
def vqFormat (vshp : Nat) : Option (Nat × Fmt) :=
  match vshp with
  | 2 => some (16, Fmt.f16)
  | 3 => some (16, Fmt.bf16)
  | 4 => some (8, Fmt.e4m3)
  | 5 => some (8, Fmt.e5m2)
  | 6 => some (4, Fmt.e2m1)
  | _ => none

/-- An input slot of a loop breaks R275. -/
def loopSlotBad (f : FSlot) (w k : Nat) : Bool :=
  (if f.vq then (match vqFormat f.vshp with | some (n, _) => n ≠ w | none => true) else !typeFits w f.etype) ||
    (f.blk ≠ 0 && k < f.blockSize)

/-- An operand of a loop as its steps read it. -/
structure Operand where
  m : Bytes
  f : FSlot
  w : Nat
  k : Nat
  sparse : Bool
  st : Bool
  gen : Gen

/-- Consecutive depths that one stored element gives (R284): along K, or with `TR` along the rows, which then are the depth. -/
def Operand.spread (o : Operand) : Nat := if o.f.vq then 64 / o.w else 1

/-- Stored width (R284). -/
def Operand.stored (o : Operand) : Nat := if o.f.vq then (if o.f.iw then 8 else 4) else o.w

/-- Stored rows of a dense step and elements of each (R284). -/
def Operand.extent (o : Operand) : Nat × Nat := if mapTr o.m then (o.k, 32 / o.spread) else (32, o.k / o.spread)

/-- Bytes of a stored row and the chunks that hold them. -/
def Operand.chunks (o : Operand) : List Nat :=
  let n := o.extent.2 * o.stored / 8
  (List.range ((n + 15) / 16)).map (fun c => min 16 (n - 16 * c))

/-- The address of a chunk (R284). -/
def Operand.chunkAt (o : Operand) (s y c : Nat) : EAddr :=
  { sp := mapSpc o.m, base := mapBase o.m
    disp := s * mapKinc o.m + (y * mapRstr o.m : Nat) + ((c ^^^ (y % 2 ^ mapSwz o.m)) * mapCstr o.m : Nat) }

/-- The blocks of a sparse step: rows and columns of blocks as stored (R285). -/
def Operand.blockGrid (o : Operand) : Nat × Nat := if o.st then (o.k / 4, 8) else (8, o.k / 4)

/-- The reads of presence maps of a step, row of blocks by row. -/
def Operand.metaReads (o : Operand) (s : Nat) : List (EAddr × Nat) :=
  let (ps, qs) := o.blockGrid
  ((List.range ps).map (fun p => (List.range qs).map (fun q =>
    (({ sp := mapSpc o.m, base := mapMeta o.m
        disp := s * mapMinc o.m + (p * mapMstr o.m + 2 * q : Nat) } : EAddr), 2)))).flatten

/-- The reads of values of a step. -/
def Operand.valueReads (o : Operand) (s : Nat) : List (EAddr × Nat) :=
  if o.sparse then
    let (ps, qs) := o.blockGrid
    ((List.range ps).map (fun p => (List.range qs).map (fun q =>
      (({ sp := mapSpc o.m, base := mapBase o.m
          disp := s * mapKinc o.m + (p * mapRstr o.m + q * o.w : Nat) } : EAddr), o.w)))).flatten
  else
    ((List.range o.extent.1).map (fun y => ((List.range o.chunks.length).zip o.chunks).map (fun c =>
      (o.chunkAt s y c.1, c.2)))).flatten

/-- The reads of scale streams of a step, row by row (R286). -/
def Operand.scaleReads (o : Operand) (s : Nat) : List (EAddr × Nat) :=
  if o.f.blk = 0 then []
  else
    let n := (o.k + 127) / 128
    (List.range (32 * n)).map (fun i =>
      ({ sp := mapSpc o.m, base := mapStile o.m, disp := s * mapSinc o.m + (16 * i : Nat) }, 16))

/-- The scales of a row, by block (R286). -/
def Operand.scales (o : Operand) (streams : List Bytes) (i : Nat) : List (Nat × Nat) :=
  let n := (o.k + 127) / 128
  let count := min 128 o.k / o.f.blockSize
  ((List.range n).map (fun j =>
    decodeStream (streams.getD (i * n + j) []) (o.f.senc = 2) o.f.nine count 0 none)).flatten

/-- The row slice of a presence map as a mask of set columns; bit 4 r + c is row r, column c (R279). -/
def mapBit (pm r c : Nat) : Bool := pm / 2 ^ (4 * r + c) % 2 = 1

/-- A block obeys R282. -/
def blockOk (pm : Nat) : Bool :=
  (List.range 4).all (fun i => (List.range 4).countP (fun j => mapBit pm i j) = 2 && (List.range 4).countP (fun j => mapBit pm j i) = 2)

/-- What a dense step stores at a row and place: the code, from the chunks read. -/
def Operand.code (o : Operand) (vals : List Bytes) (y x : Nat) : Nat :=
  let bit := x * o.stored
  leNat (vals.getD (y * o.chunks.length + bit / 128) []) / 2 ^ (bit % 128) % 2 ^ o.stored

/-- The element at row `i` and depth `j` of a step (R284-R286). -/
def Operand.elem (o : Operand) (metas vals streams : List Bytes) (i j : Nat) : FVal :=
  let sc := if o.f.blk = 0 then (127, 0) else (o.scales streams i).getD (j / o.f.blockSize) (127, 0)
  if o.sparse then
    let (r, c) := if o.st then (j, i) else (i, j)
    let b := r / 4 * o.blockGrid.2 + c / 4
    let pm := leNat (metas.getD b [])
    if mapBit pm (r % 4) (c % 4) then
      let n := (List.range (4 * (r % 4) + c % 4)).countP (fun p => pm / 2 ^ p % 2 = 1)
      elemValue o.f sc.1 sc.2 (leNat (vals.getD b []) / 2 ^ (n * o.w) % 2 ^ o.w)
    else .fin false 0 0
  else
    let (row, depth) := if mapTr o.m then (j, i) else (i, j)
    let code := o.code vals row (depth / o.spread)
    if o.f.vq then
      match vqFormat o.f.vshp with
      | some (n, f) => f.decode ((o.gen.entry code).toNat / 2 ^ (n * (depth % o.spread)) % 2 ^ n)
      | none => .fin false 0 0
    else elemValue o.f sc.1 sc.2 code

/-- A stored index at or beyond the generation's length (R291). -/
def Operand.badIndex (o : Operand) (vals : List Bytes) : Bool :=
  o.f.vq && (List.range o.extent.1).any (fun y => (List.range o.extent.2).any (fun x => o.gen.len ≤ o.code vals y x))

/-- The operand of a step: its 32 rows along the depth. -/
def Operand.load (o : Operand) (u : Unit) (s : Nat) : Got (Unit × List (List FVal)) :=
  match u.fetchAll (if o.sparse then o.metaReads s else []) with
  | .ok (u, metas) =>
    if o.sparse && metas.any (fun b => !blockOk (leNat b)) then .bad 0x22 4 0
    else
      match u.fetchAll (o.valueReads s) with
      | .ok (u, vals) =>
        match u.fetchAll (o.scaleReads s) with
        | .ok (u, streams) =>
          if o.badIndex vals then .bad 0x20 0 0
          else .ok (u, (List.range 32).map (fun i => (List.range o.k).map (o.elem metas vals streams i)))
        | r => r.recast
      | r => r.recast
  | r => r.recast

/-! ### Issue -/

/-- A generation of a core by its number (R192). -/
def Column.genOf (k : Column) (uid : Nat) : Gen :=
  match (k.banks.map (fun b => [b.cur, b.shadow])).flatten.find? (fun g => g.uid = uid) with
  | some g => g
  | none => Gen.empty

/-- The 64 bytes of the scratchpad at which a register points, or what they meet (R287); `odd` where they are not aligned. -/
def Cx.mapRead (c : Cx) (r : Nat) (odd : Dword → State) : Except State Bytes :=
  let o := (c.w.rd r 0).toNat
  let a : Dword := BitVec.ofNat 64 o
  if o % 64 ≠ 0 then .error (odd a)
  else if c.g.scrSize < o + 64 then .error (c.raise 0x16 0 c.live a [])
  else if c.g.missing o 64 then .error (c.park c.slot .presence)
  else if c.g.scr.poisoned o 64 then .error (c.raise 0x12 0 c.live a [])
  else .ok (c.g.scr.read o 64)

/-- A map, or what it meets (R287). -/
def Cx.mapAt (c : Cx) (r : Nat) : Except State Bytes := c.mapRead r (fun a => c.raise 0x14 0 c.live a [])

/-- A loop that has issued and not begun will clear the tile's status (R287). -/
def Warp.clearing (w : Warp) (t : Nat) : Bool := w.loops.any (fun l => l.tile = t && l.zc && l.steps = 0 && !l.dead)

/-- The type that a tile has once the loops queued on it have run (R287, R288). -/
def Warp.tileIty (w : Warp) (fcInt : Nat → Bool) (t : Nat) : Bool :=
  (w.loops.filter (fun l => l.tile = t)).foldl (fun a l => if l.zc then fcInt l.fc else a) (w.tile t).ity

/-- Loops issued and not completed in a partition (R288). -/
def State.loopsOf (s : State) (col part : Nat) : Nat :=
  ((s.groups.filter (fun g => g.col = col)).map (fun g =>
    ((g.warps.filter (fun w => w.part = part)).map (fun w => w.loops.length)).sum)).sum

/-- The loop that a slot issues. -/
def Cx.loopOf (c : Cx) (op : Nat) (x : XFields) (ma mb : Bytes) (gens : List (Nat × Nat)) : MLoop :=
  { tile := x.c.toNat, mapA := ma, mapB := mb, op, shape := x.shape.toNat, fc := x.fc.toNat, zc := x.zc, sp := x.sp
    st := x.st, ce := x.ce, kc := x.kc.toNat, steps := 0, flight := c.w.nextFlight, gens, dead := false }

/-- MLOOP and MLOOPS at issue (R287, R288, R291).  DESIGN CHOICE (log entry 118): a slot with `VQ` named by the map that MLOOPS reads
sparse raises 0x23, reason 4. -/
def runLoop (op : Nat) (x : XFields) (s : State) : Host.Outcome State Fault Refusal :=
  match cx s with
  | none => .next s
  | some c =>
    let t := x.c.toNat
    let sparse := op = 0xC3
    match c.tileChecks [(1, x.a.toNat, 1), (2, x.b.toNat, 1)] t true with
    | some u => .next u
    | none =>
      if 4 ≤ c.s.loopsOf c.col c.part then .next s
      else if x.ce && c.noBanks then .next (c.raise 0x11 0 c.live 0 [])
      else
        match c.w.notU [x.a.toNat, x.b.toNat] with
        | some r => .next (c.shape r)
        | none =>
          match c.mapAt x.a.toNat, c.mapAt x.b.toNat with
          | .error u, _ => .next u
          | _, .error u => .next u
          | .ok ma, .ok mb =>
            let wa := recFS c.g.record (mapFs ma)
            let wb := recFS c.g.record (mapFs mb)
            let wc := c.slotWord x.fc
            let f := FSlot.ofWord wa
            let g := FSlot.ofWord wb
            let h := FSlot.ofWord wc
            let w := shapeW x.shape.toNat
            let k := shapeK x.shape.toNat sparse
            let addr (r : BitVec 8) : Dword := (c.w.rd r.toNat 0).setWidth 64
            let ints := intType f.etype
            match mapReason ma sparse (f.blk ≠ 0), mapReason mb false (g.blk ≠ 0) with
            | some r, _ => .next (c.badOperand r c.live (addr x.a) t)
            | _, some r => .next (c.raise 0x22 r c.live (addr x.b) [BitVec.ofNat 32 t, 0, 1])
            | none, none =>
              match firstBadSlot [(mapFs ma, wa), (mapFs mb, wb), (x.fc.toNat, wc)] with
              | some (n, r) => .next (c.badSlot n r)
              | none =>
                if loopSlotBad f w k || (sparse && f.vq) || (x.st && f.blk ≠ 0) then .next (c.badSlot (mapFs ma) 4)
                else if loopSlotBad g w k || intType f.etype != intType g.etype then .next (c.badSlot (mapFs mb) 4)
                else if !accFits h ints then .next (c.badSlot x.fc.toNat 4)
                else if !x.zc && c.w.tileIty (fun n => intType (FSlot.ofWord (recFS c.g.record n)).etype) t != ints then
                  .next (c.badOperand 6 c.live 0 t)
                else if !x.zc && (c.w.tile t).cause ≠ 0 && !c.w.clearing t then .next (c.raiseTile t)
                else if !x.ce && (f.vq || g.vq) then .next (c.badSlot (if f.vq then mapFs ma else mapFs mb) 4)
                else
                  let cap (f : FSlot) : List (Nat × Nat) :=
                    if f.vq then [(f.cbk, ((c.s.column c.col).banks.getD f.cbk Bank.empty).cur.uid)] else []
                  let gens := if x.ce then cap f ++ cap g else []
                  let l := c.loopOf op x ma mb gens
                  let c := c.launchFlight (some 3) [] [] (.loop t) none [] (gens.map Prod.snd)
                  .next ({ c with w := { c.w with loops := c.w.loops ++ [l] } }.finish x.y)

def execMloop (x : XFields) (s : State) : Host.Outcome State Fault Refusal := runLoop 0xC2 x s
def execMloops (x : XFields) (s : State) : Host.Outcome State Fault Refusal := runLoop 0xC3 x s

/-! ### A step (R287, R289) -/

/-- The operand in a role of a loop. -/
def MLoop.operand (l : MLoop) (fs : Nat → Dword) (k : Column) (isB : Bool) : Operand :=
  let m := if isB then l.mapB else l.mapA
  let f := FSlot.ofWord (fs (mapFs m))
  let sparse := l.op = 0xC3
  { m, f, w := shapeW l.shape, k := shapeK l.shape sparse, sparse := sparse && !isB, st := l.st && !isB
    gen := match l.gens.find? (fun g => g.1 = f.cbk) with
      | some g => k.genOf g.2
      | none => Gen.empty }

/-- Tile after a step: the products added, the marks OR-ed, the step counted (R138-R140, R287). -/
def Tile.step (t : Tile) (as bs : List (List FVal)) (draw : Nat) (done : Nat) : Tile :=
  let mark (rows : List (List FVal)) : Word :=
    if t.ity then 0 else maskOf (fun i => (rows.getD i []).any (fun e => !e.finite))
  let rm := t.rowMk ||| mark as
  let cm := t.colMk ||| mark bs
  { t with
    elems := (List.range 1024).map (fun i =>
      if rm.getLsbD (i / 32) || cm.getLsbD (i % 32) then Config.markedElem draw i
      else stepAdd t.ity (t.elems.getD i 0) (as.getD (i / 32) []) (bs.getD (i % 32) []))
    rowMk := rm, colMk := cm, steps := done }

/-- The reason that a tile's status word and `MAPCHK` hold: 0 but for matrix operand and format slot (R290, R298). -/
def tileReason (cause reason : Nat) : Nat := if cause = 0x22 ∨ cause = 0x23 then reason else 0

/-- A loop leaves its tile and its flight completes: MAT falls (R287). -/
def Warp.endLoop (w : Warp) (l : MLoop) : Warp :=
  let w := { w with loops := w.loops.erase l, flights := w.flights.filter (fun f => f.id ≠ l.flight)
                    yields := w.yields.filter (fun f => f ≠ l.flight) }
  w.uncount (some 3)

/-- The oldest operation of a warp that counts on MAT (R99). -/
def Warp.oldestOn (w : Warp) (counter id : Nat) : Bool :=
  (w.flights.find? (fun f => f.counter = some counter)).map Flight.id = some id

/-- LOOP_STEP (R287, R289): the first loop of a tile runs its next step, waits, stops with a cause, or completes. -/
def execLoopStep (grp wid tile : Nat) (s : State) : Host.Outcome State Fault Refusal :=
  match s.group grp with
  | none => .next s
  | some g =>
    match g.warp wid with
    | none => .next s
    | some w =>
      match w.loops.find? (fun l => l.tile = tile) with
      | none => .next s
      | some l =>
        let fs (n : Nat) : Dword := recFS g.record n
        let last := l.kc ≤ l.steps
        let mine := w.oldestOn 3 l.flight
        if l.dead then (if mine then done (s.updWarp grp wid (fun w => w.endLoop l)) else .next s)
        else if last && !mine then .next s
        else
          let k := s.column g.col
          let t := w.tile tile
          let ity := intType (FSlot.ofWord (fs l.fc)).etype
          let t := if l.zc && l.steps = 0 then Tile.zero ity else t
          let put (s : State) (f : Warp → Warp) : Host.Outcome State Fault Refusal := done (s.updWarp grp wid f)
          let stop (u : Unit) (b : Bool) (cause reason : Nat) : Host.Outcome State Fault Refusal :=
            put u.s (fun w =>
              let w := w.setTile tile { t with cause, reason := tileReason cause reason, steps := l.steps, opnd := b }
              { w with loops := w.loops.map (fun x => if x.tile = tile then { x with dead := true } else x) })
          let u : Unit := { s, g, sent := [] }
          let half (b : Bool) (u : Unit) : Got (Unit × List (List FVal)) := (l.operand fs k b).load u l.steps
          let obstacle (b : Bool) (r : Got (Unit × List (List FVal))) : Host.Outcome State Fault Refusal :=
            match r with
            | .miss va => .next (s.queueFault (faultOf g w 3 0 tile va))
            | .bad c r _ => stop u b c r
            | .lost c va => .next (s.lostRead grp wid l.flight c va)
            | _ => .next s
          match half false u with
          | .ok (u, as) =>
            match half true u with
            | .ok (u, bs) =>
              let (n, s') := u.s.draw
              let t' := t.step as bs n (l.steps + 1)
              put s' (fun w =>
                let w := w.setTile tile t'
                if last then w.endLoop l
                else { w with loops := w.loops.map (fun x => if x.flight = l.flight then { x with steps := l.steps + 1 } else x) })
            | r => obstacle true r
          | r => obstacle false r

/-! ### MAPCHK (R298) -/

/-- A cause that a step of a map meets, with its reason and address. -/
abbrev Met := Nat × Nat × Dword

/-- The first cause that some ranges meet, translated but not read where `read` is false. -/
def Unit.probe (u : Unit) (read : Bool) (xs : List (EAddr × Nat)) : Option Met :=
  xs.findSome? (fun x =>
    match u.s.outsideAll u.g x.1 x.2 false with
    | some (c, ea) => some (c, 0, ea)
    | none =>
      (x.1.pieces x.2).findSome? (fun p =>
        match u.s.locate u.g.ctx x.1.sp x.1.name p.1 false with
        | .error e => some (e.1, tileReason e.1 e.2, p.1)
        | .ok (.peer va) =>
          if u.s.peerCause va ≠ 0 then some (u.s.peerCause va % 256, 0, va)
          else if read && (u.s.peerBytes va p.2).any Prod.snd then some (0x12, 0, va) else none
        | .ok site => if read && u.s.sitePoison u.g site p.2 then some (0x12, 0, p.1) else none))

/-- What a step of a map meets (R298): the presence maps read, the rest translated.  DESIGN CHOICE (log entry 122): presence maps
in scratchpad lines whose presence bit is clear are read as they stand, and MAPCHK does not park for them. -/
def Operand.probe (o : Operand) (u : Unit) (s : Nat) : Option Met :=
  let metas := if o.sparse then o.metaReads s else []
  match u.probe true metas with
  | some e => some e
  | none =>
    let broken := metas.any (fun x => match u.peek x.1 2 with | .ok (_, bs) => !blockOk (leNat (plainBytes bs)) | _ => false)
    if broken then some (0x22, 4, 0)
    else
      match u.probe false (o.valueReads s) with
      | some e => some e
      | none => u.probe false (o.scaleReads s)

/-- The word of R298, with the address of a read that the switch refuses (R459).  DESIGN CHOICE (log entry 118): a slot with `VQ` in
a map that is read sparse gives 0x23, reason 4. -/
def Cx.mapWord (c : Cx) (x : XFields) : Word × Option Dword :=
  let o := (c.w.rd x.a.toNat 0).toNat
  let word (cause reason step : Nat) : Word × Option Dword :=
    (BitVec.ofNat 32 (cause * 2 ^ 24 + reason * 2 ^ 16 + step * 2 ^ 8), none)
  if o % 64 ≠ 0 then word 0x14 0 0
  else if c.g.scrSize < o + 64 then word 0x16 0 0
  else if c.g.scr.poisoned o 64 then word 0x12 0 0
  else
    let m := c.g.scr.read o 64
    let fw := recFS c.g.record (mapFs m)
    let f := FSlot.ofWord fw
    match mapReason m x.sp (f.blk ≠ 0) with
    | some r => word 0x22 r 0
    | none =>
      match slotFormatReason fw with
      | some r => word 0x23 r 0
      | none =>
        let w := shapeW x.shape.toNat
        let k := shapeK x.shape.toNat x.sp
        if loopSlotBad f w k || (x.sp && f.vq) || (x.st && f.blk ≠ 0) then word 0x23 4 0
        else
          let op : Operand := { m, f, w, k, sparse := x.sp, st := x.st, gen := Gen.empty }
          let u : Unit := { s := c.s, g := c.g, sent := [] }
          match (List.range (x.kc.toNat + 1)).findSome? (fun i => (op.probe u i).map (fun e => (e, i))) with
          | some ((cause, reason, va), i) => ((word cause reason i).1, if cause = 0x50 then some va else none)
          | none => (0, none)

def execMapchk (x : XFields) (s : State) : Host.Outcome State Fault Refusal :=
  match cx s with
  | none => .next s
  | some c =>
    let us : List RegUse := [(1, x.a.toNat, 1), (3, x.c.toNat, 1)]
    if c.held us [] (some 3) then .next s
    else
      match c.regFault us with
      | some t => .next t
      | none =>
        match c.w.notU [x.a.toNat] with
        | some r => .next (c.shape r)
        | none =>
          let o := (c.w.rd x.a.toNat 0).toNat
          if o % 64 = 0 && o + 64 ≤ c.g.scrSize && c.g.missing o 64 then .next (c.park c.slot .presence)
          else
            let (v, refused) := c.mapWord x
            let r : Results := { regs := [(x.c.toNat, .u v)], masks := [], flags := [], gens := [] }
            match c.badResult r with
            | some q => .next (c.shape q)
            | none =>
              let id := c.w.nextFlight
              let t := (c.launchFlight (some 3) (c.dests r) [] .result none [] []).finish x.y
              .next (match refused with
                | some va => t.lostRead c.g.uid c.w.wid id 0x50 va
                | none => t)

end Sys2Proof.Machine
end

