-- ==== Sys2Proof/Machine/Sfu.lean ====
section
/-! DEFINITION. Special functions, division and tables, opcodes 0x60 to 0x6B (R187-R195). -/

namespace Sys2Proof.Machine

/-- The FP32 word of an operand of a format, widened exactly (R187). -/
def widened (f : Fmt) (a : Nat) : Word := BitVec.ofNat 32 (Fmt.f32.round 1 false (f.decode a) 0).code

/-- A special function of one operand (R187): the approximate ones return the free choice of `Config.sfuError` inside
their bound, the same for an operand of FP16 or BF16 as for the FP32 word that it widens to. -/
def runSfu (op : Nat) (v : VFields) (s : State) : Host.Outcome State Fault Refusal :=
  floatOps op v (fun c f a _ _ r => sfu op f c.mode c.sat a r (Config.sfuError op (widened f a))) s

def execRcp (v : VFields) (s : State) : Host.Outcome State Fault Refusal := runSfu 0x60 v s
def execRsq (v : VFields) (s : State) : Host.Outcome State Fault Refusal := runSfu 0x61 v s
def execSqrt (v : VFields) (s : State) : Host.Outcome State Fault Refusal := runSfu 0x62 v s
def execExp2 (v : VFields) (s : State) : Host.Outcome State Fault Refusal := runSfu 0x63 v s
def execLog2 (v : VFields) (s : State) : Host.Outcome State Fault Refusal := runSfu 0x64 v s
def execSinpi (v : VFields) (s : State) : Host.Outcome State Fault Refusal := runSfu 0x65 v s
def execCospi (v : VFields) (s : State) : Host.Outcome State Fault Refusal := runSfu 0x66 v s
def execTanh (v : VFields) (s : State) : Host.Outcome State Fault Refusal := runSfu 0x67 v s
def execSigm (v : VFields) (s : State) : Host.Outcome State Fault Refusal := runSfu 0x68 v s

def execDivf (v : VFields) (s : State) : Host.Outcome State Fault Refusal :=
  floatOps 0x6B v (fun c f a b _ r => divf f c.mode c.sat a b r) s

/-- The exact sum of two values. -/
def plus (a b : FVal) : FVal := (FVal.sum false [a, b]).1

/-- The exact product of two values. -/
def times (a b : FVal) : FVal := (FVal.mul a b).1

/-- `a < b` on exact values; false with a NaN. -/
def FVal.lt (a b : FVal) : Bool :=
  match FVal.cmp a b with
  | some o => o < 0
  | none => false

/-- floor of a value clamped to 0 to `hi` (R195). -/
def floorClamp (v : FVal) (hi : Nat) : Nat :=
  match v with
  | .nan => 0
  | .inf s => if s then 0 else hi
  | .fin s m e => if s then 0 else if 40 < (log2 m + e : Int) then hi else min (cutAt m e 0).1 hi

/-- The interpolation of TBL on an FP32 value (R195); `high` chooses the high halves.  DESIGN CHOICE (log entry 94): where `RS` or
`LO` of an image makes t NaN, R195 gives no min, max or floor of it; t counts as 0 under clamp, and i is 0 under extrap. -/
def tableValue (g : Gen) (high : Bool) (rm : Nat) (x : FVal) : Word :=
  let half (i : Nat) : FVal := f32 (if high then (g.entry i >>> 32).setWidth 32 else (g.entry i).setWidth 32)
  match x with
  | .nan => 0x7FC00000#32
  | _ =>
    if rm = 1 && x.lt (f32 g.lo) then 0
    else if rm = 1 && !x.lt (f32 g.hi) then toF32 x
    else if g.len = 1 then toF32 (half 0)
    else
      let t := f32 (toF32 (times (plus x (f32 g.lo).neg) (f32 g.rs)))
      let last : FVal := FVal.ofInt (g.len - 1 : Nat)
      let pos : FVal := match t with | .nan => .fin false 0 0 | _ => if t.lt (.fin false 0 0) then .fin false 0 0 else t
      let tc : FVal := if rm = 2 then t else if last.lt pos then last else pos
      let i := floorClamp tc (g.len - 2)
      let j := min (i + 1) (g.len - 1)
      let d := f32 (toF32 (plus (half j) (half i).neg))
      toF32 (plus (half i) (times (plus tc (FVal.ofInt (-(i : Int)))) d))

/-- TBL and TBLI (R195).  DESIGN CHOICE (log entry 113): these have no index register, `SEL` or `CW`, and the detail words 1 and 2 of
their 0x20 reason 2 hold the number of `A` and 0. -/
def runTable (op : Nat) (high : Bool) (v : VFields) (s : State) : Host.Outcome State Fault Refusal :=
  let k := v.sub.toNat % 8
  runV op v [] (fun c => [(c.bank k).cur.uid]) (fun c d =>
    let g := (c.bank k).cur
    if c.noBanks then .error (c.raise 0x11 0 c.live 0 [])
    else if g.mode ≠ 1 then
      .error (c.raise 0x20 2 c.live 0 [BitVec.ofNat 32 k, v.a.setWidth 32, 0])
    else
      let f := fmtOf v.ty.toNat
      .ok (c.lanewise op v d (c.ruleTag op v d) (fun i gen =>
        runElems f.width (fun e _ =>
          let y := tableValue g high (v.sub.toNat / 8) (f.decode (modA v f i.a e))
          Res.of (if f = Fmt.f32 then y.toNat else (f.narrow 1 false (f32 y) 0).code))
          (List.range (fcount v.ty.toNat)) gen (LOut.of 0)))) s

def execTbl (v : VFields) (s : State) : Host.Outcome State Fault Refusal := runTable 0x69 false v s
def execTbli (v : VFields) (s : State) : Host.Outcome State Fault Refusal := runTable 0x6A true v s

end Sys2Proof.Machine
end

