-- ==== Sys2Proof/Machine/TileMove.lean ====
section
/-! DEFINITION. ACCLD, ACCST and ACCDRAIN: their checks at issue and what they do when they complete (R294-R297). -/

namespace Sys2Proof.Machine

/-- The space of a code of ACCLD, ACCST and the epilogue descriptor (R273, R295). -/
def tileSpace (code : Nat) : Nat := match code with
  | 0 => 1
  | 1 => 0
  | _ => 2

/-- A row of a tile in memory. -/
def rowAt (sp : Nat) (base : Dword) (stride : Int) (m : Nat) : EAddr := { sp, base, disp := (m : Int) * stride }

/-- The first cause of some ranges of a unit's access at issue (R220-R227, R241). -/
def Cx.rangeFault (c : Cx) (write : Bool) (xs : List (EAddr × Nat)) : Option State :=
  match xs.findSome? (fun x => c.s.outsideAll c.g x.1 x.2 write) with
  | some (k, ea) => some (c.raise k 0 c.live ea [])
  | none =>
    let lock (x : EAddr × Nat) : Option (Nat × Lock × Dword) :=
      let b := lockByte c.g x.1.sp x.1.name x.1.ea
      ((c.s.column c.col).conflict c.g.ctx x.1.sp b (b + x.2) write).map (fun k => (k.1, k.2, x.1.ea))
    match xs.findSome? lock with
    | some (i, k, ea) =>
      some (c.raise 0x15 0 c.live ea [BitVec.ofNat 32 i, BitVec.ofNat 32 k.op, BitVec.ofNat 32 k.slot])
    | none => none

/-- The writes of some ranges that R243 counts: those to another module, one for each flit, and those to another lantern. -/
def Cx.fabricWrites (c : Cx) (xs : List (EAddr × Nat)) : List Dword :=
  let here := lanternOf c.g.col
  (xs.map (fun x =>
    let ea := x.1.ea
    if x.1.sp = 0 && isPeer ea then (flitPieces (x.2 + 1) ea (List.replicate x.2 0)).map Prod.fst
    else if (x.1.sp = 0 && lanOf ea ≠ here) || (x.1.sp = 2 && lanternOf (vaultCol ea) ≠ here) then [ea] else [])).flatten

/-- The count of R243 has no room for the writes of some ranges. -/
def Cx.fabricFull (c : Cx) (xs : List (EAddr × Nat)) : Bool :=
  let n := (c.fabricWrites xs).length
  n ≠ 0 && 4095 < c.w.unack.length + n

/-- The writes of a tile's operation that issues next are counted until it completes (R243). -/
def Cx.countWrites (c : Cx) (xs : List (EAddr × Nat)) : Cx :=
  { c with w := { c.w with unack := c.w.unack ++ (c.fabricWrites xs).map (fun addr =>
      { tag := 0, since := c.s.clock.toNat, flight := some c.w.nextFlight, addr }) } }

/-- ACCLD and ACCST at issue (R294). -/
def runMove (store : Bool) (x : XFields) (s : State) : Host.Outcome State Fault Refusal :=
  match cx s with
  | none => .next s
  | some c =>
    let t := x.c.toNat
    let a := x.a.toNat
    let sp := tileSpace (x.sub.toNat % 4)
    let n := if sp = 0 then 2 else 1
    match c.tileChecks [(1, a, n), (2, x.b.toNat, 1)] t false with
    | some u => .next u
    | none =>
      match c.w.notU ((List.range n).map (· + a) ++ [x.b.toNat]) with
      | some r => .next (c.shape r)
      | none =>
        let fw := c.slotWord x.fc
        let e := (FSlot.ofWord fw).etype
        match if store then none else slotFormatReason fw with
        | some r => .next (c.badSlot x.fc.toNat r)
        | none =>
          if !store && !accFits (FSlot.ofWord fw) (intType e) then .next (c.badSlot x.fc.toNat 4)
          else if store && (c.w.tile t).cause ≠ 0 then .next (c.raiseTile t)
          else
            let base : Dword := if sp = 0 then c.w.rd (a + 1) 0 ++ c.w.rd a 0 else (c.w.rd a 0).setWidth 64
            let stride := c.w.rd x.b.toNat 0
            let rows : List (EAddr × Nat) := (List.range 32).map (fun m => (rowAt sp base stride.toInt m, 128))
            if base.toNat % 128 ≠ 0 ∨ stride.toNat % 128 ≠ 0 then .next (c.raise 0x14 0 c.live base [])
            else
              match c.rangeFault store rows with
              | some u => .next u
              | none =>
                if !store && sp = 1 && rows.any (fun r => c.g.missing r.1.ea.toNat 128) then .next (c.park c.slot .presence)
                else if store && c.fabricFull rows then .next s
                else
                  let kind : FlightKind := if store then .spill t sp base stride (c.w.tile t) else .fill t sp base stride (intType e)
                  let c := if store then c.countWrites rows else c
                  .next ((c.launchFlight (some 3) [] [] kind none [] []).finish x.y)

def execAccld (x : XFields) (s : State) : Host.Outcome State Fault Refusal := runMove false x s
def execAccst (x : XFields) (s : State) : Host.Outcome State Fault Refusal := runMove true x s

/-! ### The epilogue descriptor (R295) -/

def epiDst (d : Bytes) : Dword := fieldD d 0x00
def epiDstr (d : Bytes) : Nat := field d 0x08 4
def epiAlpha (d : Bytes) : Word := fieldW d 0x0C
def epiBias (d : Bytes) : Dword := fieldD d 0x10
def epiSdst (d : Bytes) : Dword := fieldD d 0x18
/-- Space code `i` of `CTL`: 0 `DSP`, 1 `BSP`, 2 `SSP`. -/
def epiCode (d : Bytes) (i : Nat) : Nat := field d 0x20 1 / 4 ^ i % 4
def epiClr (d : Bytes) : Bool := (fieldW d 0x20).getLsbD 6
def epiRaw (d : Bytes) : Bool := (fieldW d 0x20).getLsbD 7
def epiEn (d : Bytes) : Bool := (fieldW d 0x21).getLsbD 0
def epiBank (d : Bytes) : Nat := field d 0x21 1 / 2 % 8
def epiRange (d : Bytes) : Nat := field d 0x21 1 / 16 % 4
def epiHi (d : Bytes) : Bool := (fieldW d 0x21).getLsbD 6
def epiRows (d : Bytes) : Nat := field d 0x22 1

/-- The descriptor breaks R295. -/
def epiBad (d : Bytes) (f : FSlot) (ity : Bool) : Bool :=
  epiCode d 0 = 3 || epiCode d 1 = 3 || epiCode d 2 = 3 || epiRange d = 3 || (fieldW d 0x21).getLsbD 7 ||
    !zeroField d 0x23 29 || (epiDst d).toNat % 16 ≠ 0 || epiDstr d % 16 ≠ 0 || (epiBias d).toNat % 16 ≠ 0 ||
    (epiSdst d).toNat % 16 ≠ 0 || epiRows d = 0 || 32 < epiRows d || (epiSdst d ≠ 0) != (f.blk ≠ 0) ||
    (epiRaw d && !accFits f ity)

/-- A destination row (R296).  DESIGN CHOICE (log entry 123): bits 63:32 of `DST`, `BIAS` and `SDST` are left aside outside the global
space. -/
def epiRow (d : Bytes) (m : Nat) : EAddr := rowAt (tileSpace (epiCode d 0)) (epiDst d) (epiDstr d) m

/-- The place of a row's scale stream (R296). -/
def epiScale (d : Bytes) (m : Nat) : EAddr := rowAt (tileSpace (epiCode d 2)) (epiSdst d) 16 m

/-- The biases. -/
def epiBiasAt (d : Bytes) : EAddr := rowAt (tileSpace (epiCode d 1)) (epiBias d) 0 0

/-- Bytes of the scale stream of a row at most (R118, R119): an absolute scale takes two nibbles, one that escapes from a delta
chain three, and a ninth code one more. -/
def epiStreamBytes (f : FSlot) : Nat :=
  let n := 32 / f.blockSize
  (n * (if f.nine then 3 else 2) + (if f.senc = 2 then n - 1 else 0) + 1) / 2

/-- ACCDRAIN at issue (R295). -/
def execAccdrain (x : XFields) (s : State) : Host.Outcome State Fault Refusal :=
  match cx s with
  | none => .next s
  | some c =>
    let t := x.c.toNat
    let a := x.a.toNat
    match c.tileChecks [(1, a, 1)] t false with
    | some u => .next u
    | none =>
      match c.w.notU [a] with
      | some r => .next (c.shape r)
      | none =>
        let at' : Dword := (c.w.rd a 0).setWidth 64
        match c.mapRead a (fun _ => c.badOperand 7 c.live at' t) with
        | .error u => .next u
        | .ok d =>
          let fw := c.slotWord x.fc
          let f := FSlot.ofWord fw
          match slotFormatReason fw with
          | some r => .next (c.badSlot x.fc.toNat r)
          | none =>
            if f.vq || f.blk = 3 then .next (c.badSlot x.fc.toNat 4)
            else if epiBad d f (c.w.tile t).ity then .next (c.badOperand 7 c.live at' t)
            else if (c.w.tile t).cause ≠ 0 then .next (c.raiseTile t)
            else if epiEn d && c.noBanks then .next (c.raise 0x11 0 c.live 0 [])
            else
              let g := (c.bank (epiBank d)).cur
              if epiEn d && g.mode ≠ 1 then .next (c.raise 0x20 2 c.live 0 [BitVec.ofNat 32 (epiBank d), x.a.setWidth 32, 0])
              else
                let rows : List (EAddr × Nat) := (List.range (epiRows d)).map (fun m => (epiRow d m, 4 * etypeBits f.etype))
                let scales : List (EAddr × Nat) :=
                  if f.blk = 0 then [] else (List.range (epiRows d)).map (fun m => (epiScale d m, epiStreamBytes f))
                let biases : List (EAddr × Nat) := if epiBias d = 0 then [] else [(epiBiasAt d, 128)]
                match c.rangeFault true (rows ++ scales), c.rangeFault false biases with
                | some u, _ => .next u
                | _, some u => .next u
                | none, none =>
                  if c.fabricFull (rows ++ scales) then .next s
                  else
                    let mode := if f.rnd = 0 then c.w.ctl.toNat % 8 else f.rnd
                    let gen := if epiEn d then some g.uid else none
                    let c := c.countWrites (rows ++ scales)
                    .next ((c.launchFlight (some 3) [] [] (.drain t (c.w.tile t) d fw mode gen) none [] (gen.toList)).finish x.y)

/-! ### Completion -/

/-- What the end of a tile's operation meets: it waits, it is over with a change of its warp, or another module has refused a read
(R457, R459). -/
inductive TileEnd where
  | hold (s : State)
  | over (u : Unit) (upd : Warp → Warp)
  | lost (cause : Nat) (va : Dword)

/-- A cause of the owner recorded in a tile's status (R290, R294). -/
def Warp.recordTile (w : Warp) (t : Nat) (e : Option (Nat × Nat)) : Warp :=
  match e with
  | some (c, r) => w.setTile t { w.tile t with cause := c, reason := if c = 0x22 ∨ c = 0x23 then r else 0, steps := 0, opnd := false }
  | none => w

/-- Rows written one after another; the first cause is kept and the rows after it are still written (R294). -/
def Unit.pokeRows (u : Unit) : List (EAddr × Bytes) → Option (Nat × Nat) → Got (Unit × Option (Nat × Nat))
  | [], e => .ok (u, e)
  | (x, bs) :: t, e =>
    match u.poke x (clean bs) with
    | .ok u => u.pokeRows t e
    | .bad c r _ => u.pokeRows t (if e = none then some (c, r) else e)
    | r => r.recast

/-- Rows read one after another; a row that meets a cause keeps what the tile held (R294). -/
def Unit.peekRows (u : Unit) : List (EAddr × List Word) → Got (Unit × List Word × Option (Nat × Nat))
  | [] => .ok (u, [], none)
  | (x, old) :: t =>
    let go (u : Unit) (row : List Word) (e : Option (Nat × Nat)) : Got (Unit × List Word × Option (Nat × Nat)) :=
      match u.peekRows t with
      | .ok (u, rest, e') => .ok (u, row ++ rest, if e = none then e' else e)
      | r => r
    match u.fetch x 128 with
    | .ok (u, bs) => go u ((List.range 32).map (fun n => fieldW bs (4 * n))) none
    | .bad c r _ => go u old (some (c, r))
    | r => r.recast

/-- The value of an element of a drain before it is narrowed (R296).  DESIGN CHOICE (log entry 120): `ITY` holds no signedness, and
every element of an integer tile is taken as signed. -/
def drainValue (d : Bytes) (gen : Gen) (t : Tile) (bias : Word) (m n : Nat) : Word :=
  let y := t.read m n
  let y := if t.ity then toF32 (FVal.ofInt y.toInt) else y
  let y := toF32 (FVal.sum false [(FVal.mul (f32 y) (f32 (epiAlpha d))).1, f32 bias]).1
  if epiEn d then tableValue gen (epiHi d) (epiRange d) (f32 y) else y

/-- The code of a value in a plain element type (R135-R137). -/
def narrowCode (f : FSlot) (mode : Nat) (y : FVal) (r : Nat) : Nat :=
  match elemFmt f.etype with
  | some fmt => if fmt = Fmt.f32 then (fmt.round mode f.sat y r).code else (fmt.narrow mode f.sat y r).code
  | none =>
    let w := etypeBits f.etype
    let sgn := f.etype % 2 = 0
    let lo : Int := if sgn then -(2 ^ (w - 1) : Nat) else 0
    let hi : Int := if sgn then (2 ^ (w - 1) : Nat) - 1 else (2 ^ w : Nat) - 1
    (BitVec.ofInt w (toInteger lo hi mode y r).1).toNat

/-- Values in blocks: their codes, and the scale and ninth code of each block (R121, R122). -/
def encodeBlocks (f : FSlot) (mode : Nat) (draw : Nat → Nat) (ys : List FVal) : List Nat × List (Nat × Nat) :=
  let fmt := (elemFmt f.etype).getD Fmt.e2m1
  let n := f.blockSize
  let blocks := (List.range ((ys.length + n - 1) / n)).map (fun b => (ys.drop (b * n)).take n)
  let scales := blocks.map (fun xs =>
    let sc := blockScale fmt xs
    (sc, blockNine f.nine sc xs))
  let codes := ((List.range blocks.length).zip (blocks.zip scales)).map (fun b =>
    ((List.range n).zip b.2.1).map (fun x =>
      (encodeElem fmt f.nine mode f.sat b.2.2.1 b.2.2.2 x.2 (draw (b.1 * n + x.1))).code))
  (codes.flatten, scales)

/-- Codes of `w` bits packed, the first lowest. -/
def packCodes (w : Nat) (cs : List Nat) : Bytes :=
  toBytes ((cs.length * w + 7) / 8) (((List.range cs.length).zip cs).foldl (fun a c => a + c.2 * 2 ^ (w * c.1)) 0)

/-- A row of a drain: its bytes, and its scale stream where the slot has blocks (R296). -/
def drainRow (d : Bytes) (f : FSlot) (mode : Nat) (gen : Gen) (t : Tile) (bias : Bytes) (draw m : Nat) : Bytes × Bytes :=
  let ys := (List.range 32).map (fun n => drainValue d gen t (fieldW bias (4 * n)) m n)
  let r (i : Nat) : Nat := Config.unitDraw draw (32 * m + i) % 65536
  let w := etypeBits f.etype
  if epiRaw d then (packCodes 32 ((List.range 32).map (fun n => (t.read m n).toNat)), [])
  else if f.blk = 0 then (packCodes w (((List.range 32).zip ys).map (fun y => narrowCode f mode (f32 y.2) (r y.1))), [])
  else
    let (codes, scales) := encodeBlocks f mode r (ys.map f32)
    (packCodes w codes, encodeStream (f.senc = 2) f.nine scales)

/-- A write's fault enters the queue, and the operation waits (R289, R294). -/
def State.tileMiss (s : State) (g : Group) (w : Warp) (t : Nat) (write : Bool) (va : Dword) : TileEnd :=
  .hold (s.queueFault (faultOf g w 3 (if write then 1 else 0) t va))

/-- The end of an operation on a tile (R293-R296, R299).  DESIGN CHOICE (log entry 121): a drain whose biases meet a cause at their
owner records it, writes no row and does not apply `CLR`. -/
def State.endTile (s : State) (g : Group) (w : Warp) (f : Flight) : TileEnd :=
  let u : Unit := { s, g, sent := [] }
  match f.kind with
  | .tile t v => .over u (fun w => w.setTile t v)
  | .quad t q ws => .over u (fun w => w.setTile t ((w.tile t).putQuad q ws))
  | .fill t sp base stride ity =>
    let old := (w.tile t).elems
    let rows := (List.range 32).map (fun m => (rowAt sp base stride.toInt m, (old.drop (32 * m)).take 32))
    match u.peekRows rows with
    | .ok (u, elems, e) => .over u (fun w => (w.setTile t { Tile.zero ity with elems }).recordTile t e)
    | .miss va => s.tileMiss g w t false va
    | .lost c va => .lost c va
    | _ => .hold s
  | .spill t sp base stride v =>
    let rows := (List.range 32).map (fun m =>
      (rowAt sp base stride.toInt m, ((List.range 32).map (fun n => wordBytes (v.read m n))).flatten))
    match u.pokeRows rows none with
    | .ok (u, e) => .over u (fun w => w.recordTile t e)
    | .miss va => s.tileMiss g w t true va
    | _ => .hold s
  | .drain t v d fw mode gen =>
    let fs := FSlot.ofWord fw
    let gn := match gen with
      | some k => (s.column g.col).genOf k
      | none => Gen.empty
    let go (u : Unit) (bias : Bytes) : TileEnd :=
      let (n, s') := u.s.draw
      let rows := (List.range (epiRows d)).map (fun m => (m, drainRow d fs mode gn v bias n m))
      let ws : List (EAddr × Bytes) := (rows.map (fun r =>
        (epiRow d r.1, r.2.1) :: if fs.blk = 0 then [] else [(epiScale d r.1, r.2.2)])).flatten
      match ({ u with s := s' } : Unit).pokeRows ws none with
      | .ok (u, e) => .over u (fun w => (if epiClr d then w.setTile t (Tile.zero v.ity) else w).recordTile t e)
      | .miss va => s.tileMiss g w t true va
      | _ => .hold s
    if epiBias d = 0 then go u (List.replicate 128 0)
    else
      match u.fetch (epiBiasAt d) 128 with
      | .ok (u, bias) => go u bias
      | .miss va => s.tileMiss g w t false va
      | .bad c r _ => .over u (fun w => w.recordTile t (some (c, r)))
      | .lost c va => .lost c va
      | .wait => .hold s
  | _ => .over u id

end Sys2Proof.Machine
end

