-- ==== Sys2Proof/Machine/Engine.lean ====
section
/-! DEFINITION. Engine operations: descriptors, tokens, the completion table, range locks, and the ends of operations
(R302-R311). -/

namespace Sys2Proof.Machine

/-! ### Tokens and the completion table (R304, R305) -/

/-- A token. -/
def tokenOf (seq kind slot : Nat) : Dword := BitVec.ofNat 64 (seq * 2 ^ 48 + kind * 2 ^ 40 + slot)

/-- The low word of a status. -/
def statusLow (canc : Bool) (err cause det : Nat) : Word :=
  BitVec.ofNat 32 (2 ^ 31 + (if canc then 2 ^ 30 else 0) + err * 2 ^ 24 + cause * 2 ^ 16 + min det 0xFFFF)

/-- The completion slot that a token names, and whether the token is stale. -/
def Group.slotOf (g : Group) (tok : Dword) : Nat × Bool :=
  let i := (bits tok 0 6).toNat
  match g.ctab[i]? with
  | some k => (i, decide (k.seq ≠ (bits tok 48 16).toNat ∨ k.kind ≠ (bits tok 40 8).toNat))
  | none => (i, true)

/-- The operation in flight in a completion slot. -/
def Group.opIn (g : Group) (slot : Nat) : Option EngineOp := g.ops.find? (fun o => o.slot = slot)

/-- The status pair of a token (R305); that of an operation in flight shows what it counts so far. -/
def Group.status (g : Group) (tok : Dword) : Word × Word :=
  let (i, stale) := g.slotOf tok
  if stale then (0xA0000000#32, 0)
  else
    match g.opIn i with
    | some o => (statusLow false o.err o.cause o.det &&& 0x7FFFFFFF#32, BitVec.ofNat 32 o.got)
    | none => match g.ctab[i]? with
      | some k => (k.low, k.high)
      | none => (0xA0000000#32, 0)

/-- The operation that a token names is done. -/
def Group.tokenDone (g : Group) (tok : Dword) : Bool := (g.status tok).1.getLsbD 31

/-- The free completion slot whose operation completed longest ago (R304). -/
def Group.freeSlot (g : Group) : Option Nat :=
  (((List.range 64).zip g.ctab).filter (fun x => !x.2.inFlight)).foldl (fun (b : Option (Nat × Nat)) x =>
    match b with
    | none => some (x.1, x.2.doneAt)
    | some (i, d) => if x.2.doneAt < d then some (x.1, x.2.doneAt) else some (i, d)) none |>.map Prod.fst

/-- The engine class of an opcode: its limit on a core (R306) and the opcodes that share it. -/
def engineLimit (op : Nat) : Option (Nat × Nat × Nat) :=
  if op ≤ 0xD2 then some (64, 0xD0, 0xD2) else if op ≤ 0xD5 then some (16, 0xD3, 0xD5) else none

/-- The core cannot take operations of an opcode's class besides those that it holds (R306): `more` of them. -/
def State.engineShort (s : State) (col op more : Nat) : Bool :=
  match engineLimit op with
  | none => false
  | some (n, lo, hi) =>
    n < more + ((s.groups.filter (fun g => g.col = col)).map (fun g => g.ops.countP (fun o => lo ≤ o.op && o.op ≤ hi))).sum

/-- The core holds as many operations of an opcode's class as it may (R306). -/
def State.engineFull (s : State) (col op : Nat) : Bool := s.engineShort col op 1

/-- The wait counter of an engine opcode (R84). -/
def engineCounter (op : Nat) : Nat := if op ≤ 0xD2 then 4 else if op ≤ 0xD5 then 5 else 6

/-! ### Range locks (R308) -/

/-- A range as the lock table holds it: space and bounding bytes. -/
abbrev LRange := Nat × Nat × Nat

/-- The range of `n` bytes at an address. -/
def EAddr.range (x : EAddr) (g : Group) (n : Nat) : LRange :=
  let lo := lockByte g x.sp x.name x.ea
  (x.sp, lo, lo + n)

/-- The destination ranges of a lock. -/
def Lock.dsts (k : Lock) : List LRange := (k.dstSpace, k.dstLo, k.dstHi) :: k.more

/-- The source ranges of a lock. -/
def Lock.srcs (k : Lock) : List LRange := (k.srcSpace, k.srcLo, k.srcHi) :: k.srcMore

/-- Two ranges overlap. -/
def LRange.meets (a b : LRange) : Bool := rangesMeet a.1 a.2.1 a.2.2 b.1 b.2.1 b.2.2

/-- A later operation waits for an earlier one: its ranges meet a destination of that, or its destination the source.  Of two that
began in one cycle, as after a resume (R334), the one at the lower place of the table is the earlier. -/
def Lock.waitsFor (k e : Lock) (lower : Bool) : Bool :=
  (e.start < k.start || (e.start = k.start && lower)) &&
    ((k.srcs ++ k.dsts).any (fun a => e.dsts.any (LRange.meets a)) || k.dsts.any (fun a => e.srcs.any (LRange.meets a)))

/-- The lock of an operation: of a use of a completion slot of a group. -/
def Lock.names (k : Lock) (grp slot seq : Nat) : Bool := k.grp = grp && k.slot = slot && k.seq = seq

/-- The lock of an operation. -/
def Column.lockOf (c : Column) (grp slot seq : Nat) : Option Lock :=
  c.locks.findSome? (fun l => match l with
    | some k => if k.names grp slot seq then some k else none
    | none => none)

/-- An operation waits behind an earlier one of its core (R308). -/
def Column.blocked (c : Column) (grp slot seq : Nat) : Bool :=
  match c.lockOf grp slot seq with
  | none => false
  | some k =>
    let at' := c.locks.findIdx (fun l => l = some k)
    ((List.range c.locks.length).zip c.locks).any (fun x => match x.2 with | some e => k.waitsFor e (x.1 < at') | none => false)

/-- A lock table without the lock of an operation. -/
def Column.unlock (c : Column) (grp slot seq : Nat) : Column :=
  { c with locks := c.locks.map (fun l => match l with
      | some k => if k.names grp slot seq then none else l
      | none => none) }

/-- The use of a completion slot (R304). -/
def Group.seqOf (g : Group) (slot : Nat) : Nat := (g.ctab[slot]?.map CSlot.seq).getD 0

/-! ### Issue (R302-R308) -/

/-- The scratchpad lines that some ranges touch. -/
def linesOf (rs : List (EAddr × Nat)) : List Nat :=
  ((rs.filter (fun r => r.1.sp = 1 && r.2 ≠ 0)).map (fun r =>
    let lo := r.1.ea.toNat
    (List.range ((lo + r.2 - 1) / 128 - lo / 128 + 1)).map (· + lo / 128))).flatten.eraseDups

/-- Bytes of scratchpad that a descriptor register names (R303, items 1 and 2). -/
def Cx.descAt (c : Cx) (r align size : Nat) : Except State Bytes :=
  let o := (c.w.rd r 0).toNat
  let a : Dword := BitVec.ofNat 64 o
  if o % align ≠ 0 then .error (c.raise 0x14 0 c.live a [])
  else if c.g.scrSize < o + size then .error (c.raise 0x16 0 c.live a [])
  else if c.g.missing o size then .error (c.park c.slot .presence)
  else if c.g.scr.poisoned o size then .error (c.raise 0x12 0 c.live a [])
  else .ok (c.g.scr.read o size)

/-- Protection (0x11) with a reason of R303 for a descriptor. -/
def Cx.badDesc (c : Cx) (r : Nat) (reason : Nat) : State := c.raise 0x11 reason c.live ((c.w.rd r 0).setWidth 64) []

/-- The footprint of an operation (R303, item 4): its first cause. -/
def Cx.footFault (c : Cx) (write : Bool) (xs : List (EAddr × Nat)) : Option State :=
  (xs.findSome? (fun x =>
    if x.2 = 0 then none
    else
      match c.s.outsideAll c.g x.1 x.2 write with
      | some k => some k
      | none =>
        let last := (x.1.plus (x.2 - 1 : Nat)).ea
        if x.1.sp = 0 && (badGlobal c.s last || last < x.1.ea) then some (0x16, last) else none)).map
    (fun k => c.raise k.1 0 c.live k.2 [])

/-- The results of a token. -/
def tokenResult (t : Nat) (tok : Dword) : Results :=
  { regs := [(t, .u (tok.setWidth 32)), (t + 1, .u ((tok >>> 32).setWidth 32))], masks := [], flags := [], gens := [] }

/-- The first checks of a slot that writes a token: held by the scoreboard, its counter, or accesses of its threads that have not
performed and that its operation must observe (R240); registers, the destination, operands that must be U. -/
def Cx.engineChecks (c : Cx) (op t : Nat) (us : List RegUse) (uniform : List Nat) : Option State :=
  let us := (0, t, 2) :: us
  if c.held us [] (some (engineCounter op)) || c.w.releaseHeld c.live then some c.s
  else
    match c.regFault us with
    | some u => some u
    | none =>
      match c.w.notU uniform with
      | some r => some (c.shape r)
      | none => (c.badResult (tokenResult t 0)).map c.shape

/-- What an instruction asks the engines for. -/
structure Order where
  op : Nat
  desc : Bytes
  addr : Dword
  arg : Nat
  recs : List ERec
  cleared : List Nat
  /-- source ranges and destination ranges to be locked -/
  lock : Option (List LRange × List LRange)

/-- An operation taken by its engine: a completion slot and, where it needs one, a lock entry; the token is written.  It
is held at issue while there is no slot, no place on the core, or no lock entry (R304, R306, R308). -/
def Cx.start (c : Cx) (t : Nat) (o : Order) (y : Bool) : State :=
  let col := c.s.column c.col
  match c.g.freeSlot with
  | none => c.s
  | some slot =>
    let place := col.locks.findIdx? Option.isNone
    if c.s.engineFull c.col o.op || (o.lock.isSome && place.isNone) then c.s
    else
      let seq := ((c.g.ctab[slot]?.map CSlot.seq).getD 0 + 1) % 65536
      let now := c.s.clock.toNat
      let entry : CSlot := { seq, kind := o.op, inFlight := true, low := 0, high := 0, doneAt := 0 }
      let eop : EngineOp :=
        { slot, op := o.op, wid := c.w.wid, flight := c.w.nextFlight, desc := o.desc, mode := c.w.ctl.toNat % 8
          addr := o.addr, arg := o.arg, recs := o.recs, cleared := o.cleared, written := [], parked := [], refused := []
          got := 0, det := 0, err := 0, cause := 0, start := now, result := none, sent := [] }
      let s := match o.lock, place with
        | some (srcs, dsts), some i =>
          let src := srcs.headD (0, 0, 0)
          let d := dsts.headD (0, 0, 0)
          c.s.setColumn c.col { col with locks := col.locks.set i (some
            { grp := c.g.uid, ctx := c.g.ctx, slot, op := o.op, srcSpace := src.1, srcLo := src.2.1, srcHi := src.2.2
              dstSpace := d.1, dstLo := d.2.1, dstHi := d.2.2, more := dsts.drop 1, srcMore := srcs.drop 1, seq, start := now }) }
        | _, _ => c.s
      let g := { c.g with
        ctab := c.g.ctab.set slot entry, ops := c.g.ops ++ [eop], absent := (c.g.absent ++ o.cleared).eraseDups }
      let c : Cx := { c with s := s, g := g }
      let c := c.launchFlight (some (engineCounter o.op)) [] [] (.engine slot) none [] []
      let w := c.writeRegs (tokenResult t (tokenOf seq o.op slot))
      { c with w := w }.finish y

/-! ### Ends of operations (R305-R307) -/

/-- A flight ends: it is no more, the counter it holds falls (R98, R99), and its writes inside the module are acknowledged with
it, as an atomic's are by its value (R243). -/
def Warp.endFlight (w : Warp) (id : Nat) : Warp :=
  match w.flights.find? (fun f => f.id = id) with
  | none => w
  | some f =>
    { w with flights := w.flights.filter (fun f => f.id ≠ id), yields := w.yields.filter (fun y => y ≠ id)
             unack := w.unack.filter (fun a => a.flight ≠ some id) }.uncount f.counter

/-- Presence bits set (R224), and the barrier phases completed that no parked element holds up any more (R340). -/
def Group.setPresent (g : Group) (ls : List Nat) : Group :=
  (({ g with absent := g.absent.filter (fun l => !ls.contains l) } : Group).wake (fun x => x = Wait.presence)).phases

/-- The use of a completion slot that a session's MRGO took. -/
def Session.seq (x : Session) : Nat := (x.tokens.head?.map Prod.snd).getD 0

/-- A session put back where it stands. -/
def Group.putSession (g : Group) (x : Session) : Group :=
  let same (y : Option Session) : Bool := match y with
    | some y => y.tokens.head? = x.tokens.head?
    | none => false
  { g with session := if same g.session then some x else g.session, closing := if same g.closing then some x else g.closing }

/-- The session closes: the network and its lock are free (R325, R308). -/
def State.closeSession (s : State) (grp : Nat) : State :=
  match s.group grp with
  | none => s
  | some g =>
    match g.closing with
    | none => s
    | some x =>
      let x : Session := { x with state := .closed }
      let s := s.updGroup grp (fun g => { g.putSession x with closing := none, lastClosed := some x })
      s.updColumn g.col (fun k => { k.unlock grp x.slot x.seq with merge := if k.merge = some grp then none else k.merge })

/-- An operation completes with a status: its presence bits, its lock, its counter (R305-R308).  The lock of MRGO is held
until MRGC ends, which also frees the merge network (R325). -/
def State.finishOp (s : State) (grp slot : Nat) (low high : Word) : State :=
  match s.group grp with
  | none => s
  | some g =>
    match g.opIn slot with
    | none => s
    | some o =>
      let g : Group := { g with
        ops := g.ops.filter (fun x => x.slot ≠ slot)
        ctab := (match g.ctab[slot]? with
          | some k => g.ctab.set slot { k with inFlight := false, low, high, doneAt := s.clock.toNat }
          | none => g.ctab)
        warps := g.warps.map (fun w => if w.wid = o.wid then w.endFlight o.flight else w) }
      let g := (g.setPresent o.cleared).wake (fun x => x = Wait.token)
      let s := s.setGroup g
      let s : State := { s with faultq := s.faultq.map (fun q => q.filter (fun e =>
        !(e.grp = grp && e.wslot = slot && (e.kind = 1 || e.kind = 2 || e.kind = 4)))) }
      if o.op = 0xD6 then s
      else if o.op = 0xD8 then s.closeSession grp
      else s.updColumn g.col (fun k => k.unlock grp slot (g.seqOf slot))

/-- The entry of an engine's access (R409). -/
def engineFault (g : Group) (o : EngineOp) (kind acc idx : Nat) (va : Dword) : FaultEntry :=
  { va, ctx := g.ctx, kind, acc, col := g.col, wslot := o.slot, log := 0, idx, stat := 0, seq := 0
    grp := g.uid, wid := o.wid, fdom := none }

/-- An operation replaced in its group. -/
def Group.setOp (g : Group) (o : EngineOp) : Group := { g with ops := g.ops.map (fun x => if x.slot = o.slot then o else x) }

/-- A status is reached: the operation ends, or first awaits the acknowledgements of its writes to peers (R243). -/
def Unit.settle (u : Unit) (o : EngineOp) (low high : Word) : State :=
  let s := u.s.setGroup u.g
  if u.sent = [] && o.sent = [] then s.finishOp u.g.uid o.slot low high
  else
    let acks : List Unack := u.sent.map (fun t => { tag := t.1, since := s.clock.toNat, flight := none, addr := t.2 })
    s.updGroup u.g.uid (fun g => g.setOp { o with result := some (low, high), sent := o.sent ++ acks })

/-! ### TOKW, TOKQ, CANCEL (R309-R311) -/

/-- The token in a pair of registers. -/
def Cx.token (c : Cx) (t : Nat) : Dword := c.w.rd (t + 1) 0 ++ c.w.rd t 0

/-- The checks of a slot that reads a token. -/
def Cx.tokenChecks (c : Cx) (t : Nat) (us : List RegUse) : Option State :=
  let us := (0, t, 2) :: us
  if c.held us [] none then some c.s
  else
    match c.regFault us with
    | some u => some u
    | none => (c.w.notU [t, t + 1]).map c.shape

/-- TOKW (R309): it parks until the operation is done; a cause in the status is then delivered (R397, R399). -/
def execTokw (e : EFields) (s : State) : Host.Outcome State Fault Refusal :=
  match cx s with
  | none => .next s
  | some c =>
    let t := e.tok.toNat
    match c.tokenChecks t [] with
    | some u => .next u
    | none =>
      let tok := c.token t
      if !c.g.tokenDone tok then .next (c.park c.slot .token)
      else
        let (lo, hi) := c.g.status tok
        let cause := lo.toNat / 65536 % 256
        let k : Cause := { c.cause cause 0 c.live 0
          [hi, lo &&& 0xFFFF#32, 0, tok.setWidth 32, (tok >>> 32).setWidth 32, (bits tok 40 8).setWidth 32] with
          prec := false, src := 1, rslot := 0 }
        let c := if cause = 0 then c else { c with w := { c.w with causes := c.w.causes ++ [k] } }
        .next (c.finish e.y)

/-- TOKQ (R310). -/
def execTokq (e : EFields) (s : State) : Host.Outcome State Fault Refusal :=
  match cx s with
  | none => .next s
  | some c =>
    let t := e.tok.toNat
    let a := e.a.toNat
    match c.tokenChecks t [(1, a, 2)] with
    | some u => .next u
    | none =>
      let (lo, hi) := c.g.status (c.token t)
      let r : Results := { regs := [(a, .u lo), (a + 1, .u hi)], masks := [], flags := [], gens := [] }
      match c.badResult r with
      | some q => .next (c.shape q)
      | none => .next ((c.launchFlight none (c.dests r) [] .result none [] []).finish e.y)

/-- A list without the last occurrence of an entry. -/
def eraseLast (l : List Nat) (a : Nat) : List Nat := (l.reverse.erase a).reverse

/-- The merge network of a core passes from a group on (R325). -/
def Column.leaveMerge (c : Column) (grp : Nat) : Column :=
  { c with merge := (if c.merge = some grp then none else c.merge), mergeWait := c.mergeWait.filter (· ≠ grp) }

/-- The count that an operation has reached (R305): that of its status where it only awaits acknowledgements (R311). -/
def EngineOp.counted (o : EngineOp) : Word :=
  match o.result with
  | some r => r.2
  | none => BitVec.ofNat 32 o.got

/-- A session discarded (R311, R325): its operations end with CANC, its lock and the network are free; what MRGS reads then is
the session of an MRGC in flight, or the last that closed (R331). -/
def State.discardSession (s : State) (grp : Nat) : State :=
  match s.group grp with
  | none => s
  | some g =>
    match g.session with
    | none => s
    | some x =>
      let gone := g.ops.filter (fun o => (o.op = 0xD6 || o.op = 0xD7) && x.tokens.contains (o.slot, g.seqOf o.slot))
      let s := s.updGroup grp (fun g => { g with session := if g.closing.isSome then g.closing else g.lastClosed })
      let s := gone.foldl (fun (s : State) o => s.finishOp grp o.slot (statusLow true o.err o.cause o.det) o.counted) s
      s.updColumn g.col (fun k =>
        let k := k.unlock grp x.slot x.seq
        if x.state = .opened then { k with merge := if k.merge = some grp then none else k.merge }
        else { k with mergeWait := eraseLast k.mergeWait grp })

/-- A session can still be discarded: it waits or is open (R329). -/
def Session.live (x : Session) : Bool := x.state = .waiting || x.state = .opened

/-- CANCEL (R311).  A token of MRGO or MRGP discards the session that it belongs to, also when its own operation is done
(R325, R327); of a session that MRGC merges, it is held until the merge completes, as CANCEL of MRGC is. -/
def execCancel (e : EFields) (s : State) : Host.Outcome State Fault Refusal :=
  match cx s with
  | none => .next s
  | some c =>
    let t := e.tok.toNat
    match c.tokenChecks t [] with
    | some u => .next u
    | none =>
      let tok := c.token t
      let (slot, stale) := c.g.slotOf tok
      let seq := (bits tok 48 16).toNat
      let mine : Bool := match c.g.session with
        | some x => x.live && x.tokens.contains (slot, seq)
        | none => false
      let fin := c.finish e.y
      if stale then .next fin
      else if mine then .next (fin.discardSession c.g.uid)
      else
        match c.g.opIn slot with
        | none => .next fin
        | some o =>
          if 0xD6 ≤ o.op && o.op ≤ 0xD8 then .next s
          else .next (fin.finishOp c.g.uid slot (statusLow true o.err o.cause o.det) o.counted)

end Sys2Proof.Machine
end

