-- ==== Sys2Proof/Machine/Copy.lean ====
section
/-! DEFINITION. The copy engine: CPY, CPYX and PFL2 (R312-R319). -/

namespace Sys2Proof.Machine

/-! ### The CPY descriptor (R312) -/

def cpySsp (d : Bytes) : Nat := field d 0x20 4 % 8
def cpyDsp (d : Bytes) : Nat := field d 0x20 4 / 8 % 8
def cpySco (d : Bytes) : Nat := field d 0x20 4 / 64 % 8
def cpyNdim (d : Bytes) : Nat := field d 0x20 4 / 512 % 16
def cpyConv (d : Bytes) : Bool := (fieldW d 0x20).getLsbD 13
def cpySfmt (d : Bytes) : FSlot := FSlot.ofWord (fieldD d 0x10)
def cpyDfmt (d : Bytes) : FSlot := FSlot.ofWord (fieldD d 0x18)
def cpyExt (d : Bytes) (i : Nat) : Nat := field d (0x40 + 12 * i) 4
def cpySstr (d : Bytes) (i : Nat) : Int := (fieldW d (0x44 + 12 * i)).toInt
def cpyDstr (d : Bytes) (i : Nat) : Int := (fieldW d (0x48 + 12 * i)).toInt

/-- Element widths of source and destination (R313). -/
def cpyWidth (d : Bytes) (dst : Bool) : Nat :=
  if cpyConv d then etypeBits (if dst then cpyDfmt d else cpySfmt d).etype else 8

/-- Bytes of a row. -/
def cpyRowBytes (d : Bytes) (dst : Bool) : Nat := cpyExt d 0 * cpyWidth d dst / 8

/-- Rows: the extents of dimensions 1 and up multiplied. -/
def cpyRows (d : Bytes) : Nat := (List.range (cpyNdim d)).foldl (fun n i => if i = 0 then n else n * cpyExt d i) 1

/-- The displacement of row `r` (R313). -/
def rowDisp (d : Bytes) (str : Nat → Int) (r : Nat) : Int :=
  ((List.range (cpyNdim d)).foldl (fun (x : Int × Nat) i =>
    if i = 0 then x else (x.1 + (x.2 % cpyExt d i : Nat) * str i, x.2 / cpyExt d i)) ((0 : Int), r)).1

/-- The start of a row. -/
def cpyRowAt (d : Bytes) (dst : Bool) (r : Nat) : EAddr :=
  if dst then { sp := cpyDsp d, base := fieldD d 0x08, disp := rowDisp d (cpyDstr d) r }
  else { sp := cpySsp d, base := fieldD d 0x00, disp := rowDisp d (cpySstr d) r }

/-- The rows of a footprint. -/
def cpyFoot (d : Bytes) (dst : Bool) : List (EAddr × Nat) :=
  (List.range (cpyRows d)).map (fun r => (cpyRowAt d dst r, cpyRowBytes d dst))

/-- The bounding bytes of a footprint (R308). -/
def cpyBounds (d : Bytes) (dst : Bool) : EAddr × Nat :=
  let str := if dst then cpyDstr d else cpySstr d
  let ends := (List.range (cpyNdim d)).map (fun i => if i = 0 then (0 : Int) else ((cpyExt d i - 1 : Nat) : Int) * str i)
  let lo : Int := (ends.map (fun x => min x 0)).sum
  let hi : Int := (ends.map (fun x => max x 0)).sum
  ((cpyRowAt d dst 0).plus lo, (hi - lo).toNat + cpyRowBytes d dst)

/-- Bytes of a row's scale streams. -/
def cpyStreams (d : Bytes) : Nat := 16 * ((cpyExt d 0 + 127) / 128)

/-- The scale streams of a row (R313). -/
def cpyScaleAt (d : Bytes) (dst : Bool) (r : Nat) : EAddr :=
  { sp := if dst then cpyDsp d else cpySsp d, base := fieldD d (if dst then 0x30 else 0x28), disp := (r * cpyStreams d : Nat) }

/-- All scale streams of a side, none without blocks. -/
def cpyScales (d : Bytes) (dst : Bool) : List (EAddr × Nat) :=
  if cpyConv d && (if dst then cpyDfmt d else cpySfmt d).blk ≠ 0 then [(cpyScaleAt d dst 0, cpyRows d * cpyStreams d)] else []

/-- A slot carried in a descriptor breaks R124, R303 or R314. -/
def descSlotReason (w : Dword) : Option Nat :=
  match slotFormatReason w with
  | some r => some r
  | none => if (FSlot.ofWord w).rnd = 6 || (FSlot.ofWord w).vq then some 4 else none

/-- The first reason of R303 that a CPY descriptor meets. -/
def cpyReason (g : Group) (d : Bytes) : Option Nat :=
  let n := cpyNdim d
  let above (i : Nat) : Bool := n ≤ i && !zeroField d (0x40 + 12 * i) 12
  let blocks (f : FSlot) : Bool := cpyConv d && f.blk ≠ 0
  let four (f : FSlot) : Bool := cpyConv d && etypeBits f.etype = 4
  let split (f : FSlot) : Bool := blocks f && cpyExt d 0 % f.blockSize ≠ 0
  let ranges (dst : Bool) : List LRange := (cpyBounds d dst :: cpyScales d dst).map (fun x => x.1.range g x.2)
  firstReason
    [ (1, 2 ^ 14 ≤ field d 0x20 4 || !zeroField d 0x24 4 || !zeroField d 0x38 8 || cpySco d = 7 ||
        (!cpyConv d && (!zeroField d 0x10 8 || !zeroField d 0x18 8)) ||
        (blocks (cpySfmt d) != (fieldD d 0x28 ≠ 0)) || (blocks (cpyDfmt d) != (fieldD d 0x30 ≠ 0)) ||
        cpySstr d 0 ≠ 0 || cpyDstr d 0 ≠ 0 || (List.range 8).any above)
    , (2, n = 0 || 8 < n || (List.range n).any (fun i => cpyExt d i = 0 || 2 ^ 24 < cpyExt d i) ||
        ((four (cpySfmt d) || four (cpyDfmt d)) && cpyExt d 0 % 2 = 1) || split (cpySfmt d) || split (cpyDfmt d))
    , (3, field d 0x28 8 % 16 ≠ 0 || field d 0x30 8 % 16 ≠ 0)
    , (4, 3 < cpySsp d || 3 < cpyDsp d)
    , (5, (ranges false).any (fun a => (ranges true).any a.meets)) ]

/-! ### Rows -/

/-- The draw of an element of a conversion under a stochastic mode. -/
def unitDraw16 (n i : Nat) : Nat := Config.unitDraw n i % 65536

/-- The bits of element `i` of packed bytes. -/
def packedAt (bs : List Marked) (w i : Nat) : Nat :=
  leNat (plainBytes ((bs.drop (i * w / 8)).take ((w + 7) / 8))) / 2 ^ (i * w % 8) % 2 ^ w

/-- Element `i` of packed bytes is made of poisoned ones. -/
def packedTaint (bs : List Marked) (w i : Nat) : Bool := tainted ((bs.drop (i * w / 8)).take ((w + 7) / 8))

/-- Codes packed with their marks. -/
def packMarked (w : Nat) (cs : List (Nat × Bool)) : List Marked :=
  let bs := packCodes w (cs.map Prod.fst)
  let per := max 1 (8 / w)
  ((List.range bs.length).zip bs).map (fun x =>
    (x.2, if w < 8 then ((cs.drop (x.1 * per)).take per).any Prod.snd else ((cs[x.1 * 8 / w]?).map Prod.snd).getD false))

/-- The scales of a row's blocks, with the marks of their streams. -/
def streamScales (f : FSlot) (n : Nat) (streams : List Marked) : List ((Nat × Nat) × Bool) :=
  ((List.range ((n + 127) / 128)).map (fun j =>
    let st := (streams.drop (16 * j)).take 16
    let count := (min 128 (n - 128 * j) + f.blockSize - 1) / f.blockSize
    (decodeStream (plainBytes st) (f.senc = 2) f.nine count 0 none).map (fun s => (s, tainted st)))).flatten

/-- Two slots of one format, whose elements are copied bit for bit (R314). -/
def FSlot.same (fs fd : FSlot) : Bool := fs.etype = fd.etype && fs.blk = fd.blk && fs.senc = fd.senc && fs.nine = fd.nine

/-- The values of a row of `n` elements with the marks of the bytes that they come from. -/
def rowValues (fs : FSlot) (n : Nat) (bs streams : List Marked) : List (FVal × Bool) :=
  let w := etypeBits fs.etype
  let scales := if fs.blk = 0 then [] else streamScales fs n streams
  (List.range n).map (fun i =>
    let (sc, mark) := if fs.blk = 0 then ((127, 0), false) else scales.getD (i / fs.blockSize) ((127, 0), false)
    (elemValue fs sc.1 sc.2 (packedAt bs w i), packedTaint bs w i || mark))

/-- A row of values in a slot's format (R121, R122, R135-R137): the codes, and the scale streams with their offsets. -/
def encodedRow (fd : FSlot) (m draw : Nat) (xs : List (FVal × Bool)) : List (Nat × Bool) × List (Nat × List Marked) :=
  let n := xs.length
  if fd.blk = 0 then (((List.range n).zip xs).map (fun x => (narrowCode fd m x.2.1 (unitDraw16 draw x.1), x.2.2)), [])
  else
    let (codes, sc) := encodeBlocks fd m (unitDraw16 draw) (xs.map Prod.fst)
    let mark (b : Nat) : Bool := ((xs.drop (b * fd.blockSize)).take fd.blockSize).any Prod.snd
    let per := 128 / fd.blockSize
    let chunk (j : Nat) : Nat × List Marked :=
      let part := (sc.drop (j * per)).take per
      let bad := (List.range part.length).any (fun k => mark (j * per + k))
      (16 * j, (encodeStream (fd.senc = 2) fd.nine part).map (fun b => (b, bad)))
    (((List.range codes.length).zip codes).map (fun c => (c.2, mark (c.1 / fd.blockSize))), (List.range ((n + 127) / 128)).map chunk)

/-- A converted row (R314): its bytes, and its scale streams with their offsets. -/
def convertRow (fs fd : FSlot) (mode draw n : Nat) (bs streams : List Marked) : List Marked × List (Nat × List Marked) :=
  if fs.same fd then (bs, if fs.blk = 0 then [] else [(0, streams)])
  else
    let (codes, sc) := encodedRow fd (if fd.rnd = 0 then mode else fd.rnd) draw (rowValues fs n bs streams)
    (packMarked (etypeBits fd.etype) codes, sc)

/-- The writes of row `r` of a copy. -/
def Unit.copyRow (u : Unit) (o : EngineOp) (draw r : Nat) : Got (Unit × List (EAddr × List Marked)) :=
  let d := o.desc
  match u.peek (cpyRowAt d false r) (cpyRowBytes d false) with
  | .ok (u, bs) =>
    if !cpyConv d then .ok (u, [(cpyRowAt d true r, bs)])
    else
      let go (u : Unit) (streams : List Marked) : Got (Unit × List (EAddr × List Marked)) :=
        let (data, scs) := convertRow (cpySfmt d) (cpyDfmt d) o.mode (draw + r) (cpyExt d 0) bs streams
        .ok (u, (cpyRowAt d true r, data) :: scs.map (fun s => ((cpyScaleAt d true r).plus (s.1 : Nat), s.2)))
      if (cpySfmt d).blk = 0 then go u []
      else
        match u.peek (cpyScaleAt d false r) (cpyStreams d) with
        | .ok (u, st) => go u st
        | r => r.recast
  | r => r.recast

/-- How far an engine's writes came. -/
inductive Progress where
  | ok (u : Unit) (n : Nat)
  | stop (u : Unit) (n cause : Nat)
  | lost (cause : Nat) (va : Dword)
  | wait
  | miss (write : Bool) (va : Dword)

/-- The pieces of a scratchpad range that lie in one line each. -/
def linePieces : Nat → Nat → Nat → List (Nat × Nat)
  | 0, _, _ => []
  | k + 1, off, n =>
    if n = 0 then []
    else
      let room := min n (128 - off % 128)
      (off, room) :: linePieces k (off + room) (n - room)

/-- Bytes written where `keep` admits their scratchpad line; other spaces are written whole.  How many were written. -/
def Unit.pokeLines (u : Unit) (keep : Nat → Bool) (x : EAddr) (bs : List Marked) : Got (Unit × Nat) :=
  if x.sp ≠ 1 then
    match u.poke x bs with
    | .ok u => .ok (u, bs.length)
    | r => r.recast
  else
    let lo := x.ea.toNat
    (linePieces (bs.length / 128 + 2) lo bs.length).foldl (fun (acc : Got (Unit × Nat)) p =>
      match acc with
      | .ok (u, n) =>
        if keep (p.1 / 128) then
          match u.poke (x.plus (p.1 - lo : Nat)) ((bs.drop (p.1 - lo)).take p.2) with
          | .ok u => .ok (u, n + p.2)
          | r => r.recast
        else .ok (u, n)
      | r => r) (.ok (u, 0))

/-- Several writes, one after another. -/
def Unit.pokeSome (u : Unit) (keep : Nat → Bool) : List (EAddr × List Marked) → Nat → Progress
  | [], n => .ok u n
  | (x, bs) :: t, n =>
    match u.pokeLines keep x bs with
    | .ok (u, k) => u.pokeSome keep t (n + k)
    | .bad c _ _ => .stop u n c
    | .lost c va => .lost c va
    | .wait => .wait
    | .miss va => .miss true va

/-- Rows read and written one after another (R315). -/
def Unit.copyRows (u : Unit) (row : Unit → Nat → Got (Unit × List (EAddr × List Marked))) (keep : Nat → Bool) :
    List Nat → Nat → Progress
  | [], n => .ok u n
  | r :: t, n =>
    match row u r with
    | .ok (u, ws) =>
      match u.pokeSome keep ws n with
      | .ok u k => u.copyRows row keep t k
      | e => e
    | .bad c _ _ => .stop u n c
    | .lost c va => .lost c va
    | .wait => .wait
    | .miss va => .miss false va

/-! ### Back-reference expansion (R317-R319) -/

def cpyxClen (d : Bytes) : Nat := field d 0x10 4
def cpyxOcap (d : Bytes) : Nat := field d 0x14 4
def cpyxSsp (d : Bytes) : Nat := field d 0x18 4 % 8
def cpyxDsp (d : Bytes) : Nat := field d 0x18 4 / 8 % 8
def cpyxSrc (d : Bytes) : EAddr := { sp := cpyxSsp d, base := fieldD d 0x00, disp := 0 }
def cpyxDst (d : Bytes) : EAddr := { sp := cpyxDsp d, base := fieldD d 0x08, disp := 0 }

/-- The first reason of R303 that a job card meets. -/
def cpyxReason (g : Group) (d : Bytes) : Option Nat :=
  firstReason
    [ (1, 2 ^ 9 ≤ field d 0x18 4 || field d 0x18 4 / 64 % 8 = 7 || !zeroField d 0x1C 36)
    , (2, cpyxClen d = 0 || 2 ^ 31 < cpyxClen d || cpyxOcap d = 0 || 2 ^ 31 < cpyxOcap d)
    , (4, 3 < cpyxSsp d || 3 < cpyxDsp d)
    , (5, ((cpyxSrc d).range g (cpyxClen d)).meets ((cpyxDst d).range g (cpyxOcap d))) ]

/-- A match appended byte by byte (R318); `out` is the output, last byte first. -/
def appendMatch (f : Nat) (mark : Bool) : Nat → List Marked → List Marked
  | 0, out => out
  | n + 1, out =>
    let x := out.getD (f - 1) (0, false)
    appendMatch f mark n ((x.1, x.2 || mark) :: out)

/-- The expansion of a stream (R318, R319): the output, last byte first, and the error. -/
def expand (cap : Nat) : Nat → List Marked → List Marked → List Marked × Nat
  | 0, _, out => (out, 0)
  | fuel + 1, bs, out =>
    match bs with
    | [] => (out, 0)
    | h :: t =>
      let x := h.1.toNat
      if x < 128 then
        if t.length < x + 1 then (out, 3)
        else if cap < out.length + x + 1 then (out, 2)
        else expand cap fuel (t.drop (x + 1)) (((t.take (x + 1)).map (fun b => (b.1, b.2 || h.2))).reverse ++ out)
      else
        let long := x / 16 % 8 = 7
        let args := if long then 2 else 1
        if t.length < args then (out, 3)
        else
          let o := t.getD 0 (0, false)
          let n := t.getD 1 (0, false)
          let f := x % 16 * 256 + o.1.toNat + 1
          let len := if long then 10 + n.1.toNat else x / 16 % 8 + 3
          if out.length < f then (out, 1)
          else if cap < out.length + len then (out, 2)
          else expand cap fuel (t.drop args) (appendMatch f (h.2 || o.2 || (long && n.2)) len out)

/-- The output of a job card. -/
def Unit.expandCard (u : Unit) (d : Bytes) : Got (Unit × List Marked × Nat) :=
  match u.peek (cpyxSrc d) (cpyxClen d) with
  | .ok (u, bs) =>
    let (out, err) := expand (cpyxOcap d) (bs.length + 1) bs []
    .ok (u, out.reverse, err)
  | r => r.recast

/-! ### Issue -/

/-- Format slot (0x23) of a slot carried in a descriptor (R303, R399). -/
def Cx.badDescSlot (c : Cx) (r off reason : Nat) : State :=
  c.raise 0x23 reason c.live ((c.w.rd r 0).setWidth 64) [BitVec.ofNat 32 (0x100 + off)]

def execCpy (e : EFields) (s : State) : Host.Outcome State Fault Refusal :=
  match cx s with
  | none => .next s
  | some c =>
    let r := e.desc.toNat
    match c.engineChecks 0xD0 e.tok.toNat [(1, r, 1)] [r] with
    | some t => .next t
    | none =>
      match c.descAt r 32 160 with
      | .error t => .next t
      | .ok d =>
        let slot (off : Nat) : Option Nat := if cpyConv d then descSlotReason (fieldD d off) else none
        match slot 0x10, slot 0x18 with
        | some k, _ => .next (c.badDescSlot r 0x10 k)
        | _, some k => .next (c.badDescSlot r 0x18 k)
        | none, none =>
          match cpyReason c.g d with
          | some k => .next (c.badDesc r k)
          | none =>
            let srcs := cpyBounds d false :: cpyScales d false
            let dsts := cpyBounds d true :: cpyScales d true
            match c.footFault false (cpyFoot d false ++ cpyScales d false), c.footFault true (cpyFoot d true ++ cpyScales d true) with
            | some t, _ => .next t
            | _, some t => .next t
            | none, none =>
              .next (c.start e.tok.toNat
                { op := 0xD0, desc := d, addr := 0, arg := 0, recs := [], cleared := linesOf dsts
                  lock := some (srcs.map (fun x => x.1.range c.g x.2), dsts.map (fun x => x.1.range c.g x.2)) } e.y)

def execCpyx (e : EFields) (s : State) : Host.Outcome State Fault Refusal :=
  match cx s with
  | none => .next s
  | some c =>
    let r := e.desc.toNat
    match c.engineChecks 0xD1 e.tok.toNat [(1, r, 1)] [r] with
    | some t => .next t
    | none =>
      match c.descAt r 64 64 with
      | .error t => .next t
      | .ok d =>
        match cpyxReason c.g d with
        | some k => .next (c.badDesc r k)
        | none =>
          let src := (cpyxSrc d, cpyxClen d)
          let dst := (cpyxDst d, cpyxOcap d)
          match c.footFault false [src], c.footFault true [dst] with
          | some t, _ => .next t
          | _, some t => .next t
          | none, none =>
            .next (c.start e.tok.toNat
              { op := 0xD1, desc := d, addr := 0, arg := 0, recs := [], cleared := linesOf [dst]
                lock := some ([src.1.range c.g src.2], [dst.1.range c.g dst.2]) } e.y)

def execPfl2 (e : EFields) (s : State) : Host.Outcome State Fault Refusal :=
  match cx s with
  | none => .next s
  | some c =>
    let a := e.a.toNat
    match c.engineChecks 0xD2 e.tok.toNat [(1, a, 2)] [a, a + 1] with
    | some t => .next t
    | none =>
      let va := c.token a
      if va.toNat % 128 ≠ 0 then .next (c.raise 0x14 0 c.live va [])
      else if badGlobal c.s va then .next (c.raise 0x16 0 c.live va [])
      else
        .next (c.start e.tok.toNat
          { op := 0xD2, desc := [], addr := va, arg := e.imm.toNat, recs := [], cleared := [], lock := none } e.y)

/-! ### Completion -/

/-- Lines of PFL2 brought in by their owners, and those skipped for want of a translation (R316), with the cause that stops it
(R315) and the line that the switch refuses (R459); what a peer finds is free. -/
structure Prefetched where
  s : State
  here : Nat
  gone : Nat
  cause : Nat
  lost : Option Dword

/-- One line more. -/
def Prefetched.line (p : Prefetched) (g : Group) (a : Dword) : Prefetched :=
  let skip : Prefetched := { p with gone := p.gone + 1 }
  let take (s : State) : Prefetched := { p with s, here := p.here + 1 }
  if p.cause ≠ 0 || p.lost.isSome then p
  else if badGlobal p.s a then skip
  else if isPeer a then
    let c := p.s.peerCause a
    let s := p.s.requestRead g.ctx (lanternOf g.col) a 128
    if c = 0 then take s else if c = peerRefused then skip
    else if c = 0x50 then { p with lost := some a } else { p with s, cause := c }
  else
    match p.s.translate g.ctx (lanOf a) (offOf a) .read with
    | .ok _ => take (p.s.gatherVa g 0 a false)
    | .error c => if c = 0x10 then skip else { p with cause := c }

/-- The lines of a PFL2. -/
def pfl2Lines (va : Dword) (n : Nat) : List Dword := (List.range n).map (fun i => va + BitVec.ofNat 64 (128 * i))

/-- Some line of a PFL2 is of a slice that is shutting down (R233). -/
def State.linesPark (s : State) (g : Group) (as : List Dword) : Bool := as.any (fun a => s.devParks g.ctx a 1)

/-- The writes that CPY and CPYX make where `keep` admits them; the error of CPYX. -/
def Unit.copyWork (u : Unit) (o : EngineOp) (keep : Nat → Bool) (draw : Nat) : Progress × Nat :=
  if o.op = 0xD0 then (u.copyRows (fun u r => u.copyRow o draw r) keep (List.range (cpyRows o.desc)) 0, 0)
  else
    match u.expandCard o.desc with
    | .ok (u, out, err) => (u.pokeSome keep (if out = [] then [] else [(cpyxDst o.desc, out)]) 0, err)
    | .bad c _ _ => (.stop u 0 c, 0)
    | .lost c va => (.lost c va, 0)
    | .wait => (.wait, 0)
    | .miss va => (.miss false va, 0)

/-- The end of what an engine's access met: it waits, or the operation stops with a cause (R315). -/
def Unit.stopped (u : Unit) (o : EngineOp) (n cause : Nat) : State :=
  u.settle o (statusLow false o.err cause o.det) (BitVec.ofNat 32 (o.got + n))

/-- A line of CPY or CPYX written (R307). -/
def State.copyLine (s : State) (g : Group) (o : EngineOp) (line : Nat) : State :=
  let (n, s') := s.draw
  let u : Unit := { s := s', g, sent := [] }
  match (u.copyWork o (fun l => l = line) n).1 with
  | .ok u k => u.s.setGroup ((u.g.setOp { o with got := o.got + k, written := o.written ++ [line] }).setPresent [line])
  | .stop u k c => u.stopped o k c
  | .lost c va => s.lostRead g.uid o.wid o.flight c va
  | .wait => s
  | .miss w va => s.queueFault (engineFault g o 4 (if w then 1 else 0) 0 va)

/-- CPY, CPYX or PFL2 completed (R305). -/
def State.copyEnd (s : State) (g : Group) (o : EngineOp) : State :=
  let (n, s') := s.draw
  let u : Unit := { s := s', g, sent := [] }
  if o.op = 0xD2 then
    let lines := pfl2Lines o.addr o.arg
    if s.linesPark g lines then s
    else
      let p := lines.foldl (fun (p : Prefetched) a => p.line g a) { s := s', here := 0, gone := 0, cause := 0, lost := none }
      match p.lost with
      | some va => s.lostRead g.uid o.wid o.flight 0x50 va
      | none => ({ s := p.s, g, sent := [] } : Unit).settle o (statusLow false (if p.gone = 0 then 0 else 8) p.cause p.gone)
        (BitVec.ofNat 32 p.here)
  else
    let (r, err) := u.copyWork o (fun l => !o.written.contains l) n
    match r with
    | .ok u k => u.settle o (statusLow false err 0 0) (BitVec.ofNat 32 (o.got + k))
    | .stop u k c => u.stopped o k c
    | .lost c va => s.lostRead g.uid o.wid o.flight c va
    | .wait => s
    | .miss w va => s.queueFault (engineFault g o 4 (if w then 1 else 0) 0 va)

end Sys2Proof.Machine
end

