-- ==== Sys2Proof/Machine/Index.lean ====
section
/-! DEFINITION. The index engine: GATHR, SCATB and BINRPL (R320-R323). -/

namespace Sys2Proof.Machine

/-- The operations of SCATB and of the merge combiner (R320); a reserved code of a record in memory gives a free value. -/
def combine (op : Nat) (e x free : Word) : Word :=
  match op with
  | 0 => addF32 e x
  | 1 => e + x
  | 2 => if e.toInt ≤ x.toInt then e else x
  | 3 => if x.toInt ≤ e.toInt then e else x
  | 4 => x
  | _ => free

/-! ### GATHR -/

def gatBase (d : Bytes) : Dword := fieldD d 0x00
def gatIdx (d : Bytes) : Nat := field d 0x08 4
def gatDst (d : Bytes) : Nat := field d 0x0C 4
def gatN (d : Bytes) : Nat := field d 0x10 4
def gatEstr (d : Bytes) : Nat := field d 0x14 4
def gatLim (d : Bytes) : Nat := field d 0x18 4
def gatSsp (d : Bytes) : Nat := field d 0x1C 4 % 8
def gatEsz (d : Bytes) : Nat := 2 ^ (field d 0x1C 4 / 8 % 8)

/-- The first reason of R303 that a GATHR descriptor meets. -/
def gatReason (g : Group) (d : Bytes) : Option Nat :=
  let idx : EAddr := { sp := 1, base := BitVec.ofNat 64 (gatIdx d), disp := 0 }
  let dst : EAddr := { sp := 1, base := BitVec.ofNat 64 (gatDst d), disp := 0 }
  firstReason
    [ (1, 2 ^ 9 ≤ field d 0x1C 4 || 4 < field d 0x1C 4 / 8 % 8 || field d 0x1C 4 / 64 % 8 = 7 || !zeroField d 0x30 16)
    , (2, gatN d = 0 || 4096 < gatN d || gatLim d = 0)
    , (3, gatIdx d % 4 ≠ 0 || gatDst d % gatEsz d ≠ 0 || gatEstr d % gatEsz d ≠ 0)
    , (4, gatSsp d ≠ 0 && gatSsp d ≠ 2 && gatSsp d ≠ 3)
    , (5, (idx.range g (4 * gatN d)).meets (dst.range g (gatN d * gatEsz d))) ]

/-- The index list and the destination. -/
def gatIdxAt (d : Bytes) : EAddr := { sp := 1, base := BitVec.ofNat 64 (gatIdx d), disp := 0 }
def gatDstAt (d : Bytes) : EAddr := { sp := 1, base := BitVec.ofNat 64 (gatDst d), disp := 0 }

/-- The source of an index. -/
def gatSrcAt (d : Bytes) (i : Nat) : EAddr := { sp := gatSsp d, base := gatBase d, disp := (i * gatEstr d : Nat) }

/-- The elements that an index may name (R303, R320). -/
def gatFoot (d : Bytes) : List (EAddr × Nat) :=
  (List.range (if gatEstr d = 0 then 1 else gatLim d)).map (fun i => (gatSrcAt d i, gatEsz d))

def execGathr (e : EFields) (s : State) : Host.Outcome State Fault Refusal :=
  match cx s with
  | none => .next s
  | some c =>
    let r := e.desc.toNat
    match c.engineChecks 0xD3 e.tok.toNat [(1, r, 1)] [r] with
    | some t => .next t
    | none =>
      match c.descAt r 64 64 with
      | .error t => .next t
      | .ok d =>
        match gatReason c.g d with
        | some k => .next (c.badDesc r k)
        | none =>
          let idx := (gatIdxAt d, 4 * gatN d)
          let dst := (gatDstAt d, gatN d * gatEsz d)
          match c.footFault false (idx :: gatFoot d), c.footFault true [dst] with
          | some t, _ => .next t
          | _, some t => .next t
          | none, none =>
            .next (c.start e.tok.toNat
              { op := 0xD3, desc := d, addr := 0, arg := 0, recs := [], cleared := linesOf [dst]
                lock := some ([idx.1.range c.g idx.2], [dst.1.range c.g dst.2]) } e.y)

/-- What an element of GATHR gives: its bytes; the fill value, with a cause or none; or no translation yet. -/
inductive Elem where
  | val (u : Unit) (bs : List Marked)
  | fill (cause : Nat)
  | lost (cause : Nat) (va : Dword)
  | miss (va : Dword)
  | wait

/-- Element `i` of GATHR (R320, R323). -/
def Unit.element (u : Unit) (o : EngineOp) (i : Nat) : Elem :=
  let d := o.desc
  if o.refused.contains i then .fill 0x10
  else
    match u.peek ((gatIdxAt d).plus (4 * i : Nat)) 4 with
    | .ok (u, ib) =>
      let idx := leNat (plainBytes ib)
      if gatLim d ≤ idx then .fill 0
      else
        match u.peek (gatSrcAt d idx) (gatEsz d) with
        | .ok (u, bs) => .val u (bs.map (fun b => (b.1, b.2 || tainted ib)))
        | .bad c _ _ => .fill c
        | .lost c va => if c = 0x50 then .lost c va else .fill c
        | .miss va => .miss va
        | .wait => .wait
    | .lost c va => .lost c va
    | _ => .wait

/-- Elements of GATHR whose destinations `keep` admits, written; what the operation counts, its first cause, the
elements that are parked, and whether something waits. -/
structure Gathered where
  u : Unit
  got : Nat
  det : Nat
  cause : Nat
  parked : List Parked
  held : Bool
  lost : Option (Nat × Dword)

/-- Elements handled in ascending order (R323). -/
def Unit.gatherElems (u : Unit) (o : EngineOp) (is : List Nat) : Gathered :=
  let d := o.desc
  is.foldl (fun (r : Gathered) i =>
    let put (u : Unit) (bs : List Marked) : Unit :=
      match u.poke ((gatDstAt d).plus (i * gatEsz d : Nat)) bs with
      | .ok u => u
      | _ => u
    match r.u.element o i with
    | .val u bs => { r with u := put u bs, got := r.got + 1 }
    | .fill c =>
      { r with u := put r.u (clean ((d.drop 0x20).take (gatEsz d))), got := r.got + 1, det := r.det + 1
               cause := if r.cause = 0 then c else r.cause }
    | .miss va => { r with parked := r.parked ++ [{ index := i, va }] }
    | .lost c va => { r with lost := some (c, va) }
    | .wait => { r with held := true }) { u, got := 0, det := 0, cause := o.cause, parked := [], held := false, lost := none }

/-- Elements parked: each takes its entry (R323, R409). -/
def State.parkElems (s : State) (g : Group) (o : EngineOp) (kind : Nat) (write : Bool) (ps : List Parked) : State :=
  let kept := o.parked.filter (fun p => !ps.any (fun q => q.index = p.index))
  let s := s.updGroup g.uid (fun g => g.setOp { o with parked := kept ++ ps })
  ps.foldl (fun s p => s.queueFault (engineFault g o kind (if write then 1 else 0) p.index p.va)) s

/-- The elements of a line. -/
def lineElems (d : Bytes) (line : Nat) : List Nat :=
  (List.range (gatN d)).filter (fun i => (gatDst d + i * gatEsz d) / 128 = line)

/-- A line of GATHR written, unless some of its elements are parked (R307, R323). -/
def State.gatherLine (s : State) (g : Group) (o : EngineOp) (line : Nat) : State :=
  let is := lineElems o.desc line
  let r := ({ s, g, sent := [] } : Unit).gatherElems o is
  if r.parked ≠ [] then s.parkElems g o 1 false r.parked
  else if r.held then s
  else if let some (c, va) := r.lost then s.lostRead g.uid o.wid o.flight c va
  else
    let o' := { o with
      got := o.got + r.got, det := o.det + r.det, cause := r.cause, written := o.written ++ [line]
      parked := o.parked.filter (fun p => !is.contains p.index) }
    r.u.s.setGroup ((r.u.g.setOp o').setPresent [line])

/-- GATHR completed: no element is parked (R323). -/
def State.gatherEnd (s : State) (g : Group) (o : EngineOp) : State :=
  let is := (List.range (gatN o.desc)).filter (fun i => !o.written.contains ((gatDst o.desc + i * gatEsz o.desc) / 128))
  let r := ({ s, g, sent := [] } : Unit).gatherElems o is
  if r.parked ≠ [] then s.parkElems g o 1 false r.parked
  else if r.held then s
  else if let some (c, va) := r.lost then s.lostRead g.uid o.wid o.flight c va
  else r.u.settle o (statusLow false 0 r.cause (o.det + r.det)) (BitVec.ofNat 32 (o.got + r.got))

/-! ### SCATB -/

def binBins (d : Bytes) : Dword := fieldD d 0x00
def binData (d : Bytes) : Dword := fieldD d 0x08
def binBstr (d : Bytes) : Nat := field d 0x10 4
def binRsh (d : Bytes) : Nat := field d 0x14 1
def binNreg (d : Bytes) : Nat := field d 0x18 4
def binStg (d : Bytes) : Word := fieldW d 0x1C
/-- Records that a bin holds (R320). -/
def binCap (d : Bytes) : Nat := (binBstr d - 16) / 16

/-- The first reason of R303 that a bin-set descriptor meets. -/
def binReason (d : Bytes) : Option Nat :=
  firstReason
    [ (1, !zeroField d 0x15 3)
    , (2, binRsh d < 5 || 20 < binRsh d || binNreg d = 0 || 2 ^ 24 < binNreg d || binBstr d < 64)
    , (3, (binBins d).toNat % 64 ≠ 0 || (binData d).toNat % 128 ≠ 0 || binBstr d % 64 ≠ 0 || (binStg d).toNat % 128 ≠ 0) ]

/-- A bin and a place in it. -/
def binAt (d : Bytes) (r off : Nat) : EAddr := { sp := 0, base := binBins d, disp := (r * binBstr d + off : Nat) }

/-- A region. -/
def regionAt (d : Bytes) (r : Nat) : EAddr := { sp := 0, base := binData d, disp := (4 * r * 2 ^ binRsh d : Nat) }

def execScatb (e : EFields) (s : State) : Host.Outcome State Fault Refusal :=
  match cx s with
  | none => .next s
  | some c =>
    let r := e.desc.toNat
    let a := e.a.toNat
    match c.engineChecks 0xD4 e.tok.toNat [(1, r, 1), (1, a, 2)] [r] with
    | some t => .next t
    | none =>
      match c.descAt r 32 32 with
      | .error t => .next t
      | .ok d =>
        match binReason d with
        | some k => .next (c.badDesc r k)
        | none =>
          match c.footFault true [(binAt d 0 0, binNreg d * binBstr d)] with
          | some t => .next t
          | none =>
            let recs : List ERec := ((lanesOf (c.live &&& ~~~c.w.help)).map (fun l =>
              { index := l, key := (c.w.rd a l).setWidth 64, val := c.w.rd (a + 1) l }))
            .next (c.start e.tok.toNat
              { op := 0xD4, desc := d, addr := 0, arg := e.sub.toNat % 8, recs, cleared := [], lock := none } e.y)

/-- What becomes of a record of SCATB. -/
inductive Append where
  | done (u : Unit)
  | full
  | bad (cause : Nat)
  | lost (cause : Nat) (va : Dword)
  | miss (va : Dword)
  | wait

/-- A record appended to its bin (R321): the count's increment and the record in one step. -/
def Unit.appendRec (u : Unit) (o : EngineOp) (x : ERec) : Append :=
  let d := o.desc
  let r := x.key.toNat / 2 ^ binRsh d
  if binNreg d ≤ r then .bad 0
  else
    let head := binAt d r 0
    match u.peek head 4 with
    | .ok (u, hb) =>
      let n := leNat (plainBytes hb)
      if binCap d ≤ n then .full
      else
        let rec' := wordBytes (x.key.setWidth 32) ++ wordBytes x.val ++ toBytes 8 o.arg
        match u.poke (binAt d r (16 + 16 * n)) (clean rec') with
        | .ok u =>
          match u.poke head ((toBytes 4 (n + 1)).map (fun b => (b, tainted hb))) with
          | .ok u => .done u
          | .bad c _ _ => .bad c
          | .lost c va => .lost c va
          | .miss va => .miss va
          | .wait => .wait
        | .bad c _ _ => .bad c
        | .lost c va => .lost c va
        | .miss va => .miss va
        | .wait => .wait
    | .bad c _ _ => .bad c
    | .lost c va => if c = 0x50 then .lost c va else .bad c
    | .miss va => .miss va
    | .wait => .wait

/-- The progress of a SCATB. -/
structure Scattered where
  u : Unit
  o : EngineOp
  left : List ERec
  parked : List Parked
  held : Bool
  lost : Option (Nat × Dword)

/-- Records handled in lane order; a record that meets a translation fault is parked and the rest proceed (R323). -/
def Unit.scatter (u : Unit) (o : EngineOp) : Scattered :=
  o.recs.foldl (fun (r : Scattered) x =>
    if r.held then { r with left := r.left ++ [x] }
    else if o.refused.contains x.index then
      { r with o := { r.o with det := r.o.det + 1, cause := if r.o.cause = 0 then 0x10 else r.o.cause } }
    else
      match r.u.appendRec o x with
      | .done u => { r with u, o := { r.o with got := r.o.got + 1 } }
      | .full => { r with o := { r.o with det := r.o.det + 1, err := 4 } }
      | .bad c => { r with o := { r.o with det := r.o.det + 1, cause := if r.o.cause = 0 then c else r.o.cause } }
      | .miss va => { r with left := r.left ++ [x], parked := r.parked ++ [{ index := x.index, va }] }
      | .lost c va => { r with left := r.left ++ [x], lost := some (c, va) }
      | .wait => { r with left := r.left ++ [x], held := true }) { u, o, left := [], parked := [], held := false, lost := none }

/-- SCATB completed, or its parked records left for later (R321, R323). -/
def State.scatterEnd (s : State) (g : Group) (o : EngineOp) : State :=
  let r := ({ s, g, sent := [] } : Unit).scatter o
  let o' := { r.o with recs := r.left, parked := r.parked }
  if r.left = [] then
    ({ r.u with g := r.u.g.setOp o' } : Unit).settle o' (statusLow false o'.err o'.cause o'.det) (BitVec.ofNat 32 o'.got)
  else
    let acks : List Unack := r.u.sent.map (fun t => { tag := t.1, since := r.u.s.clock.toNat, flight := none, addr := t.2 })
    let o' := { o' with sent := o'.sent ++ acks }
    let t := (r.u.s.setGroup (r.u.g.setOp o')).parkElems g o' 2 true r.parked
    match r.lost with
    | some (c, va) => t.lostRead g.uid o.wid o.flight c va
    | none => t

/-! ### BINRPL -/

/-- The staging area (R320). -/
def stgAt (d : Bytes) : EAddr :=
  let w := binStg d
  if w.getLsbD 31 then { sp := 2, base := (w &&& 0x7FFFFFFF#32).setWidth 64, disp := 0 } else { sp := 1, base := w.setWidth 64, disp := 0 }

/-- Bytes of a region. -/
def regionBytes (d : Bytes) : Nat := 4 * 2 ^ binRsh d

def execBinrpl (e : EFields) (s : State) : Host.Outcome State Fault Refusal :=
  match cx s with
  | none => .next s
  | some c =>
    let r := e.desc.toNat
    match c.engineChecks 0xD5 e.tok.toNat [(1, r, 1)] [r] with
    | some t => .next t
    | none =>
      match c.descAt r 32 32 with
      | .error t => .next t
      | .ok d =>
        let n := e.imm.toNat
        let bin := (binAt d n 0, binBstr d)
        let dsts := [(regionAt d n, regionBytes d), (stgAt d, regionBytes d)]
        let clash := dsts.any (fun x => (x.1.range c.g x.2).meets (bin.1.range c.g bin.2))
        match binReason d, decide (binNreg d ≤ n), clash with
        | some 1, _, _ => .next (c.badDesc r 1)
        | _, true, _ => .next (c.badDesc r 2)
        | some k, _, _ => .next (c.badDesc r k)
        | none, false, true => .next (c.badDesc r 5)
        | none, false, false =>
          match c.footFault true (bin :: dsts) with
          | some t => .next t
          | none =>
            .next (c.start e.tok.toNat
              { op := 0xD5, desc := d, addr := 0, arg := n, recs := [], cleared := linesOf dsts
                lock := some ([bin.1.range c.g bin.2], dsts.map (fun x => x.1.range c.g x.2)) } e.y)

/-- The elements of a region after the records of its bin, in order (R322). -/
def replayBin (d : Bytes) (free : Word) (region recs : List Marked) (n : Nat) : List Marked :=
  (List.range n).foldl (fun (stg : List Marked) i =>
    let r := (recs.drop (16 * i)).take 16
    let at' := 4 * (field (plainBytes r) 0 4 % 2 ^ binRsh d)
    let old := (stg.drop at').take 4
    let v := combine (field (plainBytes r) 8 1) (fieldW (plainBytes old) 0) (fieldW (plainBytes r) 4) free
    let mark := tainted old || tainted r
    stg.take at' ++ (wordBytes v).map (fun b => (b, mark)) ++ stg.drop (at' + 4)) region

/-- BINRPL completed: the region copied to the staging area, the records applied there, the region and the count written, the
count last (R322); it stops at the first cause with the records applied so far (R323). -/
def State.replayEnd (s : State) (g : Group) (o : EngineOp) : State :=
  let d := o.desc
  let (k, s') := s.draw
  let u : Unit := { s := s', g, sent := [] }
  let hold (write : Bool) (va : Dword) : State := s.queueFault (engineFault g o 4 (if write then 1 else 0) 0 va)
  let stop (u : Unit) (c n : Nat) : State := u.settle o (statusLow false 0 c 0) (BitVec.ofNat 32 n)
  let lost (c : Nat) (va : Dword) : State := s.lostRead g.uid o.wid o.flight c va
  match u.peek (regionAt d o.arg) (regionBytes d) with
  | .bad c _ _ => stop u c 0
  | .lost c va => lost c va
  | .miss va => hold false va
  | .wait => s
  | .ok (u, region) =>
    match u.poke (stgAt d) region with
    | .bad c _ _ => stop u c 0
    | .lost c va => lost c va
    | .miss va => hold true va
    | .wait => s
    | .ok u =>
      match u.peek (binAt d o.arg 0) (binBstr d) with
      | .bad c _ _ => stop u c 0
      | .lost c va => lost c va
      | .miss va => hold false va
      | .wait => s
      | .ok (u, bin) =>
        let n := min (leNat (plainBytes (bin.take 4))) (binCap d)
        let stg := replayBin d (BitVec.ofNat 32 (Config.unitDraw k 0)) region (bin.drop 16) n
        match u.pokeSome (fun _ => true) [(stgAt d, stg), (regionAt d o.arg, stg), (binAt d o.arg 0, clean (toBytes 4 0))] 0 with
        | .ok u _ => stop u 0 n
        | .stop u _ c => stop u c n
        | .lost c va => lost c va
        | .wait => s
        | .miss w va => hold w va

end Sys2Proof.Machine
end

