-- ==== Sys2Proof/Machine/Merge.lean ====
section
/-! DEFINITION. The merge network: MRGO, MRGP, MRGC and MRGS, and the ends of their operations (R324-R331). -/

namespace Sys2Proof.Machine

/-! ### The session descriptor (R324) -/

def mrgOut (d : Bytes) : Dword := fieldD d 0x00
def mrgVout (d : Bytes) : Dword := fieldD d 0x08
def mrgSpill (d : Bytes) : Dword := fieldD d 0x10
def mrgScap (d : Bytes) : Nat := field d 0x18 4
def mrgOcap (d : Bytes) : Nat := field d 0x1C 4
def mrgRoff (d : Bytes) : Dword := fieldD d 0x20
def mrgNrow (d : Bytes) : Nat := field d 0x28 4
def mrgForm (d : Bytes) : Bool := (fieldW d 0x2C).getLsbD 0
def mrgCop (d : Bytes) : Nat := field d 0x2C 4 / 2 % 8
def mrgKw (d : Bytes) : Bool := (fieldW d 0x2C).getLsbD 4
def mrgRin (d : Bytes) : Bool := (fieldW d 0x2C).getLsbD 5
def mrgSco (d : Bytes) : Nat := field d 0x2C 4 / 64 % 8
def mrgNstr (d : Bytes) : Nat := field d 0x2C 4 / 512 % 16 + 1
def mrgOsp (d : Bytes) : Nat := field d 0x2C 4 / 8192 % 8
def mrgSsp (d : Bytes) : Nat := field d 0x2C 4 / 65536 % 8
def mrgRuns (d : Bytes) : Dword := fieldD d 0x30

/-- Records of the run buffer (R325), and those of a stream's partition. -/
def runBuffer : Nat := 16384
def mrgPart (d : Bytes) : Nat := runBuffer / mrgNstr d

/-- Where the shares begin (R326), and the bytes of one. -/
def shareBase : Nat := 4160
def mrgShare (d : Bytes) : Nat := (mrgScap d - shareBase) / mrgNstr d / 16 * 16

/-- Entries of a run directory (R326). -/
def runEntries : Nat := 256

/-- Addresses of a session. -/
def spillAt (d : Bytes) (off : Nat) : EAddr := { sp := mrgSsp d, base := mrgSpill d, disp := (off : Nat) }
def runsAt (d : Bytes) (off : Nat) : EAddr := { sp := mrgSsp d, base := mrgRuns d, disp := (off : Nat) }
def outAt (d : Bytes) (off : Nat) : EAddr := { sp := mrgOsp d, base := mrgOut d, disp := (off : Nat) }
def voutAt (d : Bytes) (off : Nat) : EAddr := { sp := mrgOsp d, base := mrgVout d, disp := (off : Nat) }
def roffAt (d : Bytes) (off : Nat) : EAddr := { sp := mrgOsp d, base := mrgRoff d, disp := (off : Nat) }

/-- Bytes of an output record (R329). -/
def mrgRecBytes (d : Bytes) : Nat := if mrgForm d then 4 else if mrgKw d then 16 else 8

/-- The ranges that MRGC writes (R308). -/
def mrgOutputs (d : Bytes) : List (EAddr × Nat) :=
  (outAt d 0, mrgOcap d * mrgRecBytes d) ::
    if mrgForm d then [(voutAt d 0, 4 * mrgOcap d), (roffAt d 0, 4 * (mrgNrow d + 1))] else []

/-- The destination ranges of a session (R308): its output, values, offsets and spill region. -/
def mrgDsts (d : Bytes) : List (EAddr × Nat) := mrgOutputs d ++ [(spillAt d 0, mrgScap d)]

/-- The first reason of R303 that a session descriptor meets; `runs` is the range of a runs-input session. -/
def mrgReason (g : Group) (d : Bytes) (runs : List (EAddr × Nat)) : Option Nat :=
  let dsts := mrgDsts d
  firstReason
    [ (1, 2 ^ 19 ≤ field d 0x2C 4 || !zeroField d 0x38 8 || 4 < mrgCop d || mrgSco d = 7 || (mrgForm d && !mrgKw d) ||
        (mrgRin d && mrgNstr d ≠ 1) || (mrgForm d != (mrgVout d ≠ 0)) || (mrgForm d != (mrgRoff d ≠ 0)) ||
        (mrgForm d != (mrgNrow d ≠ 0)) || (mrgRin d != (mrgRuns d ≠ 0)))
    , (2, mrgScap d < shareBase + 256 * mrgNstr d)
    , (3, (mrgOut d).toNat % 16 ≠ 0 || (mrgVout d).toNat % 4 ≠ 0 || (mrgSpill d).toNat % 64 ≠ 0)
    , (4, 2 < mrgOsp d || 2 < mrgSsp d)
    , (5, runs.any (fun r => dsts.any (fun x => x.2 ≠ 0 && (x.1.range g x.2).meets (r.1.range g r.2))))
    , (6, match g.session with | some x => x.live | none => false) ]

/-- The range of the runs that a directory names, as it stands (R308). -/
def Cx.runsRange (c : Cx) (d : Bytes) : List (EAddr × Nat) :=
  if !mrgRin d then []
  else
    let u : Unit := { s := c.s, g := c.g, sent := [] }
    let base := (runsAt d 0).ea.toNat
    let n := match u.peek (runsAt d 0) 4 with
      | .ok (_, bs) => min runEntries (leNat (plainBytes bs))
      | _ => 0
    let ends := match u.peek (runsAt d 64) (16 * n) with
      | .ok (_, bs) => (List.range n).map (fun i =>
          let b := plainBytes bs
          field b (16 * i) 8 + 16 * field b (16 * i + 8) 4 - base)
      | _ => []
    [(runsAt d 0, ends.foldl max (64 + 16 * n))]

/-- A session as MRGO makes it. -/
def Session.ofDesc (d : Bytes) (slot seq : Nat) : Session :=
  { desc := d, state := .waiting
    streams := List.replicate (mrgNstr d) { bound := none, part := [], accepted := 0, full := false, shareUsed := 0 }
    runs := [], used := 0, cause := 0, slot, tokens := [(slot, seq)] }

/-- The completion slot and use that a start has taken: those of the group's newest operation. -/
def State.newest (s : State) (grp : Nat) : Option (Nat × Nat) :=
  match s.group grp with
  | none => none
  | some g => match g.ops.getLast? with
    | some o => some (o.slot, (g.ctab[o.slot]?.map CSlot.seq).getD 0)
    | none => none

/-- The number of a group's operations. -/
def State.opCount (s : State) (grp : Nat) : Nat := match s.group grp with | some g => g.ops.length | none => 0

/-- What follows a start that was not held: a change of the session. -/
def Cx.startWith (c : Cx) (t : Nat) (o : Order) (y : Bool) (f : Nat × Nat → Group → Group) : State :=
  let s := c.start t o y
  if s.opCount c.g.uid = c.s.opCount c.g.uid then s
  else
    match s.newest c.g.uid with
    | some k => s.updGroup c.g.uid (f k)
    | none => s

/-- MRGO (R324, R325): the session waits for its core's network. -/
def execMrgo (e : EFields) (s : State) : Host.Outcome State Fault Refusal :=
  match cx s with
  | none => .next s
  | some c =>
    let r := e.desc.toNat
    match c.engineChecks 0xD6 e.tok.toNat [(1, r, 1)] [r] with
    | some t => .next t
    | none =>
      match c.descAt r 64 64 with
      | .error t => .next t
      | .ok d =>
        let runs := c.runsRange d
        match mrgReason c.g d runs with
        | some k => .next (c.badDesc r k)
        | none =>
          let dsts := mrgDsts d
          match c.footFault false runs, c.footFault true dsts with
          | some t, _ => .next t
          | _, some t => .next t
          | none, none =>
            let src : LRange := match runs with
              | x :: _ => x.1.range c.g x.2
              | [] => (8, 0, 0)
            let s := c.startWith e.tok.toNat
              { op := 0xD6, desc := d, addr := 0, arg := 0, recs := [], cleared := linesOf dsts
                lock := some ([src], dsts.map (fun x => x.1.range c.g x.2)) } e.y
              (fun k g => { g with session := some (Session.ofDesc d k.1 k.2) })
            if s.opCount c.g.uid = c.s.opCount c.g.uid then .next s
            else .next (s.updColumn c.col (fun k => { k with mergeWait := k.mergeWait ++ [c.g.uid] }))

/-- Protection (0x11), reason 6. -/
def Cx.badSession (c : Cx) : State := c.raise 0x11 6 c.live 0 []

/-- The session of a resumed group waits to open again (R334): its MRGO has completed. -/
def Group.reopening (g : Group) (x : Session) : Bool :=
  x.state = .waiting && !g.ops.any (fun o => o.op = 0xD6 && x.tokens.head? = some (o.slot, g.seqOf o.slot))

/-- MRGP (R325, R326): the records are read at issue; the stream is bound to the warp.  It is held while the session waits to open
again (R334). -/
def execMrgp (e : EFields) (s : State) : Host.Outcome State Fault Refusal :=
  match cx s with
  | none => .next s
  | some c =>
    let a := e.a.toNat
    let st := e.sub.toNat % 16
    match c.g.session with
    | none =>
      match c.engineChecks 0xD7 e.tok.toNat [(1, a, 2)] [] with
      | some t => .next t
      | none => .next c.badSession
    | some x =>
      let n := if mrgKw x.desc then 3 else 2
      match c.engineChecks 0xD7 e.tok.toNat [(1, a, n)] [] with
      | some t => .next t
      | none =>
        let bound := (x.streams[st]?).bind Stream.bound
        if !x.live || mrgRin x.desc || mrgNstr x.desc ≤ st || (bound ≠ none && bound ≠ some c.w.wid) then .next c.badSession
        else if c.g.reopening x then .next s
        else
          let recs : List ERec := (lanesOf (c.live &&& ~~~c.w.help)).map (fun l =>
            { index := l
              key := if mrgKw x.desc then c.w.rd (a + 1) l ++ c.w.rd a l else (c.w.rd a l).setWidth 64
              val := c.w.rd (a + n - 1) l })
          .next (c.startWith e.tok.toNat
            { op := 0xD7, desc := [], addr := 0, arg := st, recs, cleared := [], lock := none } e.y
            (fun k g => { g with session := some { x with
              tokens := x.tokens ++ [k]
              streams := x.streams.modify st (fun z => { z with bound := some c.w.wid }) } }))

/-- MRGC (R329): the session closes at issue; the lines of its destinations are absent until it completes (R307).  It is held
while an earlier MRGC of the group has not completed, and while the session waits to open again (R334). -/
def execMrgc (e : EFields) (s : State) : Host.Outcome State Fault Refusal :=
  match cx s with
  | none => .next s
  | some c =>
    match c.engineChecks 0xD8 e.tok.toNat [] [] with
    | some t => .next t
    | none =>
      match c.g.session with
      | none => .next c.badSession
      | some x =>
        if !x.live then .next c.badSession
        else if c.g.closing.isSome || c.g.reopening x then .next s
        else
          .next (c.startWith e.tok.toNat
            { op := 0xD8, desc := [], addr := 0, arg := 0, recs := [], cleared := linesOf (mrgDsts x.desc), lock := none }
            e.y (fun k g =>
              let x := { x with state := .merging, tokens := x.tokens ++ [k] }
              { g with session := some x, closing := some x }))

/-- The words of MRGS (R331). -/
def Session.word (x : Session) (item : Nat) : Word :=
  if 16 ≤ item then BitVec.ofNat 32 ((x.streams[item - 16]?.map Stream.accepted).getD 0)
  else
    match item with
    | 0 => BitVec.ofNat 32 ((x.streams.map Stream.accepted).sum)
    | 1 => BitVec.ofNat 32 x.runs.length
    | 2 => BitVec.ofNat 32 x.used
    | _ =>
      let k := match x.state with
        | .none => 0
        | .waiting => 1
        | .opened => 2
        | .merging => 3
        | .closed => 4
      BitVec.ofNat 32 (k + if x.streams.any Stream.full then 8 else 0)

/-- MRGS (R331). -/
def execMrgs (e : EFields) (s : State) : Host.Outcome State Fault Refusal :=
  match cx s with
  | none => .next s
  | some c =>
    let a := e.a.toNat
    let us : List RegUse := [(1, a, 1)]
    if c.held us [] none then .next s
    else
      match c.regFault us with
      | some t => .next t
      | none =>
        let v := match c.g.session with
          | some x => x.word e.sub.toNat
          | none => 0
        let r : Results := { regs := [(a, .u v)], masks := [], flags := [], gens := [] }
        match c.badResult r with
        | some q => .next (c.shape q)
        | none => .next ((c.launchFlight none (c.dests r) [] .result none [] []).finish e.y)

/-! ### Opening -/

/-- The session of a group that waits for the network: one that an MRGC already closes, or one that waits to open. -/
def Group.waitingSession (g : Group) : Option Session :=
  match g.closing with
  | some x => some x
  | none => g.session.filter (fun x => x.state = .waiting)

/-- MERGE_SESSION_OPEN (R325): the session that waits longest opens when the network is free and no earlier operation
holds it up; MRGO's token completes.  One whose MRGC has issued takes the network and stays as it is. -/
def execMergeSessionOpen (grp : Nat) (s : State) : Host.Outcome State Fault Refusal :=
  match s.group grp with
  | none => .next s
  | some g =>
    match g.waitingSession with
    | none => .next s
    | some x =>
      let k := s.column g.col
      if k.merge ≠ none || k.mergeWait.head? ≠ some grp || k.blocked grp x.slot x.seq then .next s
      else
        let s := if x.state = .waiting then s.updGroup grp (fun g => { g with session := some { x with state := .opened } }) else s
        let s := s.updColumn g.col (fun k => { k with merge := some grp, mergeWait := k.mergeWait.drop 1 })
        let waits := match g.opIn x.slot, g.ctab[x.slot]? with
          | some o, some k => o.op = 0xD6 && x.tokens.head? = some (x.slot, k.seq)
          | _, _ => false
        .next (if waits then s.finishOp grp x.slot (statusLow false 0 0 0) 0 else s)

/-! ### Runs -/

/-- Keys of some records, ascending and each once. -/
def keysOf (rs : List MRec) : List Dword := ((rs.map (fun r => r.key.toNat)).mergeSort (· ≤ ·)).eraseDups.map (BitVec.ofNat 64)

/-- The fold of the values of a key, in order (R326, R328). -/
def foldKey (cop : Nat) (rs : List MRec) (k : Dword) : Option Word :=
  match (rs.filter (fun r => r.key = k)).map MRec.val with
  | [] => none
  | v :: t => some (t.foldl (fun a b => combine cop a b 0) v)

/-- Records sorted by key, each key's folded in push order (R326). -/
def foldRun (cop : Nat) (rs : List MRec) : List MRec :=
  (keysOf rs).filterMap (fun k => (foldKey cop rs k).map (fun v => { key := k, val := v }))

/-- A run's bytes (R326). -/
def runImage (rs : List MRec) : Bytes := (rs.map (fun r => dwordBytes r.key ++ wordBytes r.val ++ toBytes 4 0)).flatten

/-- A directory entry (R326). -/
def runEntry (addr : Dword) (n strm seq : Nat) : Bytes :=
  dwordBytes addr ++ toBytes 4 n ++ toBytes 1 strm ++ toBytes 1 0 ++ toBytes 2 seq

/-- What the attempt to write a partition out comes to. -/
inductive Spilt where
  | ok (u : Unit) (x : Session)
  | full (x : Session) (cause : Nat)
  | wait
  | miss (va : Dword)

/-- A stream's partition written out as a run (R326, R327). -/
def Unit.spill (u : Unit) (x : Session) (st : Nat) : Spilt :=
  match x.streams[st]? with
  | none => .full x 0
  | some z =>
    let d := x.desc
    let rs := foldRun (mrgCop d) z.part
    let n := 16 * rs.length
    let seq := x.runs.countP (fun r => r.strm = st)
    let full (cause : Nat) : Spilt :=
      .full { x with streams := x.streams.set st { z with full := true }, cause := if x.cause = 0 then cause else x.cause } cause
    if mrgShare d < z.shareUsed + n ∨ runEntries ≤ x.runs.length then full 0
    else
      let off := shareBase + st * mrgShare d + z.shareUsed
      let addr : Dword := (spillAt d off).ea
      let count := x.runs.length + 1
      match u.pokeSome (fun _ => true)
          [ (spillAt d off, clean (runImage rs))
          , (spillAt d (64 + 16 * (count - 1)), clean (runEntry addr rs.length st seq))
          , (spillAt d 0, clean (toBytes 4 count ++ toBytes 4 (x.used + n) ++ List.replicate 56 0)) ] 0 with
      | .ok u _ =>
        .ok u { x with
          streams := x.streams.set st { z with part := [], shareUsed := z.shareUsed + n }
          runs := x.runs ++ [{ strm := st, seq, addr, recs := rs }], used := x.used + n }
      | .stop _ _ c => full c
      | .lost .. => .wait
      | .wait => .wait
      | .miss _ va => .miss va

/-- The records of a push entering their stream (R326, R327). -/
def Unit.push (u : Unit) (x : Session) (o : EngineOp) : List ERec → Unit × Session × EngineOp × Option Dword × Bool
  | [] => (u, x, { o with recs := [] }, none, true)
  | r :: t =>
    match x.streams[o.arg]? with
    | none => (u, x, o, none, true)
    | some z =>
      let take (u : Unit) (x : Session) : Unit × Session × EngineOp × Option Dword × Bool :=
        let x := { x with streams := x.streams.modify o.arg (fun z =>
          { z with part := z.part ++ [{ key := r.key, val := r.val }], accepted := z.accepted + 1 }) }
        u.push x { o with got := o.got + 1, recs := t } t
      if z.full then (u, x, { o with err := 5, recs := [] }, none, true)
      else if z.part.length < mrgPart x.desc then take u x
      else
        match u.spill x o.arg with
        | .ok u x => take u x
        | .full x c => (u, x, { o with err := 5, cause := if o.cause = 0 then c else o.cause, recs := [] }, none, true)
        | .wait => (u, x, { o with recs := r :: t }, none, false)
        | .miss va => (u, x, { o with recs := r :: t }, some va, false)

/-- The session that an operation belongs to (R329): a push that was issued before MRGC goes on with the session that
closes. -/
def Group.sessionOf (g : Group) (o : EngineOp) : Option Session :=
  let k := (o.slot, (g.ctab[o.slot]?.map CSlot.seq).getD 0)
  match g.closing with
  | some x => if x.tokens.contains k then some x else g.session
  | none => g.session

/-- Earlier pushes of the group that are not complete: of a warp for its next push, of all for MRGC (R326, R329). -/
def Group.pushesBefore (g : Group) (o : EngineOp) : Bool :=
  g.ops.any (fun p => p.op = 0xD7 && p.start < o.start && (o.op = 0xD8 || p.wid = o.wid))

/-- MRGP completed: every record accepted or refused (R326). -/
def State.pushEnd (s : State) (g : Group) (o : EngineOp) : State :=
  match g.sessionOf o with
  | none => s
  | some x =>
    if x.state = .waiting || g.pushesBefore o || (s.column g.col).merge ≠ some g.uid then s
    else
      let (u, x, o', miss, fin) := ({ s, g, sent := [] } : Unit).push x o o.recs
      let u : Unit := { u with g := u.g.putSession x }
      if fin then
        ({ u with g := u.g.setOp o' } : Unit).settle o' (statusLow false o'.err o'.cause 0) (BitVec.ofNat 32 o'.got)
      else
        let acks : List Unack := u.sent.map (fun t => { tag := t.1, since := u.s.clock.toNat, flight := none, addr := t.2 })
        let s := u.s.setGroup (u.g.setOp { o' with sent := o'.sent ++ acks })
        match miss with
        | some va => s.queueFault (engineFault g o 4 1 0 va)
        | none => s

/-! ### The merge (R328-R330) -/

/-- The value of a key over streams (R328): each stream's runs in spill order, then the streams in ascending order. -/
def mergeKey (cop : Nat) (streams : List (List (List MRec))) (k : Dword) : Option Word :=
  let vs := streams.filterMap (fun runs =>
    match runs.filterMap (fun r => foldKey cop r k) with
    | [] => none
    | v :: t => some (t.foldl (fun a b => combine cop a b 0) v))
  match vs with
  | [] => none
  | v :: t => some (t.foldl (fun a b => combine cop a b 0) v)

/-- The merged records, ascending by key. -/
def mergeAll (cop : Nat) (streams : List (List (List MRec))) : List MRec :=
  (keysOf streams.flatten.flatten).filterMap (fun k => (mergeKey cop streams k).map (fun v => { key := k, val := v }))

/-- The output of MRGC (R329): its writes in order, the records written, those omitted, and the error; `bad` tells the records
made of poisoned ones (R229). -/
def mergeOutput (d : Bytes) (full : Bool) (bad : MRec → Bool) (rs : List MRec) : List (EAddr × List Marked) × Nat × Nat × Nat :=
  let row (r : MRec) : Nat := r.key.toNat / 2 ^ 32
  let inside := if mrgForm d then rs.filter (fun r => row r < mrgNrow d) else rs
  let omitted := rs.length - inside.length
  let kept := inside.take (mrgOcap d)
  let past := decide (mrgOcap d < inside.length)
  let words (f : MRec → Bytes) : List Marked := (kept.map (fun r => (f r).map (fun b => (b, bad r)))).flatten
  let body : List (EAddr × List Marked) :=
    if mrgForm d then
      [(outAt d 0, words (fun r => toBytes 4 (r.key.toNat % 2 ^ 32))), (voutAt d 0, words (fun r => wordBytes r.val))] ++
        if past then []
        else [(roffAt d 0, (((List.range (mrgNrow d + 1)).map (fun i => toBytes 4 (kept.countP (fun r => row r < i)))).flatten).map
          (fun b => (b, kept.any bad)))]
    else if mrgKw d then [(outAt d 0, words (fun r => dwordBytes r.key ++ wordBytes r.val ++ toBytes 4 0))]
    else [(outAt d 0, words (fun r => toBytes 4 r.key.toNat ++ wordBytes r.val))]
  let err := if full then 5 else if past then 2 else if omitted ≠ 0 then 7 else 0
  (body.filter (fun x => x.2 ≠ []), kept.length, omitted, err)

/-- The records whose output is whole in the first `n` bytes of the output's writes, of `kept` records in all (R327). -/
def recordsIn (d : Bytes) (kept n : Nat) : Nat := if mrgForm d then min kept ((n - 4 * kept) / 4) else n / mrgRecBytes d

/-- The end of MRGC with a status. -/
def Unit.endMerge (u : Unit) (o : EngineOp) (err cause det count : Nat) : State :=
  u.settle o (statusLow false err cause det) (BitVec.ofNat 32 count)

/-- Every stream's partition written out as a run (R329); the streams that do not fit become spill-full. -/
def Unit.spillAll (u : Unit) (x : Session) : List Nat → Spilt
  | [] => .ok u x
  | st :: t =>
    if ((x.streams[st]?).map (fun z => z.part)).getD [] = [] then u.spillAll x t
    else
      match u.spill x st with
      | .ok u x => u.spillAll x t
      | .full x _ => u.spillAll x t
      | e => e

/-- An entry of a directory in memory: its run's address, records, stream and order (R326). -/
structure DirEntry where
  addr : Dword
  n : Nat
  strm : Nat
  seq : Nat
  /-- it was read from poisoned bytes (R229) -/
  bad : Bool
  deriving DecidableEq, Repr

/-- A directory sorted by stream and order (R330). -/
def sortDir (es : List DirEntry) : List DirEntry :=
  es.mergeSort (fun a b => a.strm < b.strm || (a.strm = b.strm && a.seq ≤ b.seq))

/-- The batch that a runs-input session merges (R330). -/
def chooseBatch (es : List DirEntry) : List DirEntry :=
  match es with
  | [] => []
  | e :: _ =>
    let first := es.filter (fun x => x.strm = e.strm)
    if 64 < first.length then first.take 64
    else
      ((List.range 256).filter (fun s => es.countP (fun x => x.strm ≤ s) ≤ 64)).foldl
        (fun _ s => es.filter (fun x => x.strm ≤ s)) []

/-- Records of a run in memory. -/
def recsOf (bs : Bytes) (n : Nat) : List MRec :=
  (List.range n).map (fun i => { key := fieldD bs (16 * i), val := fieldW bs (16 * i + 8) })

/-- The keys of a run in memory whose records are poisoned. -/
def badKeys (bs : List Marked) (n : Nat) : List Dword :=
  (List.range n).filterMap (fun i =>
    let r := (bs.drop (16 * i)).take 16
    if tainted r then some (fieldD (plainBytes r) 0) else none)

/-- The runs of some entries read, with the keys of poisoned records. -/
def Unit.readRuns (u : Unit) (sp : Nat) : List DirEntry → Got (Unit × List (DirEntry × List MRec) × List Dword)
  | [] => .ok (u, [], [])
  | e :: t =>
    match u.peek { sp, base := e.addr, disp := 0 } (16 * e.n) with
    | .ok (u, bs) =>
      match u.readRuns sp t with
      | .ok (u, rest, p) => .ok (u, (e, recsOf (plainBytes bs) e.n) :: rest, badKeys (bs.map (fun b => (b.1, b.2 || e.bad))) e.n ++ p)
      | r => r
    | r => r.recast

/-- The directory of a runs-input session (R330). -/
def Unit.readDir (u : Unit) (d : Bytes) : Got (Unit × List DirEntry) :=
  match u.peek (runsAt d 0) 4 with
  | .ok (u, hb) =>
    let n := min runEntries (leNat (plainBytes hb))
    match u.peek (runsAt d 64) (16 * n) with
    | .ok (u, bs) =>
      let b := plainBytes bs
      .ok (u, sortDir ((List.range n).map (fun i =>
        { addr := fieldD b (16 * i), n := field b (16 * i + 8) 4, strm := field b (16 * i + 12) 1, seq := field b (16 * i + 14) 2
          bad := tainted hb || tainted ((bs.drop (16 * i)).take 16) })))
    | r => r.recast
  | r => r.recast

/-- MRGC of a runs-input session completed (R330). -/
def State.mergeRuns (s : State) (g : Group) (o : EngineOp) (x : Session) : State :=
  let d := x.desc
  let u : Unit := { s, g, sent := [] }
  let hold (va : Dword) (acc : Nat) : State := s.queueFault (engineFault g o 4 acc 0 va)
  let lost (c : Nat) (va : Dword) : State := s.lostRead g.uid o.wid o.flight c va
  match u.readDir d with
  | .bad c _ _ => u.endMerge o 0 c 0 0
  | .lost c va => lost c va
  | .wait => s
  | .miss va => hold va 0
  | .ok (u, es) =>
    let batch := chooseBatch es
    match u.readRuns (mrgSsp d) batch with
    | .bad c _ _ => u.endMerge o 0 c 0 0
    | .lost c va => lost c va
    | .wait => s
    | .miss va => hold va 0
    | .ok (u, runs, p) =>
      let strms := (runs.map (fun r => r.1.strm)).eraseDups
      let merged := mergeAll (mrgCop d) (strms.map (fun k => (runs.filter (fun r => r.1.strm = k)).map Prod.snd))
      let bad (r : MRec) : Bool := p.contains r.key
      if batch.length = es.length then
        let (ws, n, omitted, err) := mergeOutput d false bad merged
        match u.pokeSome (fun _ => true) ws 0 with
        | .ok u _ => u.endMerge o err 0 omitted n
        | .stop u k c => u.endMerge o err c omitted (recordsIn d n k)
        | .lost c va => lost c va
        | .wait => s
        | .miss _ va => hold va 1
      else
        let rest := es.drop batch.length
        let bytes := 16 * merged.length
        if mrgShare d < bytes then u.endMerge o 5 0 0 0
        else
          let s0 := (batch.head?.map DirEntry.strm).getD 0
          let low := batch.foldl (fun a e => min a e.seq) 65535
          let addr : Dword := (spillAt d shareBase).ea
          let marked (m : Bool) (bs : Bytes) : List Marked := bs.map (fun b => (b, m))
          let batchBad := batch.any DirEntry.bad
          let entries := marked batchBad (runEntry addr merged.length s0 low) ++
            (rest.map (fun e => marked e.bad (runEntry e.addr e.n e.strm e.seq))).flatten
          let image := (merged.map (fun r => (runImage [r]).map (fun b => (b, bad r)))).flatten
          let run : Run := { strm := s0, seq := low, addr, recs := merged }
          let ws : List (EAddr × List Marked) :=
            [(spillAt d shareBase, image), (spillAt d 64, entries)
            , (spillAt d 0, marked batchBad (toBytes 4 (rest.length + 1) ++ toBytes 4 bytes ++ List.replicate 56 0))]
          match u.pokeSome (fun _ => true) ws 0 with
          | .ok u _ =>
            ({ u with g := u.g.putSession { x with runs := x.runs ++ [run], used := x.used + bytes } } : Unit).endMerge o 6 0 0 0
          | .stop _ _ c => u.endMerge o 5 c 0 0
          | .lost c va => lost c va
          | .wait => s
          | .miss _ va => hold va 1

/-- A run that a session has spilled, as its directory names it (R326). -/
def Run.entry (r : Run) : DirEntry := { addr := r.addr, n := r.recs.length, strm := r.strm, seq := r.seq, bad := false }

/-- MRGC completed (R329): the runs that the streams have spilled are read from the spill area, and what is made of poisoned
records is poisoned (R229). -/
def State.mergeEnd (s : State) (g : Group) (o : EngineOp) : State :=
  match g.closing with
  | none => s
  | some x =>
    let d := x.desc
    if g.pushesBefore o || (s.column g.col).merge ≠ some g.uid then s
    else if mrgRin d then s.mergeRuns g o x
    else
      let u : Unit := { s, g, sent := [] }
      let full := x.streams.any Stream.full
      let parts := x.streams.countP (fun z => z.part ≠ [])
      if 64 < x.runs.length + parts then
        match u.spillAll x (List.range x.streams.length) with
        | .ok u x => ({ u with g := u.g.putSession x } : Unit).endMerge o 6 x.cause 0 0
        | .full x c => ({ u with g := u.g.putSession x } : Unit).endMerge o 6 c 0 0
        | .wait => s
        | .miss va => s.queueFault (engineFault g o 4 1 0 va)
      else
        let first (c : Nat) : Nat := if x.cause = 0 then c else x.cause
        let lost (c : Nat) (va : Dword) : State := s.lostRead g.uid o.wid o.flight c va
        match u.readRuns (mrgSsp d) (x.runs.map Run.entry) with
        | .bad c _ _ => u.endMerge o 0 (first c) 0 0
        | .lost c va => lost c va
        | .wait => s
        | .miss va => s.queueFault (engineFault g o 4 0 0 va)
        | .ok (u, runs, p) =>
          let stream (k : Nat) : List (List MRec) :=
            (runs.filter (fun r => r.1.strm = k)).map Prod.snd ++ ((x.streams[k]?).map (fun z => [z.part])).getD []
          let merged := mergeAll (mrgCop d) ((List.range x.streams.length).map stream)
          let (ws, n, omitted, err) := mergeOutput d full (fun r => p.contains r.key) merged
          match u.pokeSome (fun _ => true) ws 0 with
          | .ok u _ => u.endMerge o err x.cause omitted n
          | .stop u k c => u.endMerge o err (first c) omitted (recordsIn d n k)
          | .lost c va => lost c va
          | .wait => s
          | .miss _ va => s.queueFault (engineFault g o 4 1 0 va)

/-! ### The engine events -/

/-- ENGINE_LINE_WRITTEN (R307). -/
def execEngineLineWritten (grp slot line : Nat) (s : State) : Host.Outcome State Fault Refusal :=
  match s.group grp with
  | none => .next s
  | some g =>
    match g.opIn slot with
    | none => .next s
    | some o =>
      if o.result.isSome || !o.cleared.contains line || o.written.contains line ||
          (s.column g.col).blocked grp slot (g.seqOf slot) then .next s
      else if o.op = 0xD3 then done (s.gatherLine g o line)
      else if o.op = 0xD0 ∨ o.op = 0xD1 then done (s.copyLine g o line)
      else .next s

/-- ENGINE_OPERATION_COMPLETE (R305). -/
def execEngineOperationComplete (grp slot : Nat) (s : State) : Host.Outcome State Fault Refusal :=
  match s.group grp with
  | none => .next s
  | some g =>
    match g.opIn slot with
    | none => .next s
    | some o =>
      match o.result with
      | some (lo, hi) => if o.sent = [] then .next (s.finishOp grp slot lo hi) else .next s
      | none =>
        if (s.column g.col).blocked grp slot (g.seqOf slot) then .next s
        else
          match o.op with
          | 0xD0 => done (s.copyEnd g o)
          | 0xD1 => done (s.copyEnd g o)
          | 0xD2 => done (s.copyEnd g o)
          | 0xD3 => done (s.gatherEnd g o)
          | 0xD4 => done (s.scatterEnd g o)
          | 0xD5 => done (s.replayEnd g o)
          | 0xD7 => done (s.pushEnd g o)
          | 0xD8 => done (s.mergeEnd g o)
          | _ => .next s

end Sys2Proof.Machine
end

