-- ==== Sys2Proof/Machine/Lamp.lean ====
section
/-! DEFINITION. The Lamplighter: node queues, bins, lighting (R61-R66). -/

namespace Sys2Proof.Machine

/-- Fields of a node descriptor (R61). -/
def nodeLrec (d : Bytes) : Dword := fieldD d 0x00
def nodeBase (d : Bytes) : Dword := fieldD d 0x08
def nodeCap (d : Bytes) : Nat := field d 0x10 4
def nodeWords (d : Bytes) : Nat := field d 0x14 1
def nodeGw (d : Bytes) : Nat := field d 0x15 1
def nodeQuad (d : Bytes) : Bool := (fieldW d 0x16).getLsbD 0
/-- The period of a node's timer (R61). -/
def nodePeriod (d : Bytes) : Nat := if (fieldW d 0x18).getLsbD 31 then 4800 else field d 0x18 4 % 2 ^ 21

/-- Bytes of a record (R65). -/
def recBytes (d : Bytes) : Nat := 16 + 16 * ((nodeWords d + 3) / 4)

/-- The place of a record (R65). -/
def recAddr (d : Bytes) (q : Nat) : Dword := nodeBase d + BitVec.ofNat 64 (64 + q % nodeCap d * recBytes d)

/-- A record as it stands in its queue (R65). -/
def recImage (d : Bytes) (key : Word) (lan : Nat) (r : QRec) : Bytes :=
  let body := wordBytes key ++ toBytes 4 (r.seq % 2 ^ 32) ++ toBytes 1 lan ++
    toBytes 1 ((if r.helper then 1 else 0) + (if nodeQuad d && r.first then 2 else 0)) ++ toBytes 6 0 ++
    ((List.range (nodeWords d)).map (fun k => wordBytes (r.words.getD k 0))).flatten
  body ++ List.replicate (recBytes d - body.length) 0

/-- Lanes that records take (R63). -/
def lanesTaken (quad : Bool) (rs : List QRec) : Nat := if quad then 4 * rs.countP (fun r => r.first) else rs.length

/-- The records of the first `n` lanes, whole units only, and the rest (R63). -/
def takeUnits (quad : Bool) : Nat → List QRec → List QRec × List QRec
  | _, [] => ([], [])
  | n, r :: t =>
    let cost := if !quad then 1 else if r.first then 4 else 0
    if n < cost then ([], r :: t)
    else
      let (a, b) := takeUnits quad (n - cost) t
      (r :: a, b)

/-- The bins of a node with records. -/
def Ctx.binsOf (c : Ctx) (node : Nat) : List Bin := c.bins.filter (fun b => b.node = node && b.recs ≠ [])

/-- Records that stand in a node queue (R64). -/
def Node.queued (n : Node) : Nat := n.wcnt - n.lcnt

/-- A node queue is full: no free record, or a unit waits for room (R64). -/
def Ctx.full (c : Ctx) (node : Nat) : Bool :=
  match c.nodes[node]? with
  | some n => nodeCap n.desc ≤ n.queued || c.waitRecs.any (fun r => r.node = node && nodeCap n.desc < n.queued + r.recs.length)
  | none => false

/-- A bin meets a condition of R63. -/
def Ctx.lightable (c : Ctx) (now : Nat) (b : Bin) : Bool :=
  match c.nodes[b.node]?, b.recs with
  | some n, r :: _ =>
    32 * nodeGw n.desc ≤ lanesTaken (nodeQuad n.desc) b.recs || r.arrive + nodePeriod n.desc ≤ now || c.full b.node
  | _, _ => false

/-- The payloads of some records as their queue holds them (R65). -/
def State.readRecs (s : State) (ctx : Nat) (d : Bytes) : List QRec → Dev (List QRec)
  | [] => .ok []
  | r :: t =>
    match s.devRead ctx 0xFFFF (recAddr d r.seq + 16) (4 * nodeWords d) with
    | .ok bs =>
      match s.readRecs ctx d t with
      | .ok rs => .ok ({ r with words := (List.range (nodeWords d)).map (fun k => fieldW bs (4 * k)) } :: rs)
      | e => e
    | .wait u => .wait u
    | .fail u c a => .fail u c a

/-- Lighting of a bin (R63): its oldest records are read, counted as lit, and stand as one group for the distributor. -/
def State.light (s : State) (ctx : Nat) (b : Bin) : Dev State :=
  match s.ctx ctx with
  | none => .ok s
  | some c =>
    match c.nodes[b.node]? with
    | none => .ok s
    | some n =>
      let d := n.desc
      let (took, rest) := takeUnits (nodeQuad d) (32 * nodeGw d) b.recs
      match s.readRecs ctx d took with
      | .ok recs =>
        let n' := { n with lcnt := n.lcnt + took.length, litGroups := n.litGroups + 1 }
        let lit : Lit := { record := n.record, args := n.args, quad := nodeQuad d, litAt := s.clock.toNat, node := b.node
                           key := b.key, lan := b.lan, gid := n.litGroups % 2 ^ 32, recs }
        let same (x : Bin) : Bool := x.node = b.node && x.key = b.key && x.lan = b.lan
        let c' := { c with
          nodes := c.nodes.set b.node n'
          lits := c.lits ++ [lit]
          bins := (c.bins.map (fun x => if same x then { x with recs := rest } else x)).filter (fun x => x.recs ≠ []) }
        match s.devWrite ctx 0xFFFF (nodeBase d + 8) (toBytes 8 n'.lcnt) with
        | .ok t => .ok ((took.foldl (fun t r => t.accessed ctx (recAddr d r.seq + 16) (4 * nodeWords d)) t).setCtx c')
        | e => e
      | .wait u => .wait u
      | .fail u k a => .fail u k a

/-- Every bin of a context that meets R63 lights, `n` groups at most; a context that is saved lights none. -/
def State.lightAll : Nat → State → Nat → State
  | 0, s, _ => s
  | n + 1, s, ctx =>
    match s.ctx ctx with
    | none => s
    | some c =>
      if !c.lights then s
      else
        match c.bins.find? (c.lightable s.clock.toNat) with
        | none => s
        | some b =>
          match s.light ctx b with
          | .ok t => State.lightAll n t ctx
          | .wait t => t
          | .fail t k a => t.killCtx ctx k 0 a []

/-- A unit of records appended to its node queue and bin (R62, R63, R65); it fits. -/
def State.append (s : State) (ctx node : Nat) (key : Word) (lan : Nat) (unit : List QRec) : Dev State :=
  match s.ctx ctx with
  | none => .ok s
  | some c =>
    match c.nodes[node]? with
    | none => .ok s
    | some n =>
      let d := n.desc
      let rs := (List.range unit.length).zip unit |>.map (fun x =>
        { x.2 with seq := n.wcnt + x.1, arrive := s.clock.toNat })
      let n' := { n with wcnt := n.wcnt + rs.length }
      let same (x : Bin) : Bool := x.node = node && x.key = key && x.lan = lan
      let bins := if c.bins.any same then c.bins.map (fun x => if same x then { x with recs := x.recs ++ rs } else x)
        else c.bins ++ [{ node, key, lan, recs := rs }]
      let go := rs.foldl (fun (acc : Dev State) r =>
        match acc with
        | .ok t => t.devWrite ctx 0xFFFF (recAddr d r.seq) (recImage d key lan r)
        | e => e) (.ok s)
      match go with
      | .ok t =>
        match t.devWrite ctx 0xFFFF (nodeBase d) (toBytes 8 n'.wcnt) with
        | .ok t => .ok (t.setCtx { c with nodes := c.nodes.set node n', bins })
        | .wait u => .wait u
        | .fail u k a => .fail u k a
      | e => e

/-- A bin has a full group, or its node queue is full (R63). -/
def State.mustLight (s : State) (ctx node : Nat) (key : Word) (lan : Nat) : Bool :=
  match s.ctx ctx with
  | none => false
  | some c =>
    match c.nodes[node]?, c.bins.find? (fun b => b.node = node && b.key = key && b.lan = lan) with
    | some n, some b => 32 * nodeGw n.desc ≤ lanesTaken (nodeQuad n.desc) b.recs || c.full node
    | _, _ => false

/-- A waiting unit that a unit sent later may not overtake: one of the same node (R66), or one that a thread of the same warp
sent which sent the later one too (R343). -/
def WaitRec.precedes (x r : WaitRec) : Bool :=
  x.node = r.node || (x.from' &&& r.from' ≠ 0 && (match x.flight, r.flight with
    | some (g, w, _), some (h, v, _) => g = h && w = v
    | _, _ => false))

/-- A unit sent to a bin (R62-R64): it enters its queue and the bins that then meet R63 light, or it waits. -/
def State.sendUnit (s : State) (ctx : Nat) (r : WaitRec) : State :=
  match s.ctx ctx with
  | none => s
  | some c =>
    let hold (s : State) : State := s.updCtx ctx (fun c => { c with waitRecs := c.waitRecs ++ [r] })
    match c.nodes[r.node]? with
    | none => s
    | some n =>
      if c.waitRecs.any (fun x => x.precedes r) || nodeCap n.desc < n.queued + r.recs.length then hold s
      else
        match s.append ctx r.node r.key r.lan r.recs with
        | .ok t => if nodePeriod n.desc = 0 && !t.mustLight ctx r.node r.key r.lan then t else t.lightAll 64 ctx
        | .wait t => hold t
        | .fail t k a => t.killCtx ctx k 0 a []

/-- The units of one producer in one cycle (R63, R66), after which bins whose timer is 0 light. -/
def State.sendUnits (s : State) (ctx : Nat) (rs : List WaitRec) : State := (rs.foldl (fun s r => s.sendUnit ctx r) s).lightAll 4096 ctx

/-- A record of one lane (R63). -/
def laneRec (words : List Word) (hit : Bool) : QRec :=
  { seq := 0, arrive := 0, helper := false, first := true, hit, words, full := if hit then some words else none, tile := none }

/-- BIN_TIMER_LAPSE (R63): a bin that meets a condition of R63 lights. -/
def execBinTimerLapse (ctx node : Nat) (key : Word) (lan : Nat) (s : State) : Host.Outcome State Fault Refusal :=
  match s.ctx ctx with
  | none => .next s
  | some c =>
    match c.bins.find? (fun b => b.node = node && b.key = key && b.lan = lan) with
    | none => .next s
    | some b =>
      if c.lights && c.lightable s.clock.toNat b then done ((s.light ctx b).orKill ctx) else .next s

/-- The producer of a unit is done when none of its units waits (R64): its flight's counter may fall. -/
def Ctx.waits (c : Ctx) (f : Nat × Nat × Nat) : Bool := c.waitRecs.any (fun r => r.flight = some f)

/-- RECORD_FITS (R64): the bins of the full node light, and the first unit that waits for it enters the queue. -/
def execRecordFits (ctx node : Nat) (s : State) : Host.Outcome State Fault Refusal :=
  match s.ctx ctx with
  | none => .next s
  | some c =>
    match c.waitRecs.find? (fun r => r.node = node), c.nodes[node]? with
    | some r, some n =>
      if !c.lights then .next s
      else if nodeCap n.desc < n.queued + r.recs.length then done (s.lightAll 4096 ctx)
      else if (c.waitRecs.takeWhile (· ≠ r)).any (fun x => x.precedes r) then .next s
      else
        match s.append ctx node r.key r.lan r.recs with
        | .ok t => done ((t.updCtx ctx (fun c => { c with waitRecs := c.waitRecs.erase r })).lightAll 4096 ctx)
        | .wait t => done t
        | .fail t k a => done (t.killCtx ctx k 0 a [])
    | _, _ => .next s

end Sys2Proof.Machine
end

