-- ==== Sys2Proof/Machine/Ray.lean ====
section
/-! DEFINITION. Ray traversal: RAYQ and RAYB (R265, R383-R386). -/

namespace Sys2Proof.Machine

/-- A ray in one space, exact; none where a component is not finite. -/
structure Ray where
  org : Option Vec3
  dir : Option Vec3
  orgW : List Word
  dirW : List Word

/-- A ray from its FP32 words. -/
def Ray.ofWords (o d : List Word) : Ray := { org := Vec3.ofWords o, dir := Vec3.ofWords d, orgW := o, dirW := d }

/-- The ray below an instance leaf (R385). -/
def Ray.into (r : Ray) (i : Inst) : Ray :=
  Ray.ofWords (matVec i.w2o 3 (r.orgW ++ [oneF])) (matVec i.w2o 3 (r.dirW ++ [0]))

/-- A hit: its parameter (none below every bound), identifier, barycentrics, and its instance record. -/
structure Hit where
  t : Option Ratio
  id : Dword
  b1 : Word
  b2 : Word
  mat : Word
  mnode : Nat
  inst : Dword
  deriving DecidableEq, Repr

/-- Whether a hit is to be returned rather than another (R265). -/
def Hit.before (a b : Hit) : Bool :=
  match a.t, b.t with
  | none, none => a.id < b.id
  | none, some _ => true
  | some _, none => false
  | some x, some y => x.lt y || (x.eq y && a.id < b.id)

/-- The parameters at which a ray lies between two bounds on each axis (R383). -/
def slab (s : Span) (o d lo hi : Vec3) : Span :=
  let ax (s : Span) (o d lo hi : Ratio) : Span := (s.nonneg (o.sub lo) d).nonneg (hi.sub o) d.neg
  ax (ax (ax s o.x d.x lo.x hi.x) o.y d.y lo.y hi.y) o.z d.z lo.z hi.z

/-- The parameters at which a ray is on the segment from `p` to `q`. -/
def onSegment (s : Span) (o d p q : Vec3) : Span :=
  let e := q.sub p
  let w := o.sub p
  if e.isZero then ((s.null w.x d.x).null w.y d.y).null w.z d.z
  else
    let k := w.cross e
    let j := d.cross e
    let s := ((s.null k.x j.x).null k.y j.y).null k.z j.z
    (s.nonneg (w.dot e) (d.dot e)).nonneg ((e.dot e).sub (w.dot e)) (d.dot e).neg

/-- The parameters at which a ray meets a closed triangle (R385). -/
def onTriangle (s : Span) (o d v0 v1 v2 : Vec3) : Span :=
  let n := (v1.sub v0).cross (v2.sub v0)
  let w := o.sub v0
  let s := s.null (n.dot w) (n.dot d)
  let edge (s : Span) (p q : Vec3) : Span :=
    let e := q.sub p
    s.nonneg (n.dot (e.cross (o.sub p))) (n.dot (e.cross d))
  edge (edge (edge s v0 v1) v1 v2) v2 v0

/-- The first parameter of a span is below the other's. -/
def Span.earlier (a b : Span) : Span :=
  if a.isEmpty then b
  else if b.isEmpty then a
  else
    match a.lo, b.lo with
    | none, _ => a
    | some _, none => b
    | some x, some y => if y.lt x then b else a

/-- A triangle met by a ray within a span: the first parameter and the weights of i1 and i2 (R265, R385). -/
def meet (s : Span) (o d v0 v1 v2 : Vec3) (id : Dword) : Option (Option Ratio × Word × Word) :=
  let a := v1.sub v0
  let b := v2.sub v0
  let n := a.cross b
  if n.isZero then
    let k := ((onSegment s o d v0 v1).earlier (onSegment s o d v1 v2)).earlier (onSegment s o d v2 v0)
    if k.isEmpty then none else some (k.lo, Config.hitWeight id 1, Config.hitWeight id 2)
  else
    let k := onTriangle s o d v0 v1 v2
    if k.isEmpty then none
    else
      let x := match k.lo with
        | some t => (o.add (d.scale t)).sub v0
        | none => o.sub v0
      let nn := n.dot n
      some (k.lo, ((n.dot (x.cross b)).div nn).toF32, ((n.dot (a.cross x)).div nn).toF32)

/-- The hits of a cluster leaf (R385). -/
def leafHits (rd : Dword → Nat → Rd Bytes) (ray : Ray) (s : Span) (inst : Inst) (iva : Dword) (c : Nat) : Rd (List Hit) := do
  let k ← readClus rd inst c
  match ray.org, ray.dir with
  | some o, some d =>
    let ps ← (List.range k.nv).mapM (fun i => readPos rd k i)
    let vec (i : Nat) : Option Vec3 := Vec3.ofWords (ps.getD i [])
    let one (j : Nat) (t : Nat × Nat × Nat) : Option Hit :=
      match vec t.1, vec t.2.1, vec t.2.2 with
      | some a, some b, some e =>
        let id := identifier inst.iid c j 0
        (meet s o d a b e id).map (fun h =>
          { t := h.1, id, b1 := h.2.1, b2 := h.2.2, mat := k.mat, mnode := inst.mnode, inst := iva })
      | _, _, _ => none
    pure (((List.range k.tris.length).zip k.tris).filterMap (fun x => one x.1 x.2))
  | _, _ => pure []

/-- 2 to an integer power. -/
def ratioPow (e : Int) : Ratio := if 0 ≤ e then { n := (2 ^ e.toNat : Nat), d := 1 } else { n := 1, d := 2 ^ (-e).toNat }

/-- Reserved bits or limits that make a node invalid in itself (R383, R384). -/
def nodeBad (b : Bytes) : Bool :=
  let nch := field b 0x0F 1
  let child (c : Nat) : Nat := 0x10 + 14 * c
  nch = 0 || 8 < nch || !zeroField b (child nch) (14 * (8 - nch)) ||
    (List.range nch).any (fun c =>
      let r := fieldD b (child c + 6)
      let kind := r.toNat / 2 ^ 62
      (List.range 3).any (fun i => field b (child c + 3 + i) 1 < field b (child c + i) 1) || kind = 0 ||
        (if kind = 2 then bits r 28 34 ≠ 0 else bits r 57 5 ≠ 0 || (kind = 1 && r.getLsbD 56) || r.toNat % 128 ≠ 0))

/-- The closed box of a child (R383). -/
def childBox (b : Bytes) (c : Nat) : Option (Vec3 × Vec3) :=
  match Vec3.ofWords (wordsAt b 0 3) with
  | none => none
  | some org =>
    let e (i : Nat) : Ratio := ratioPow (BitVec.ofNat 8 (field b (0x0C + i) 1)).toInt
    let q (off i : Nat) : Ratio := (Ratio.ofInt (field b (0x10 + 14 * c + off + i) 1)).mul (e i)
    let at' (off : Nat) : Vec3 := org.add { x := q off 0, y := q off 1, z := q off 2 }
    some (at' 0, at' 3)

/-- The hits below a node, `fuel` the nodes that a path may still hold (R384): a child is met where the ray lies in its
box, and in those above it, within the span. -/
def traverse (rd : Dword → Nat → Rd Bytes) : Nat → Ray → Span → Option (Inst × Dword) → Dword → Rd (List Hit)
  | 0, _, _, _, va => Rd.fail 0x11 va
  | fuel + 1, ray, span, inst, va => do
    if va.toNat % 128 ≠ 0 then Rd.fail 0x11 va
    else
      let b ← rd va 128
      if nodeBad b then Rd.fail 0x11 va
      else
        match ray.org, ray.dir with
        | some o, some d =>
          let hits ← (List.range (field b 0x0F 1)).mapM (fun c => do
            match childBox b c with
            | none => pure []
            | some (lo, hi) =>
              let s := slab span o d lo hi
              if s.isEmpty then pure []
              else
                let r := fieldD b (0x10 + 14 * c + 6)
                let adr := r &&& 0x01FFFFFFFFFFFFFF#64
                match r.toNat / 2 ^ 62, inst with
                | 1, _ => traverse rd fuel ray s inst adr
                | 2, some (i, iva) => leafHits rd ray s i iva (r.toNat % 2 ^ 28)
                | 3, none => do
                  let i ← readInst rd adr
                  traverse rd fuel (ray.into i) s (some (i, adr)) i.root
                | _, _ => Rd.fail 0x11 va)
          pure hits.flatten
        | _, _ => pure []

/-- The closest hit of a ray of eight words (R265). -/
def trace (rd : Dword → Nat → Rd Bytes) (root : Dword) (ws : List Word) : Rd (Option Hit) := do
  let v (i : Nat) : FVal := f32 (ws.getD i 0)
  if (List.range 8).any (fun i => v i = .nan) then pure none
  else
    let lo : Span := match v 3 with
      | .inf s => if s then .all else .nothing
      | x => match Ratio.ofFVal x with | some t => Span.all.from' t | none => .all
    let span : Span := match v 7 with
      | .inf s => if s then .nothing else lo
      | x => match Ratio.ofFVal x with | some t => lo.upTo t | none => lo
    if span.isEmpty then pure none
    else
      let hs ← traverse rd 64 (Ray.ofWords (ws.take 3) ((ws.drop 4).take 3)) span none root
      pure (hs.foldl (fun best h => match best with
        | none => some h
        | some b => if h.before b then some h else some b) none)

/-- The FP32 word of a parameter. -/
def paramWord (t : Option Ratio) : Word :=
  match t with
  | some x => x.toF32
  | none => 0xFF800000#32

/-- What RAYQ writes (R265). -/
def rayqWords (h : Option Hit) : List Word :=
  match h with
  | some h => [paramWord h.t, h.b1, h.b2, h.id.setWidth 32, (h.id >>> 32).setWidth 32]
  | none => [0x7F800000#32, 0, 0, 0, 0]

/-- The hit record of R381, and behind it the address of its instance record, which the attribute engine keeps. -/
def hitRecord (h : Hit) (ws : List Word) : List Word :=
  let w (i : Nat) : Word := ws.getD i 0
  [0x40000000#32, w 10, h.id.setWidth 32, (h.id >>> 32).setWidth 32, paramWord h.t, w 11, w 0, w 1, w 2, w 4, w 5, w 6
  , h.b1, h.b2, w 8, w 9, h.inst.setWidth 32, (h.inst >>> 32).setWidth 32]

/-- One lane of RAYQ, with its reads. -/
def rayqLane (rd : Dword → Nat → Rd Bytes) (j : Job) : LaneOut :=
  (do let h ← trace rd j.addr j.data; pure (rayqWords h) : Rd (List Word)) []

/-- One lane of RAYB: 1 or 0, and on a hit the node, key and words of its record (R386). -/
def raybLane (s : State) (ctx : Nat) (rd : Dword → Nat → Rd Bytes) (j : Job) :
    Except (Nat × Dword) ((Word × Option (Nat × Word × List Word)) × List (Dword × Nat)) :=
  (do
    let h ← trace rd j.addr j.data
    match h with
    | none => pure (0, none)
    | some h =>
      let n := ((s.ctx ctx).map (fun c => c.nodes.length)).getD 0
      if n ≤ h.mnode then Rd.fail 0x11 h.inst
      else pure (1, some (h.mnode, h.mat, hitRecord h j.data)) :
    Rd (Word × Option (Nat × Word × List Word))) []

/-- The ray jobs of a slot: root address and ray words (R265). -/
def Cx.rayJobs (c : Cx) (m : MFields) (n : Nat) : List Job :=
  (lanesOf c.live).map (fun l =>
    { lane := l, name := 0, data := c.w.words m.b.toNat n l
      addr := (c.w.rd (m.a.toNat + 1) l ++ c.w.rd m.a.toNat l : Dword) + addr64 (c.displacement m) })

/-- RAYQ (R265). -/
def execRayq (m : MFields) (s : State) : Host.Outcome State Fault Refusal :=
  match cx s with
  | none => .next s
  | some c =>
    match c.fetchChecks [(1, m.a.toNat, 2), (2, m.b.toNat, 8), (0, m.d.toNat, 5)] m.d.toNat 5 with
    | some t => .next t
    | none =>
      let js := c.rayJobs m 8
      match c.issueFault 0 1 false js with
      | some t => .next t
      | none => done (c.takeFetch m.d.toNat 5 (fetchAll (rayqLane c.guarded) js) id m.y)

/-- The record of a hit sent to its bin (R386, R62). -/
def hitUnit (g : Group) (w : Warp) (flight lane : Nat) (x : Nat × Word × List Word) : WaitRec :=
  { node := x.1, key := x.2.1, lan := lanternOf g.col, recs := [laneRec x.2.2 true], from' := laneBit lane
    flight := some (g.uid, w.wid, flight), tile := none }

/-- RAYB (R265, R386): a release at scope 5. -/
def execRayb (m : MFields) (s : State) : Host.Outcome State Fault Refusal :=
  match cx s with
  | none => .next s
  | some c =>
    if c.w.releaseHeld c.live then .next s
    else
      match c.fetchChecks [(1, m.a.toNat, 2), (2, m.b.toNat, 12), (0, m.d.toNat, 1)] m.d.toNat 1 with
      | some t => .next t
      | none =>
        let js := c.rayJobs m 12
        match c.issueFault 0 1 false js with
        | some t => .next t
        | none =>
          let outs := js.map (fun j => (j, raybLane s c.g.ctx c.guarded j))
          let recs := outs.filterMap (fun o => match o.2 with
            | .ok ((_, some r), _) => some (hitUnit c.g c.w c.w.nextFlight o.1.lane r)
            | _ => none)
          let lane (j : Job) : LaneOut :=
            match raybLane s c.g.ctx c.guarded j with
            | .ok ((x, _), ps) => .ok ([x], ps)
            | .error e => .error e
          let r := fetchAll lane js
          let send (s : State) : State := if r.bad = [] then s.sendUnits c.g.ctx recs else s
          done (c.takeFetch m.d.toNat 1 r send m.y)

end Sys2Proof.Machine
end

