-- ==== Sys2Proof/Machine/Replay.lean ====
section
/-! DEFINITION. Replay of the lanes of a log entry (R269, R356, R411), and the ends of flights that wait for answers. -/

namespace Sys2Proof.Machine

/-- Causes of some lanes of a flight: the lowest lane's, with the lanes that meet it (R268, R399). -/
def Flight.badCause (f : Flight) (now : Nat) (bad : List Bad) : List Cause :=
  match bad with
  | [] => []
  | b :: _ =>
    [(f.later b.code b.reason (maskOf (fun l => bad.any (fun x => x.lane = l && x.code = b.code))) b.addr
      (if b.code = 0x18 then [b.d0] else [])).byFabric now]

/-- Values of some lanes put into a result on its way: word `i` of each goes to register `d + i`. -/
def Dest.fill (d : Nat) (single : Bool) (lanes : Word) (vals : List (Nat × List Word)) (x : Dest) : Dest :=
  match x with
  | .mask .. => x
  | .vec r ls v =>
    let i := r - d
    if single then
      match vals with
      | [] => x
      | (_, ws) :: _ =>
        match v with
        | .u _ => .vec r ls (.u (ws.getD i 0))
        | _ => .vec r ls (.g ((List.range 32).map (fun l => if lanes.getLsbD l then ws.getD i 0 else v.get l)))
    else if vals = [] then x
    else
      .vec r ls (.g ((List.range 32).map (fun l =>
        match vals.find? (fun y => y.1 = l) with
        | some y => y.2.getD i (v.get l)
        | none => v.get l)))

/-- The jobs of a log entry. -/
def LogEntry.jobs (e : LogEntry) : List Job :=
  e.lanes.map (fun l => { lane := l.lane, addr := l.addr, name := l.name, data := l.data })

/-- A flight replaced in its warp. -/
def Warp.setFlight (w : Warp) (f : Flight) : Warp := { w with flights := w.flights.map (fun x => if x.id = f.id then f else x) }

/-- What some lanes of a replay gave. -/
structure Replayed where
  vals : List (Nat × List Word)
  miss : List (Nat × Dword)
  bad : List Bad
  remote : List RemoteReq
  acks : List Unack
  send : List WaitRec

/-- The end of a replay: lanes that passed leave the mask, lanes that fault again stay in it (R269); where `load`, a cause that
the owner finds leaves every register as it was, in any lane (R268). -/
def State.endReplay (s : State) (g : Group) (w : Warp) (i : Nat) (e : LogEntry) (f : Flight) (d : Nat) (load : Bool)
    (r : Replayed) : State :=
  let broken := load && r.bad ≠ []
  let miss := if broken then [] else r.miss
  let left := e.lanes.filterMap (fun l => (miss.find? (fun m => m.1 = l.lane)).map (fun m => { l with miss := m.2 }))
  let f' : Flight := { f with
    dests := if broken then [] else f.dests.map (Dest.fill d e.single e.fill r.vals)
    remote := if broken then [] else f.remote ++ r.remote
    log := if left = [] then none else f.log }
  let w' : Warp := { w.setFlight f' with
    logs := w.logs.set i (if left = [] then none
      else some { e with lanes := left, pcm := maskOf (fun l => left.any (fun x => x.lane = l)) })
    unack := w.unack ++ r.acks
    causes := w.causes ++ f.badCause s.clock.toNat r.bad }
  let s := s.setGroup (g.setWarp w')
  let s := if r.send = [] then s else s.sendUnits g.ctx r.send
  miss.foldl (fun s m => s.queueFault (faultOf g w 0 (if load then 0 else 1) i m.2)) s

/-- What the logged lanes of TEX, TEXG, RAYQ, RAYB or ATTR give now (R263-R266). -/
def State.replayFetch (s : State) (g : Group) (w : Warp) (e : LogEntry) : Fetched :=
  let op := opOf e.slotWord
  let sp := (MFields.ofWord e.slotWord).sp.toNat
  let rd := s.fetch g.ctx
  fetchAll (fun j =>
    if op < 0xB0 then texLane s g rd sp j
    else if op = 0xB0 then rayqLane rd j
    else if op = 0xB1 then (raybLane s g.ctx rd j).map (fun r => ([r.1.1], r.2))
    else attrLane s g w rd sp j) e.jobs

/-- The lanes of a log entry re-issued from the logged operands; no lane performs twice (R269, R356). -/
def State.replay (s : State) (g : Group) (w : Warp) (i : Nat) : State :=
  match w.logs.getD i none with
  | none => s
  | some e =>
    match w.flights.find? (fun f => f.id = e.flight) with
    | none => s
    | some f =>
      let op := opOf e.slotWord
      let m := MFields.ofWord e.slotWord
      if op < 0xA8 then
        let o := mopOf op m
        let p := performAll o e.single e.fill f.id s g e.jobs
        p.s.endReplay p.g w i e f m.d.toNat (o.kind = .load)
          { vals := p.vals, miss := p.miss.map (fun j => (j.lane, j.addr)), bad := p.bad, remote := p.remote, acks := p.acks
            send := [] }
      else
        let r := s.replayFetch g w e
        let send : List WaitRec :=
          if op = 0xB1 && r.bad = [] then e.jobs.filterMap (fun j => match raybLane s g.ctx (s.fetch g.ctx) j with
            | .ok ((_, some h), _) => some (hitUnit g w f.id j.lane h)
            | _ => none)
          else []
        ((s.gatherAll g r.pages).draw.2).endReplay g w i e f m.d.toNat true
          { vals := r.vals, miss := r.miss.map (fun x => (x.1.lane, x.2)), bad := r.bad.map (fun b => { b with reason := 0 })
            remote := [], acks := [], send }

/-- A replay waits: some lane of a log entry would go to a slice that is shutting down (R233), or the replay would raise the count
of the warp's unacknowledged writes above 4,095 (R243). -/
def State.replayParks (s : State) (g : Group) (w : Warp) (e : LogEntry) : Bool :=
  let m := MFields.ofWord e.slotWord
  if opOf e.slotWord < 0xA8 then
    4095 < w.unack.length + s.countedWrites g e.mop e.jobs ||
    e.lanes.any (fun l => match s.locate g.ctx m.sp.toNat l.name l.addr false with
      | .ok x => s.parks x 1
      | .error _ => false)
  else (s.replayFetch g w e).parks

end Sys2Proof.Machine
end

