-- ==== Sys2Proof/Machine/Sync.lean ====
section
/-! DEFINITION. Synchronisation, opcodes 0xE0 to 0xED: barriers, spawning, claiming, regrouping, codebook loading, group
registers, signals, sleep and frames (R335-R354), and the ends of their waits. -/

namespace Sys2Proof.Machine

/-! ### The slot -/

/-- The checks of a format S slot at issue: the scoreboard and its counter, registers, operands that must be U (R336). -/
def Cx.sysChecks (c : Cx) (us : List RegUse) (masks : List Nat) (counter : Option Nat) (uniform : List Nat) : Option State :=
  if c.held us masks counter then some c.s
  else
    match c.regFault us with
    | some t => some t
    | none => (c.w.notU uniform).map c.shape

/-- A format S slot: its checks, then its effect. -/
def runS (us : List RegUse) (masks : List Nat) (counter : Option Nat) (uniform : List Nat) (sem : Cx → State) (s : State) :
    Host.Outcome State Fault Refusal :=
  match cx s with
  | none => .next s
  | some c =>
    match c.sysChecks us masks counter uniform with
    | some t => .next t
    | none => .next (sem c)

/-- A result in registers with tag U. -/
def Cx.uniformResult (c : Cx) (d : Nat) (ws : List Word) : Results :=
  { regs := ((List.range ws.length).zip ws).map (fun x => (d + x.1, .u x.2)), masks := [], flags := [], gens := c.w.gens }

/-- The end of a slot after which its PC group waits (R339): its resume slot is the one behind, and while it waits its PC
names the clause of the slot, even where no slot is left (R416). -/
def Cx.parkAfter (c : Cx) (why : Wait) (y : Bool) : State := (c.yielding y).park (c.slot + 1) why

/-- The cycle in which a thread parked at a collective (R414). -/
def Wait.parkedAt : Wait → Option Nat
  | .coll _ t => some t
  | .barColl _ t => some t
  | .round t => some t
  | _ => Option.none

/-- The earliest cycle in which a thread of the warp parked at the collective of a slot (R414). -/
def Warp.firstPark (w : Warp) (pc : Dword) (slot now : Nat) : Nat :=
  (((lanesOf w.live).filter (fun l => w.pcOf l = pc && w.rslOf l = slot)).filterMap (fun l => (w.waitOf l).parkedAt)).foldl min now

/-- Every earlier access of the warp has performed, records and signals sent (R339, R343). -/
def Warp.quiet (w : Warp) : Bool := w.performed && w.flights.all (fun f => f.op ≠ 0xE3 && f.op ≠ 0xE4 && f.op ≠ 0xEB)

/-! ### Barriers (R338-R341) -/

/-- An arrival (R339): the whole warp stands at the slot and its accesses have performed; the slot goes on with the
barrier as the arrival leaves it. -/
def Cx.arrive (c : Cx) (f : SFields) : Except State Cx :=
  let id := f.id.toNat
  let n := f.imm.toNat % 64
  let now := c.s.clock.toNat
  let since := c.w.firstPark c.run.pc c.slot now
  match c.gatherAs (.barColl id now) with
  | .error t => .error t
  | .ok c =>
    if !c.w.quiet then .error (c.park c.slot (.barColl id since))
    else
      match (c.g.bar id).arrive n c.g.wcount c.w.wid now with
      | none => .error (c.raise 1 8 c.run.lanes 0 [BitVec.ofNat 32 (if n = 0 then c.g.wcount else n)])
      | some b => .ok { c with g := c.g.setBar id b }

/-- BAR (R339): the warp parks until the phase in which it has arrived completes. -/
def execBar (f : SFields) (s : State) : Host.Outcome State Fault Refusal :=
  runS [] [] none [] (fun c =>
    match c.arrive f with
    | .error t => t
    | .ok c =>
      let ph := (c.g.bar f.id.toNat).ph
      let c : Cx := { c with g := c.g.phase f.id.toNat }
      if phasePassed (c.g.bar f.id.toNat).ph ph then c.finish f.y else c.parkAfter (.bar f.id.toNat ph c.run.words.length) f.y) s

/-- BARA (R339). -/
def execBara (f : SFields) (s : State) : Host.Outcome State Fault Refusal :=
  runS [(0, f.d.toNat, 1)] [] none [] (fun c =>
    match c.arrive f with
    | .error t => t
    | .ok c =>
      let ph := (c.g.bar f.id.toNat).ph
      let c : Cx := { c with g := c.g.phase f.id.toNat }
      c.fixed (c.uniformResult f.d.toNat [ph]) f.y) s

/-- BARW (R341): it waits at its own slot. -/
def execBarw (f : SFields) (s : State) : Host.Outcome State Fault Refusal :=
  runS [(1, f.a.toNat, 1)] [] none [f.a.toNat] (fun c =>
    let v := c.w.rd f.a.toNat 0
    if phasePassed (c.g.bar f.id.toNat).ph v then c.finish f.y else c.park c.slot (.barw f.id.toNat v)) s

/-! ### SPAWN and EMIT (R343) -/

/-- Records sent to a node, or protection with its reason. -/
def Cx.sendRecords (c : Cx) (f : SFields) (node : Option (Nat × Node)) (named : Dword) : State :=
  let n := f.imm.toNat % 32
  match node with
  | none => c.raise 0x11 1 c.live named []
  | some (k, nd) =>
    if nodeWords nd.desc ≠ n then c.raise 0x11 2 c.live named []
    else
      let lanes := (lanesOf c.live).filter (fun l => !c.w.help.getLsbD l)
      let id := c.w.nextFlight
      let rs : List WaitRec := lanes.map (fun l =>
        { node := k, key := c.w.rd f.b.toNat l, lan := lanternOf c.g.col
          recs := [laneRec ((List.range n).map (fun i => c.w.rd (f.d.toNat + i) l)) false], from' := laneBit l
          flight := some (c.g.uid, c.w.wid, id), tile := none })
      ((c.launchFlight (some 1) [] [] .records none [] []).finish f.y).sendUnits c.g.ctx rs

/-- The nodes of a group's context with their numbers. -/
def State.nodesOf (s : State) (ctx : Nat) : List (Nat × Node) :=
  match s.ctx ctx with
  | some c => (List.range c.nodes.length).zip c.nodes
  | none => []

/-- SPAWN (R343): a release, which waits for the acknowledgements of R243. -/
def execSpawn (f : SFields) (s : State) : Host.Outcome State Fault Refusal :=
  let a := f.a.toNat
  runS [(0, f.d.toNat, f.imm.toNat % 32), (1, a, 2), (2, f.b.toNat, 1)] [] (some 1) [a, a + 1] (fun c =>
    let entry : Dword := c.w.rd (a + 1) 0 ++ c.w.rd a 0
    if c.w.releaseHeld c.live then c.s
    else c.sendRecords f ((c.s.nodesOf c.g.ctx).find? (fun x => recEntry x.2.record = entry)) entry) s

/-- EMIT (R343). -/
def execEmit (f : SFields) (s : State) : Host.Outcome State Fault Refusal :=
  let a := f.a.toNat
  runS [(0, f.d.toNat, f.imm.toNat % 32), (1, a, 1), (2, f.b.toNat, 1)] [] (some 1) [a] (fun c =>
    let id := c.w.rd a 0
    if c.w.releaseHeld c.live then c.s
    else c.sendRecords f ((c.s.nodesOf c.g.ctx).find? (fun x => x.1 = id.toNat)) (id.setWidth 64)) s

/-! ### CLAIM (R344) -/

/-- The groups that a launch still has to give, at most `n`: the first and how many. -/
def Launch.claim (l : Launch) (n : Nat) : Nat × Nat :=
  let k := min n (l.total - l.next)
  if k = 0 then (0, 0) else (l.next, k)

/-- CLAIM (R344). -/
def execClaim (f : SFields) (s : State) : Host.Outcome State Fault Refusal :=
  let d := f.d.toNat
  runS [(0, d, 2)] [] none [] (fun c =>
    let l := if c.g.lit.isSome then none else c.s.launchOf c.g.launch
    let (first, k) := (l.map (fun l => l.claim f.imm.toNat)).getD (0, 0)
    let r := c.uniformResult d [BitVec.ofNat 32 first, BitVec.ofNat 32 k]
    match c.badResult r with
    | some q => c.shape q
    | none =>
      let c : Cx := { c with s := c.s.updLaunch c.g.launch (fun l => if k = 0 then l else { l with next := l.next + k }) }
      (c.launchFlight none (c.dests r) [] .result none [] []).finish f.y) s

/-! ### REGRP (R67-R70, R345, R346) -/

/-- A thread of a regrouping round: its warp, its lane and its key. -/
structure Member where
  w : Warp
  lane : Nat
  key : Nat

/-- A thread put in a list behind every key not above its own. -/
def insertMember (x : Member) : List Member → List Member
  | [] => [x]
  | y :: t => if x.key < y.key then x :: y :: t else y :: insertMember x t

/-- The threads of a round in their new order (R68). -/
def roundOrder (ws : List Warp) (key : Nat) : List Member :=
  ((ws.map (fun w => (lanesOf w.live).map (fun l => ({ w, lane := l, key := (w.rd key l).toNat } : Member)))).flatten).foldl
    (fun acc x => insertMember x acc) []

/-- A warp formed from the threads of a round (R68, R69, R129): `v` gives the slot, `w0` what is copied from the lowest
warp, `draw` what lanes without a thread hold. -/
def reformed (r : Regrp) (w0 v : Warp) (ms : List Member) (draw : Nat) : Warp :=
  let at' {α : Type} (l : Nat) (d : α) (f : Member → α) : α := match ms[l]? with | some m => f m | none => d
  let lanes {α : Type} (d : Nat → α) (f : Member → α) : List α := (List.range 32).map (fun l => at' l (d l) f)
  let mask (f : Member → Bool) : Word := maskOf (fun l => at' l false f)
  let live := mask (fun _ => true)
  { v with
    pcs := List.replicate 32 r.cont, live, help := mask (fun m => m.w.help.getLsbD m.lane)
    regs := (List.range v.regs.length).map (fun i =>
      if r.first ≤ i && i < r.first + r.count then
        .g (lanes (fun l => Config.deadLane draw (32 * i + l)) (fun m => m.w.rd i m.lane))
      else if w0.compact i then w0.reg i else .u 0)
    masks := (List.range 7).map (fun i => mask (fun m => (m.w.mask (i + 1)).getLsbD m.lane))
    stack := [], parked := 0, wait := List.replicate 32 .none, rsl := List.replicate 32 0
    came := lanes (fun _ => none) (fun m => some (m.w.pcOf m.lane, m.w.rslOf m.lane, 0xE6))
    bundle := w0.bundle, ctl := w0.ctl, seed := w0.seed
    flags := lanes (fun _ => 0) (fun m => m.w.flags.getD m.lane 0)
    gens := lanes (fun l => v.gens.getD l 1) (fun m => m.w.gens.getD m.lane 1)
    fair := 0, cur := if live = 0 then none else some 0, curPc := r.cont
    lvl := (List.range 8).map (fun i => lanes (fun _ => 0) (fun m => (m.w.lvl.getD i []).getD m.lane 0))
    recs := lanes (fun _ => none) (fun m => m.w.recs.getD m.lane none) }

/-- Every warp of the group that has a thread has arrived (R67). -/
def Group.roundFull (g : Group) (r : Regrp) : Bool := g.warps.all (fun w => w.live = 0 || w.retired || r.warps.contains w.wid)

/-- A round completes (R68, R69, R346): its warps are formed anew, the others of them retire, and the barriers follow.  A warp
that is no longer among those of the warp count has started no thread (R416). -/
def Group.regroup (g : Group) (r : Regrp) (draw : Nat) : Group :=
  let ws := g.warps.filter (fun w => r.warps.contains w.wid && w.live ≠ 0)
  let ids := ws.map Warp.wid
  let ms := roundOrder ws r.key
  let k := (ms.length + 31) / 32
  match ws with
  | [] => { g with regrp := none }
  | w0 :: _ =>
    let form (w : Warp) : Warp :=
      match ids.idxOf? w.wid with
      | none => { w with started := 0 }
      | some i =>
        let part := (ms.drop (32 * i)).take 32
        if i < k then reformed r w0 w part draw
        else { w with started := 0, live := 0, parked := 0, stack := [], wait := List.replicate 32 .none, cur := none }
    ({ g with
      warps := g.warps.map form, wcount := k, regrp := none
      bars := g.bars.map (fun b => Barrier.adjust b g.wcount k) }).phases

/-- A round whose last warp has arrived, or has retired, completes (R67). -/
def State.checkRound (s : State) (grp : Nat) : State :=
  match s.group grp with
  | none => s
  | some g =>
    match g.regrp with
    | none => s
    | some r =>
      if g.roundFull r then
        let (n, s) := s.draw
        s.setGroup ((g.regroup r n).wake (fun x => match x with | .round _ => true | _ => false))
      else s

/-- REGRP (R67-R70, R345). -/
def execRegrp (f : SFields) (s : State) : Host.Outcome State Fault Refusal :=
  let key := f.a.toNat
  let first := f.b.toNat
  let n := f.id.toNat % 16 + 1
  runS [(1, key, 1)] [] none [] (fun c =>
    let now := c.s.clock.toNat
    let since := c.w.firstPark c.run.pc c.slot now
    match c.gather with
    | .error t => t
    | .ok c =>
      if c.w.stack ≠ [] then c.badStack 4
      else
        match (List.range n).find? (fun i => c.w.ng ≤ first + i) with
        | some i => c.raise 3 0 c.live 0 [BitVec.ofNat 32 (first + i), if i = 0 then 2 else 5]
        | none =>
          let r : Regrp :=
            { cont := codeAddr (c.run.pc + 8#64 * f.imm.signExtend 64), key, first, count := n, warps := [c.w.wid], since := now }
          let settled := c.w.quiet && c.w.flights.all (fun f => f.dests = [])
          if !settled then c.park c.slot (.coll 0xE6 since)
          else
            let wait (c : Cx) : State := c.park c.slot (.round since)
            match c.g.regrp with
            | none => (wait { c with g := { c.g with regrp := some r } }).checkRound c.g.uid
            | some o =>
              if o.cont = r.cont && o.key = key && o.first = first && o.count = n then
                (wait { c with g := { c.g with regrp := some { o with warps := o.warps ++ [c.w.wid] } } }).checkRound c.g.uid
              else wait c) s

/-! ### Codebook loading (R347-R349) -/

/-- A codebook image as a generation (R347). -/
def Gen.ofImage (uid : Nat) (b : Bytes) : Gen :=
  let n := field b 0 2
  { uid, len := n, mode := field b 2 1, lo := fieldW b 4, hi := fieldW b 8, rs := fieldW b 12
    entries := (List.range n).map (fun i => fieldD b (16 + 8 * i)) }

/-- What breaks R347 in a header, as the reasons of R348. -/
def imageReason (b : Bytes) : Option Nat :=
  let mode := field b 2 1
  let lo := f32 (fieldW b 4)
  let hi := f32 (fieldW b 8)
  firstReason
    [ (1, !zeroField b 3 1 || (mode = 0 && !zeroField b 4 12))
    , (2, field b 0 2 = 0 || 256 < field b 0 2 || 1 < mode ||
        (mode = 1 && !(lo.finite && hi.finite && FVal.cmp lo hi = some (-1)))) ]

/-- A generation is held by an issued instruction of a core (R192). -/
def State.genHeld (s : State) (col uid : Nat) : Bool :=
  s.groups.any (fun g => g.col = col && g.warps.any (fun w => w.flights.any (fun f => f.gens.contains uid)))

/-- A bank replaced. -/
def Column.setBank (k : Column) (b : Nat) (x : Bank) : Column := { k with banks := putAt Bank.empty k.banks b x }

/-- CBLOAD (R348). -/
def execCbload (f : SFields) (s : State) : Host.Outcome State Fault Refusal :=
  let a := f.a.toNat
  runS [(1, a, 1)] [] (some 2) [a] (fun c =>
    let o := (c.w.rd a 0).toNat
    let va : Dword := BitVec.ofNat 64 o
    if c.w.owesAcquire c.live then c.s  -- held (R223)
    else if c.noBanks then c.raise 0x11 0 c.live 0 []
    else if o % 16 ≠ 0 then c.raise 0x14 0 c.live va []
    else if c.g.scrSize < o + 16 then c.raise 0x16 0 c.live va []
    else if c.g.missing o 16 then c.park c.slot .presence
    else
      let h := c.g.scr.read o 16
      match imageReason h with
      | some r => c.raise 0x11 r c.live va []
      | none =>
        let n := 16 + 8 * field h 0 2
        if c.g.scrSize < o + n then c.raise 0x16 0 c.live va []
        else if c.g.missing o n then c.park c.slot .presence
        else
          (c.launchFlight (some 2) [] [] (.cbload f.id.toNat (c.g.scr.badAt o n) (c.g.scr.read o n) (c.g.scr.poisoned o n)) none [] []).finish f.y) s

/-- CBLOAD_COMPLETE (R348): the shadow is replaced in one step, unless the image is poisoned. -/
def execCbloadComplete (grp wid flight : Nat) (s : State) : Host.Outcome State Fault Refusal :=
  match s.group grp with
  | none => .next s
  | some g =>
    match g.warp wid with
    | none => .next s
    | some w =>
      match w.flights.find? (fun f => f.id = flight) with
      | none => .next s
      | some f =>
        match f.kind with
        | .cbload b addr image poisoned =>
          let k := s.column g.col
          let bank := k.banks.getD b Bank.empty
          if s.genHeld g.col bank.shadow.uid || !w.oldestOn 2 flight then .next s
          else if poisoned then
            .next (s.updWarp grp wid (fun w => { w.endFlight flight with causes := w.causes ++ [f.later 0x12 0 f.grp (BitVec.ofNat 64 addr) []] }))
          else
            let k := { k.setBank b { bank with shadow := Gen.ofImage k.nextGen image, shv := true } with nextGen := k.nextGen + 1 }
            .next ((s.setColumn g.col k).updWarp grp wid (fun w => w.endFlight flight))
        | _ => .next s

/-- CBCOMMIT (R349). -/
def execCbcommit (f : SFields) (s : State) : Host.Outcome State Fault Refusal :=
  runS [] [] none [] (fun c =>
    let b := f.id.toNat
    let bank := c.bank b
    let loading := c.w.flights.any (fun f => match f.kind with | .cbload k .. => k = b | _ => false)
    if c.noBanks then c.raise 0x11 0 c.live 0 []
    else if loading || c.s.genHeld c.col bank.shadow.uid then c.s
    else
      let x : Bank := { cur := bank.shadow, shadow := bank.cur, number := (bank.number + 1) % 65536, shv := false }
      { c with s := c.s.updColumn c.col (fun k => k.setBank b x) }.finish f.y) s

/-! ### Group registers (R350, R351) -/

/-- GWR (R350). -/
def execGwr (f : SFields) (s : State) : Host.Outcome State Fault Refusal :=
  let imm : Bool := f.sub ≠ 0
  let rs := if imm then [] else [f.a.toNat]
  runS (rs.map (fun r => (1, r, 1))) [] none rs (fun c =>
    let v : Word := if imm then f.imm.signExtend 32 else c.w.rd f.a.toNat 0
    { c with g := { c.g with gregs := putAt 0 c.g.gregs (f.id.toNat % 16) v } }.finish f.y) s

/-- The value of a group register after an operation (R351). -/
def gatomNew (op : Nat) (g b x : Word) : Word :=
  match op with
  | 0 => g + b
  | 1 => if g.toInt ≤ b.toInt then g else b
  | 2 => if g.toNat ≤ b.toNat then g else b
  | 3 => if g.toInt ≤ b.toInt then b else g
  | 4 => if g.toNat ≤ b.toNat then b else g
  | 5 => g &&& b
  | 6 => g ||| b
  | 7 => g ^^^ b
  | 8 => b
  | _ => if g = x then b else g

/-- The lanes of a GATOM in ascending order: the register at the end, and what each lane receives. -/
def gatomAll (op : Nat) (b x : Nat → Word) (g : Word) (lanes : List Nat) : Word × List (Nat × Word) :=
  lanes.foldl (fun (r : Word × List (Nat × Word)) l => (gatomNew op r.1 (b l) (x l), r.2 ++ [(l, r.1)])) (g, [])

/-- GATOM (R351). -/
def execGatom (f : SFields) (s : State) : Host.Outcome State Fault Refusal :=
  let d := f.d.toNat
  let a := f.a.toNat
  let us : List RegUse := (0, d, 1) :: (2, f.b.toNat, 1) :: (if f.sub = 9 then [(1, a, 1)] else [])
  runS us [] none [] (fun c =>
    let i := f.id.toNat % 16
    let (v, olds) := gatomAll f.sub.toNat (c.w.rd f.b.toNat) (c.w.rd a) (c.g.gregs.getD i 0) (lanesOf c.live)
    let out (l : Nat) : Word := match olds.find? (fun x => x.1 = l) with | some x => x.2 | none => 0
    let r : Results := { regs := [(d, .g ((List.range 32).map out))], masks := [], flags := [], gens := c.w.gens }
    match c.badResult r with
    | some q => c.shape q
    | none =>
      let c : Cx := { c with g := { c.g with gregs := putAt 0 c.g.gregs i v } }
      (c.launchFlight none (c.dests r) [] .result none [] []).finish f.y) s

/-! ### Signals, sleep and frames (R352-R354) -/

/-- The addition of QSIG as an atomic access. -/
def signalOp : MOp :=
  { op := 0xA5, kind := .atomic, sp := 0, bytes := 8, regs := 2, sx := false
    m := MFields.ofWord 0x0000000000000200#64 }

/-- The range lock that the addition of a QSIG meets: it writes the count word of the token (R241). -/
def Cx.signalLock (c : Cx) (va : Dword) : Option (Nat × Lock) :=
  (c.s.column c.col).conflict c.g.ctx 0 va.toNat (va.toNat + 8) true

/-- QSIG (R352, R447), a release (R242): the token of this module is updated when the count on ST falls; that of a peer by its
owner.  A token of another lantern is counted from issue (R243). -/
def execQsig (f : SFields) (s : State) : Host.Outcome State Fault Refusal :=
  let a := f.a.toNat
  runS [(1, a, 2)] [] (some 1) [a, a + 1] (fun c =>
    let va : Dword := c.w.rd (a + 1) 0 ++ c.w.rd a 0
    if va.toNat % 16 ≠ 0 then c.raise 0x11 0 c.live va []
    else if badGlobal c.s va then c.raise 0x16 0 c.live va []
    else
      match c.signalLock va with
      | some (i, k) => c.raise 0x15 0 c.live va [BitVec.ofNat 32 i, BitVec.ofNat 32 k.op, BitVec.ofNat 32 k.slot]
      | none =>
        if c.w.releaseHeld c.live then c.s
        else if isPeer va then
            let p : Perf := { s := c.s, g := c.g, vals := [], miss := [], bad := [], remote := [], stored := [], acks := [] }
            let p := sendJobs signalOp true c.live p [{ lane := lowest c.live, addr := va, name := 0, data := [f.imm.setWidth 32, 0] }]
            let c : Cx := { c with s := p.s }
            let c := c.launchFlight (some 1) [] [] (.store 6) none p.remote []
            { c with w := { c.w with unack := c.w.unack ++ p.acks } }.finish f.y
        else
          let far : List Unack := if lanOf va = lanternOf c.col then []
            else [{ tag := c.s.nextTag, since := c.s.clock.toNat, flight := some c.w.nextFlight, addr := va }]
          let c : Cx := { c with s := { c.s with nextTag := c.s.nextTag + far.length } }
          let c := c.launchFlight (some 1) [] [] (.signal va f.imm.toNat) none [] []
          { c with w := { c.w with unack := c.w.unack ++ far } }.finish f.y) s

/-- SLEEP (R353): a count of 0 ends the issue of the clause for the PC group, which is eligible at the next boundary. -/
def execSleep (f : SFields) (s : State) : Host.Outcome State Fault Refusal :=
  let rs := if f.sub = 0 then [] else [f.a.toNat]
  runS (rs.map (fun r => (1, r, 1))) [] none rs (fun c =>
    let n := if f.sub = 0 then f.imm.toNat else min (c.w.rd f.a.toNat 0).toNat 0xFFFFF
    let c := c.yielding f.y
    if n = 0 then { c with w := c.w.passTo c.run.lanes c.run.pc (c.slot + 1) c.run.words.length }.commit none
    else c.park c.slot (.sleep n c.run.words.length)) s

/-- SLEEP_EXPIRY (R353): the threads go on behind their slot. -/
def execSleepExpiry (grp wid lane : Nat) (s : State) : Host.Outcome State Fault Refusal :=
  .next (s.updWarp grp wid (fun w =>
    match w.waitOf lane with
    | .sleep 0 len =>
      w.passTo (w.fellows lane) (w.pcOf lane) (w.rslOf lane + 1) len
    | _ => w))

/-- FRAMEC (R354): a release at scope 6; the output latches the commit later. -/
def execFramec (f : SFields) (s : State) : Host.Outcome State Fault Refusal :=
  let a := f.a.toNat
  runS [(1, a, 2)] [] (some 1) [a, a + 1] (fun c =>
    let va : Dword := c.w.rd (a + 1) 0 ++ c.w.rd a 0
    let o := f.id.toNat % 4
    let out := c.s.outputs.getD o Output.reset
    if !recFP c.g.record || out.ctx ≠ c.g.ctx then c.raise 0x11 0 c.live va []
    else if c.w.releaseHeld c.live then c.s
    else
      let commit : Commit := { grp := c.g.uid, wid := c.w.wid, flight := c.w.nextFlight, ctx := c.g.ctx, addr := va }
      let c : Cx := { c with s := { c.s with outputs := c.s.outputs.set o { out with commits := out.commits ++ [commit] } } }
      (c.launchFlight (some 1) [] [] (.frame o) none [] []).finish f.y) s

/-! ### WAITV (R257) -/

/-- A waiting PC group passes its slot: it stands behind it and waits for nothing. -/
def State.passSlot (s : State) (g : Group) (w : Warp) (lane : Nat) : State :=
  match w.waitOf lane with
  | .waitv x => s.updWarp g.uid w.wid (fun w => w.passTo (w.fellows lane) (w.pcOf lane) (w.rslOf lane + 1) x.len)
  | _ => s

/-- The slot at which a PC group waits at WAITV, as a context for its repeated read: the WAITV as it was issued (R97, R257). -/
def State.cxAt (s : State) (g : Group) (w : Warp) (lane : Nat) : Option (Cx × WaitOp) :=
  match w.waitOf lane with
  | .waitv x =>
    let k := w.rslOf lane
    some ({ s, col := g.col, part := w.part, g, w, pfx := none, slot := k
            run := { grp := g.uid, wid := w.wid, pc := w.pcOf lane, header := 0, words := List.replicate x.len x.word, idx := k
                     lanes := w.fellows lane } }, x)
  | _ => none

/-- The machine with a warp and its group put back. -/
def Cx.store (c : Cx) : State := c.s.setGroup (c.g.setWarp c.w)

/-- WAITV_WAKE (R257): a repeated read; the PC group passes if the condition holds. -/
def execWaitvWake (grp wid lane : Nat) (s : State) : Host.Outcome State Fault Refusal :=
  match s.group grp with
  | none => .next s
  | some g =>
    match g.warp wid with
    | none => .next s
    | some w =>
      if !w.live.getLsbD lane then .next s
      else
        match s.cxAt g w lane with
        | none => .next s
        | some (c, x) =>
          let sp := x.fields.sp.toNat
          let asked := w.flights.any (fun f => f.op = 0xA9 && f.remote ≠ [] && f.pc = c.run.pc && f.slot = c.slot)
          if asked || c.live = 0 then .next s
          else
            let j := x.job
            if (sp = 1 && g.missing j.addr.toNat 4) || c.parked sp false [j] then .next s
            else
              let r := c.waitRead x
              let t := (c.afterWaitRead r).store
              match r with
              | .pass _ => done (match t.group grp with
                | some g => (match g.warp wid with | some w => t.passSlot g w lane | none => t)
                | none => t)
              | .miss => done (t.queueFault (faultOf g w 0 0 0xFF j.addr))
              | _ => done t

end Sys2Proof.Machine
end

