-- ==== Sys2Proof/Machine/System.lean ====
section
/-! DEFINITION. System instructions, opcodes 0xF0 to 0xF9 (R355-R361). -/

namespace Sys2Proof.Machine

/-- TRAP and BKPT (R355): raised after the slot. -/
def runTrap (code : Nat) (f : SFields) (s : State) : Host.Outcome State Fault Refusal :=
  runS [] [] none [] (fun c => c.trapAfter code 0 c.run.lanes [f.imm.setWidth 32] f.y) s

def execTrap (f : SFields) (s : State) : Host.Outcome State Fault Refusal := runTrap 0x40 f s
def execBkpt (f : SFields) (s : State) : Host.Outcome State Fault Refusal := runTrap 0x41 f s

/-! ### RTE (R356, R404) -/

/-- The slots of a clause as memory holds them; none where one cannot be fetched. -/
def State.fetchClause (s : State) (ctx : Nat) (pc : Dword) (h : Dword) : Except (Nat × Dword) (List Dword) :=
  (List.range (slotCount h)).foldl (fun acc i =>
    match acc with
    | .error e => .error e
    | .ok ws =>
      let va := pc + BitVec.ofNat 64 (8 * (i + 1))
      match s.fetchWord ctx va with
      | .ok w => .ok (ws ++ [w])
      | .error c => .error (c, va)) (.ok [])

/-- The clause in which a trapped PC group goes on at its resume slot without a warp switch, as it was fetched and decoded before
the trap (R404): none where the group stands at a clause boundary. -/
def Frame.resumed (f : Frame) (g : Group) (w : Warp) : Option Running :=
  let lanes := f.trapGrp &&& w.live
  let pc := w.pcOf (lowest lanes)
  if lanes = 0 || f.rnext || !(f.trapRec.getD 0 0).getLsbD 16 then none
  else
    match f.clause with
    | [] => none
    | h :: ws => some { grp := g.uid, wid := w.wid, pc, header := h, words := ws, idx := f.rslot, lanes }

/-- RTE (R356, R404); outside handler mode there is no trapped state, and a warp in user mode may not execute it (R337). -/
def execRte (f : SFields) (s : State) : Host.Outcome State Fault Refusal :=
  runS [] [] none [] (fun c =>
    if c.w.mode = .user then c.raise 9 0 c.live 0 []
    else
      match c.w.hframe with
      | none => c.finish f.y
      | some fr =>
        let w := (c.yielding f.y).w.leaveHandler
        let r := fr.resumed c.g w
        { c with w := match r with | some x => w.stopAt x.lanes x.idx .none | none => w }.commit r) s

/-! ### RDSR and WRSR (R357) -/

/-- A flag-setting result of the warp is on its way (R134). -/
def Warp.flagsPending (w : Warp) : Bool :=
  w.flights.any (fun f => f.op = 0x56 || f.op = 0x57 || (0x60 ≤ f.op && f.op ≤ 0x6B))

/-- A word of the operand log (R431): word `k` of entry `i`. -/
def Warp.logWord (w : Warp) (i k : Nat) : Word :=
  match w.logs.getD i none with
  | none => 0
  | some e =>
    let lo (x : Dword) : Word := x.setWidth 32
    let hi (x : Dword) : Word := (x >>> 32).setWidth 32
    match k with
    | 0 => lo e.slotWord
    | 1 => hi e.slotWord
    | 2 => lo (e.prefixWord.getD 0)
    | 3 => hi (e.prefixWord.getD 0)
    | 4 => lo e.pc
    | 5 => hi e.pc
    | 6 => BitVec.ofNat 32 (e.slot + (if e.prefixWord.isSome then 16 else 0) + 256 * i)
    | 7 => e.pcm
    | _ => 0

/-- Identity registers (R357). -/
def Cx.identity (c : Cx) (i : Nat) : Nat :=
  match i with
  | 1 => c.w.wid
  | 2 => c.g.gid
  | 3 => c.g.col
  | 4 => c.g.col % 48
  | 5 => lanternOf c.g.col
  | _ => c.s.devid

/-- The bank-state word (R357). -/
def bankWord (b : Bank) : Word := BitVec.ofNat 32 (b.number % 65536 * 65536 + b.cur.mode % 2 * 512 + b.cur.len % 512)

/-- What RDSR reads: the register with its tag (R357). -/
def Cx.special (c : Cx) (group i : Nat) : Reg :=
  let f := lowest c.run.lanes
  match group with
  | 0 => .u c.w.ctl
  | 1 => .g ((List.range 32).map (fun l => (c.w.flagOf l).setWidth 32))
  | 2 => .u c.w.bundle
  | 3 => if i = 0 then .a 0 1 else .u (BitVec.ofNat 32 (c.identity i))
  | 4 =>
    let v (l : Nat) : Word := (c.w.lvl.getD i []).getD l 0
    if levelVaries c.g.record c.g.lit.isSome i then .g ((List.range 32).map v) else .u (v f)
  | 5 => .u c.w.seed
  | 6 => .u (c.w.trapRec.getD i 0)
  | 7 => .u (c.w.logWord (i / 32) (i % 32))
  | _ => .u (bankWord (c.bank i))

/-- RDSR (R357): groups 6 and 7 are not for user mode (R337). -/
def execRdsr (f : SFields) (s : State) : Host.Outcome State Fault Refusal :=
  let d := f.d.toNat
  let group := f.id.toNat
  runS [(0, d, 1)] [] none [] (fun c =>
    if (group = 6 || group = 7) && c.w.mode = .user then c.raise 9 0 c.live 0 []
    else if group = 1 && c.w.flagsPending then c.s
    else c.fixed { regs := [(d, c.special group f.imm.toNat)], masks := [], flags := [], gens := c.w.gens } f.y) s

/-- Illegal instruction, reason 8, with the value (R357, R399). -/
def Cx.badValue (c : Cx) (v : Word) : State := c.raise 1 8 c.live 0 [v]

/-- WRSR of `sr.ctl` (R130, R357). -/
def execWrsrCtl (f : SFields) (s : State) : Host.Outcome State Fault Refusal :=
  runS [(1, f.a.toNat, 1)] [] none [f.a.toNat] (fun c =>
    let v := c.w.rd f.a.toNat 0
    if v.toNat / 512 ≠ 0 || v.toNat % 8 = 0 || v.toNat % 8 = 7 then c.badValue v
    else { c with w := { c.w with ctl := v } }.finish f.y) s

/-- WRSR of `sr.flags` (R357). -/
def execWrsrFlags (f : SFields) (s : State) : Host.Outcome State Fault Refusal :=
  runS [(1, f.a.toNat, 1)] [] none [] (fun c =>
    let v (l : Nat) : Word := c.w.rd f.a.toNat l
    match (lanesOf c.live).find? (fun l => 32 ≤ (v l).toNat) with
    | some l => c.badValue (v l)
    | none =>
      { c with w := { c.w with flags := (List.range 32).map (fun l =>
          if c.live.getLsbD l then (v l).setWidth 5 else c.w.flagOf l) } }.finish f.y) s

/-- A warp whose `sr.seed` is written (R129); `draw` numbers the values that the entropy source gives. -/
def Warp.seedWith (w : Warp) (seed : Word) (draw : Nat) : Warp :=
  { w with seed, gens := seedGens seed (fun l => if w.ctl.getLsbD 3 then Config.entropy (32 * draw + l) else 0) }

/-- WRSR of `sr.seed` (R129, R357). -/
def execWrsrSeed (f : SFields) (s : State) : Host.Outcome State Fault Refusal :=
  runS [(1, f.a.toNat, 1)] [] none [f.a.toNat] (fun c =>
    let (n, s') := c.s.draw
    { c with s := s', w := c.w.seedWith (c.w.rd f.a.toNat 0) n }.finish f.y) s

/-- CLK (R358). -/
def execClk (f : SFields) (s : State) : Host.Outcome State Fault Refusal :=
  runS [(0, f.d.toNat, 2)] [] none [] (fun c =>
    let t := if f.sub = 0 then c.s.clock else c.s.ftime
    c.fixed (c.uniformResult f.d.toNat [t.setWidth 32, (t >>> 32).setWidth 32]) f.y) s

/-- RPLY (R356). -/
def execRply (f : SFields) (s : State) : Host.Outcome State Fault Refusal :=
  runS [] [] none [] (fun c =>
    if c.w.mode = .user then c.raise 9 0 c.live 0 []
    else
      let i := f.imm.toNat % 8
      match c.w.logs.getD i none with
      | none => c.finish f.y
      | some e =>
        if c.s.replayParks c.g c.w e then c.s
        else
          let t := c.finish f.y
          match t.group c.g.uid with
          | none => t
          | some g =>
            match g.warp c.w.wid with
            | none => t
            | some w => t.replay g w i) s

/-! ### HARVEST (R359, R222) -/

/-- A leaf entry changed in the tree of a context: the walk of R479 that meets it. -/
def updTable (ts : List Table) (base : Dword) (idx : Nat) (f : Dword → Dword) : List Table :=
  ts.map (fun t => if t.base = base then { t with entries := t.entries.map (fun e => if e.1 = idx then (idx, f e.2) else e) } else t)

/-- The leaf that covers an offset, changed. -/
def updLeaf (ts : List Table) (f : Dword → Dword) : List (Nat × Nat × Option Nat) → Dword → Nat → List Table
  | [], _, _ => ts
  | (lo, n, leaf) :: rest, base, off =>
    let i := off / 2 ^ lo % 2 ^ n
    let e := tableEntry ts base i
    if !entV e then ts
    else if rest = [] then (if entSz e = 0 then updTable ts base i f else ts)
    else if entSz e = 3 then updLeaf ts f rest (e &&& 0x003FFFFFFFFFFF00#64) off
    else if leaf = some (entSz e) then updTable ts base i f
    else ts

/-- `DRT` and `ACC` set in an entry (R221). -/
def entGather (drt acc : Bool) (e : Dword) : Dword :=
  e ||| (if drt then 1#64 <<< 61 else 0) ||| (if acc then 1#64 <<< 60 else 0)

/-- A TLB entry written back (R222). -/
def State.writeBack (s : State) (t : TlbEntry) : State :=
  match (s.ctx t.ctx).bind (fun c => c.roots.find? (fun r => r.1 = t.lan)) with
  | none => s
  | some r =>
    let ts := updLeaf (s.tables.getD t.lan []) (entGather t.drt.isSome t.acc.isSome) treeLevels r.2 (offOf t.va)
    { s with tables := s.tables.set t.lan ts }

/-- Gathered bits written back and let go (R222). -/
def State.harvest (s : State) (p : TlbEntry → Bool) : State :=
  let t := (s.tlb.filter p).foldl State.writeBack s
  { t with tlb := s.tlb.filter (fun x => !p x) }

/-- HARVEST (R359): its PC group parks until the entries are written; outside firmware mode it is not allowed (R337). -/
def execHarvest (f : SFields) (s : State) : Host.Outcome State Fault Refusal :=
  runS [(1, f.a.toNat, 1)] [] none [f.a.toNat] (fun c =>
    if c.w.mode ≠ .firmware then c.raise 9 0 c.live 0 []
    else c.parkAfter (.harvest (c.w.rd f.a.toNat 0).toNat c.run.words.length) f.y) s

/-- HARVEST_ENTRIES_WRITTEN (R359). -/
def execHarvestEntriesWritten (grp wid lane : Nat) (s : State) : Host.Outcome State Fault Refusal :=
  match (s.warp grp wid).map (fun w => w.waitOf lane) with
  | some (Wait.harvest ctx _) =>
    .next ((s.harvest (fun t => t.ctx = ctx)).updWarp grp wid (fun w => w.wake (fun x => match x with
      | .harvest k _ => k = ctx
      | _ => false)))
  | _ => .next s

/-! ### DIAG and FLG (R360, R361) -/

/-- A vault state as DIAG numbers it. -/
def VaultState.code : VaultState → Nat
  | .normal => 0
  | .throttle => 1
  | .retention => 2
  | .lost => 3

/-- A monitor value (R360). -/
def State.monitor (s : State) (col item : Nat) : Word :=
  let k := s.column col
  match item with
  | 0 => BitVec.ofInt 32 k.temp
  | 1 => BitVec.ofNat 32 k.vaultSeen.code
  | 2 => s.ring.getD (col / 4) 0
  | 3 => s.milliVolt.getD (lanternOf col) 0
  | _ => BitVec.ofNat 32 (min k.corrected 0xFFFFFFFF)

/-- DIAG (R360). -/
def execDiag (f : SFields) (s : State) : Host.Outcome State Fault Refusal :=
  runS [(0, f.d.toNat, 1)] [] none [] (fun c =>
    c.fixed (c.uniformResult f.d.toNat [c.s.monitor c.col f.imm.toNat]) f.y) s

/-- FLG.clr (R361). -/
def execFlgClr (f : SFields) (s : State) : Host.Outcome State Fault Refusal :=
  let fs : BitVec 5 := f.imm.setWidth 5
  runS [] [] none [] (fun c =>
    if c.w.flagsPending then c.s
    else
      { c with w := { c.w with flags := (List.range 32).map (fun l =>
          if c.live.getLsbD l then c.w.flagOf l &&& ~~~fs else c.w.flagOf l) } }.finish f.y) s

/-- FLG.test (R361, R147). -/
def execFlgTest (f : SFields) (s : State) : Host.Outcome State Fault Refusal :=
  let fs : BitVec 5 := f.imm.setWidth 5
  let m := f.d.toNat % 8
  runS [] [m] none [] (fun c =>
    if c.w.flagsPending then c.s
    else
      { c with w := c.w.putMask m c.live (maskOf (fun l => c.live.getLsbD l && c.w.flagOf l &&& fs ≠ 0)) }.finish f.y) s

end Sys2Proof.Machine
end

