-- ==== Sys2Proof/Machine/Queues.lean ====
section
/-! DEFINITION. User queues: starting and completing commands, queue tokens, WAITTOK, SIGNAL, DRAIN, and the completion of
launches (R441-R448, R486). -/

namespace Sys2Proof.Machine

/-! ### Starting and completing commands (R442-R446) -/

/-- A command's index modulo 2^32 as a place in the ring. -/
def Queue.place (q : Queue) (i : Word) : Dword := q.ring + BitVec.ofNat 64 (64 * (i.toNat % q.cap))

/-- `STAT` bit 31. -/
def Queue.stopped (q : Queue) : Bool := q.stat.getLsbD 31

/-- The header takes `RPTR` and `STAT` (R441); a write that finds no translation is made again later. -/
def State.syncHeader (s : State) (qid : Nat) : State :=
  match s.queueOf qid with
  | none => s
  | some q =>
    if !q.headerDue then s
    else
      let r := match s.devWrite q.ctx 0xFFFF (q.header + 0x10) (wordBytes q.rptr) with
        | .ok t => t.devWrite q.ctx 0xFFFF (q.header + 0x18) (wordBytes q.stat)
        | r => r
      match r with
      | .ok t => t.updQueue qid (fun q => { q with headerDue := false })
      | .wait t => t
      | .fail t c a => t.killCtx q.ctx c 0 a []

/-- The commands of a queue retire in order as they complete (R442). -/
def Queue.retire (q : Queue) : Queue :=
  let n := (q.cmds.takeWhile Cmd.done).length
  if n = 0 then q else { q with cmds := q.cmds.drop n, rptr := q.rptr + BitVec.ofNat 32 n, headerDue := true }

/-- A command completes with status 0. -/
def State.cmdDone (s : State) (qid idx : Nat) : State :=
  (s.updQueue qid (fun q =>
    ({ q with cmds := q.cmds.map (fun c => if c.index = idx then { c with done := true } else c) } : Queue).retire)).syncHeader qid

/-- A command completes with another status, and its queue stops (R446). -/
def State.cmdFail (s : State) (qid idx status cause : Nat) : State :=
  (s.updQueue qid (fun q => { q with stat := BitVec.ofNat 32 (status + cause * 2 ^ 8 + 2 ^ 31), headerDue := true })).cmdDone
    qid idx

/-- What a command comes to at its start. -/
inductive CmdOut where
  | done (s : State)
  | started (s : State)
  | wait (s : State)
  | bad (s : State) (status cause : Nat)

/-- The bytes of a command that its operands use (R443). -/
def cmdUses (op : Nat) : List (Nat × Nat) :=
  match op with
  | 1 => [(0, 2), (8, 16)]
  | 2 => [(0, 1), (8, 16)]
  | 3 => [(0, 1), (8, 16)]
  | 4 => [(0, 1), (8, 12)]
  | 5 => [(0, 1), (8, 8)]
  | _ => [(0, 1)]

/-- A command breaks R443. -/
def cmdBad (b : Bytes) : Bool :=
  let op := field b 0 1
  let used (i : Nat) : Bool := (cmdUses op).any (fun r => r.1 ≤ i && i < r.1 + r.2)
  let a := (fieldD b 8).toNat
  let n := field b 0x10 8
  op = 0 || 7 < op || (List.range 64).any (fun i => !used i && b.getD i 0 ≠ 0) || (op = 1 && 1 < field b 1 1) ||
    a % (match op with | 1 => 256 | 2 => 16 | 3 => 16 | 4 => 32 | 5 => 64 | _ => 1) ≠ 0 || (op = 1 && n % 16 ≠ 0) ||
    (op = 3 && (n = 0 || 2 ^ 32 ≤ n)) || (op = 4 && (n = 0 || 4096 < n))

/-- The context lets its queues start commands; a departing module starts none (R459). -/
def State.queueRuns (s : State) (q : Queue) : Bool :=
  s.switch = .joined && q.mapped && !q.stopped && q.startPtr ≠ q.wptr && (match s.ctx q.ctx with | some c => c.issues | none => false)

/-- A command may start after those before it (R444). -/
def Queue.inTurn (q : Queue) (b : Bytes) : Bool :=
  let op := field b 0 1
  q.cmds.all (fun c => c.op ≠ 2 || c.done) &&
    (!((3 ≤ op && op ≤ 7) || (op = 1 && (fieldW b 1).getLsbD 0)) || q.cmds.all Cmd.done)

/-- The next command of a queue starts, if it has the opcode `op` and may start; one that breaks R443 completes with
bad-command whatever step meets it. -/
def startCmd (op qid : Nat) (s : State) (run : State → Queue → Cmd → CmdOut) : State :=
  match s.queueOf qid with
  | none => s
  | some q =>
    if !s.queueRuns q then s
    else
      let idx := q.startPtr.toNat
      let begin' (s : State) (b : Bytes) : State := s.updQueue qid (fun q => { q with
        startPtr := q.startPtr + 1
        cmds := q.cmds ++ [{ index := idx, op := field b 0 1, data := b, launch := none, done := false }] })
      match s.devRead q.ctx 0xFFFF (q.place q.startPtr) 64 with
      | .wait t => t
      | .fail t c _ => if q.inTurn [] then (begin' t []).cmdFail qid idx 5 c else s
      | .ok b =>
        if cmdBad b then (if q.inTurn b then (begin' (s.accessed q.ctx (q.place q.startPtr) 64) b).cmdFail qid idx 5 0 else s)
        else if field b 0 1 ≠ op || !q.inTurn b then s
        else
          let t := begin' (s.accessed q.ctx (q.place q.startPtr) 64) b
          match t.queueOf qid with
          | none => s
          | some q' =>
            match run t q' { index := idx, op, data := b, launch := none, done := false } with
            | .done u => u.cmdDone qid idx
            | .started u => u
            | .wait u => u.updQueue qid (fun _ => q)
            | .bad u st c => u.cmdFail qid idx st c

/-! ### Queue tokens (R447, R448) -/

/-- A token breaks R447. -/
def tokenBad (b : Bytes) : Bool := 6 < field b 8 1 || !zeroField b 9 7

/-- A token's sixteen bytes. -/
def State.readToken (s : State) (ctx col : Nat) (va : Dword) : Dev Bytes := s.devRead ctx col va 16

/-- A token with `n` added to its count; `SCO` becomes 6 for an addition of the queue's own (R448). -/
def State.addToken (s : State) (ctx col : Nat) (va : Dword) (n : Nat) (own : Bool) : Dev State :=
  match s.readToken ctx col va with
  | .ok b =>
    match (s.accessed ctx va 16).devWrite ctx col va (toBytes 8 (leNat (b.take 8) + n)) with
    | .ok t => if own then t.devWrite ctx col (va + 8) [6] else .ok t
    | r => r
  | .wait t => .wait t
  | .fail t c a => .fail t c a

/-- The narrowest scope that encloses some cores (R26). -/
def scopeOf (cols : List Nat) : Nat :=
  match cols with
  | [] => 2
  | c :: t =>
    if t.all (· = c) then 2
    else if t.all (fun d => d / 4 = c / 4) then 3
    else if t.all (fun d => lanternOf d = lanternOf c) then 4
    else 5

/-- Columns on which the producer of a group's signals has been placed (R242). -/
def State.producerCols (s : State) (g : Group) : List Nat :=
  match g.lit with
  | some (n, _) =>
    match s.ctx g.ctx with
    | some c => (match c.nodes[n]? with | some nd => nd.cols | none => [])
    | none => []
  | none => match s.launchOf g.launch with
    | some l => l.cols
    | none => []

/-- A signal's producer is remembered with the token (R242). -/
def Ctx.signalled (c : Ctx) (va : Dword) (cols : List Nat) : Ctx :=
  if c.signals.any (fun x => x.1 = va) then
    { c with signals := c.signals.map (fun x => if x.1 = va then (va, (x.2 ++ cols).eraseDups) else x) }
  else { c with signals := c.signals ++ [(va, cols.eraseDups)] }

/-- Two contexts' addresses name one token: a page that both map (R479). -/
def State.sameToken (s : State) (c1 : Nat) (va1 : Dword) (c2 : Nat) (va2 : Dword) : Bool :=
  (c1 = c2 && va1 = va2) ||
    (match s.translate c1 (lanOf va1) (offOf va1) .read, s.translate c2 (lanOf va2) (offOf va2) .read with
      | .ok k1, .ok k2 => k1 = k2 && !isPeer va1 && !isPeer va2
      | _, _ => false)

/-- The producers whose additions a WAITTOK on a token observes, of whatever context signalled it (R448). -/
def State.observed (s : State) (ctx : Nat) (va : Dword) : List Nat :=
  ((s.contexts.map (fun c => ((c.signals.filter (fun x => s.sameToken ctx va c.id x.1)).map Prod.snd).flatten)).flatten).eraseDups

/-- A WAITTOK has completed: the launches that start after it follow its token (R448). -/
def State.tokenMet (s : State) (q : Queue) (va : Dword) : State :=
  s.updQueue q.qid (fun q => { q with waited := q.waited.filter (fun x => x.1 ≠ va) ++ [(va, s.observed q.ctx va)] })

/-- A WAITTOK looks at its token. -/
def lookToken (s : State) (q : Queue) (b : Bytes) : CmdOut :=
  match s.readToken q.ctx 0xFFFF (fieldD b 8) with
  | .wait t => .wait t
  | .fail t c _ => .bad t 5 c
  | .ok k =>
    if tokenBad k then .bad s 5 0
    else if fieldD b 0x10 ≤ fieldD k 0 then .done ((s.accessed q.ctx (fieldD b 8) 16).tokenMet q (fieldD b 8))
    else .started (s.accessed q.ctx (fieldD b 8) 16)

/-- WAITTOK (R443). -/
def execWaittok (queue : Nat) (s : State) : Host.Outcome State Fault Refusal :=
  done (startCmd 2 queue s (fun t q c => lookToken t q c.data))

/-- WAITTOK_SATISFIED (R443): the WAITTOK that a queue waits at looks at its token again. -/
def execWaittokSatisfied (queue : Nat) (s : State) : Host.Outcome State Fault Refusal :=
  match s.queueOf queue with
  | none => .next s
  | some q =>
    match q.cmds.find? (fun c => c.op = 2 && !c.done) with
    | none => .next s
    | some c =>
      if q.stopped || !(match s.ctx q.ctx with | some x => x.issues | none => false) then .next s
      else
        match lookToken s q c.data with
        | .done t => done (t.cmdDone queue c.index)
        | .started t => done t
        | .wait t => done t
        | .bad t st k => done (t.cmdFail queue c.index st k)

/-- SIGNAL (R443, R448). -/
def execSignal (queue : Nat) (s : State) : Host.Outcome State Fault Refusal :=
  done (startCmd 3 queue s (fun t q c =>
    let va := fieldD c.data 8
    match t.readToken q.ctx 0xFFFF va with
    | .wait u => .wait u
    | .fail u k _ => .bad u 5 k
    | .ok b =>
      if tokenBad b then .bad t 5 0
      else
        match t.addToken q.ctx 0xFFFF va (field c.data 0x10 8) true with
        | .ok u => .done u
        | .wait u => .wait u
        | .fail u k _ => .bad u 5 k))

/-- DRAIN (R443): complete once every earlier command is. -/
def execDrain (queue : Nat) (s : State) : Host.Outcome State Fault Refusal :=
  done (startCmd 7 queue s (fun t _ _ => .done t))

/-! ### Completion of launches (R75, R443, R448) -/

/-- Every group of a launch has been claimed and has retired. -/
def Launch.over (l : Launch) : Bool := l.total ≤ l.next && l.alive = 0

/-- A launch that is over completes: the owners write back what its accesses gathered (R222), the token takes 1, the command is
done.  A token without a translation holds the completion up. -/
def State.finishLaunch (s : State) (l : Launch) : State :=
  if !l.over then s
  else
    let finish' (t : State) : State :=
      ((t.harvest (fun x => x.ctx = l.ctx && x.launches.contains l.uid)).cmdDone l.qid l.cmd : State) |> fun t =>
        { t with launches := t.launches.filter (fun x => x.uid ≠ l.uid) }
    if l.token = 0 then finish' s
    else
      match s.addToken l.ctx 0xFFFF l.token 1 true with
      | .ok t => finish' t
      | .wait t => t
      | .fail t c a => t.killCtx l.ctx c 0 a []

/-- What waits for a translation of a context's structures is tried again: completions and headers. -/
def State.settle (s : State) : State :=
  let t := s.launches.foldl State.finishLaunch s
  t.queues.foldl (fun t q => t.syncHeader q.qid) t

end Sys2Proof.Machine
end

