-- ==== Sys2Proof/Machine/Output.lean ====
section
/-! DEFINITION. What the device writes for its display outputs: pose pages and retire records, and the accesses that settle when
an entry of theirs is served (R467, R470, R477, R486). -/

namespace Sys2Proof.Machine

/-- The 24 bytes of a pose in a pose page. -/
def poseImage (p : Pose) : Bytes := ([p.qw, p.qx, p.qy, p.qz].map wordBytes).flatten ++ dwordBytes p.time

/-- An assigned output's mode block (R477). -/
def Output.period (o : Output) : Nat := field o.mode 0x18 8
def Output.phase (o : Output) : Nat := field o.mode 0x20 8
def Output.lead (o : Output) : Nat := field o.mode 0x28 4
def Output.retireAt (o : Output) : Dword := fieldD o.mode 0x30
def Output.posePage (o : Output) : Dword := fieldD o.mode 0x38

/-- An output, and the machine with one changed. -/
def State.output (s : State) (i : Nat) : Output := s.outputs.getD i Output.reset
def State.setOutput (s : State) (i : Nat) (o : Output) : State := { s with outputs := s.outputs.set i o }

/-- An access of an output under the context assigned to it (R486): what it meets ends the context. -/
def State.outputDone (s : State) (ctx : Nat) (r : Dev State) : State :=
  match r with
  | .ok t => t
  | .wait t => t
  | .fail t c a => if ((t.ctx ctx).map (fun c => c.phase.over)).getD false then s else t.killCtx ctx c 0 a []

/-- The pose page of an output written (R470): the slot that `CUR` does not name, then `CUR`. -/
def State.writePose (s : State) (o : Output) (p : Pose) : Dev State :=
  let at' := o.posePage
  match s.devRead o.ctx 0xFFFF at' 4 with
  | .wait t => .wait t
  | .fail t c a => .fail t c a
  | .ok b =>
    let k := 1 - field b 0 4 % 2
    match (s.accessed o.ctx at' 4).devWrite o.ctx 0xFFFF (at' + BitVec.ofNat 64 (8 + 24 * k)) (poseImage p) with
    | .ok t => t.devWrite o.ctx 0xFFFF at' (toBytes 4 k)
    | r => r

/-- The pose pages that do not hold the newest pose yet are written. -/
def State.writePoses (s : State) : State :=
  (List.range 4).foldl (fun (s : State) i =>
    let o := s.output i
    if !o.poseDue then s
    else
      match s.writePose o s.poseReg.pose with
      | .ok t => t.setOutput i { o with poseDue := false }
      | r => s.outputDone o.ctx r) s

/-- Retire records written, the oldest first, up to one that waits (R467, R486). -/
def State.writeRetires (s : State) (i : Nat) : List (Nat × Dword × Bytes) → State
  | [] => s.setOutput i { s.output i with retires := [] }
  | (ctx, va, bs) :: rest =>
    match s.devWrite ctx 0xFFFF va bs with
    | .ok t => t.writeRetires i rest
    | .wait t => t.setOutput i { t.output i with retires := (ctx, va, bs) :: rest }
    | .fail t c a => (s.outputDone ctx (.fail t c a)).writeRetires i rest

/-- The accesses of the device that waited for the end of a launch, of a command or of a frame are tried again (R486). -/
def State.settleAll (s : State) : State :=
  (List.range 4).foldl (fun (s : State) i => s.writeRetires i (s.output i).retires) s.settle.writePoses

end Sys2Proof.Machine
end

