-- ==== Sys2Proof/Machine/PageTable.lean ====
section
/-! DEFINITION. The translation trees that the firmware keeps (R479): installing and removing leaves, shoot-downs, pages
poisoned in every entry, and the free-page pools (R476). -/

namespace Sys2Proof.Machine

/-- An entry of a table written; an entry of 0 is not listed. -/
def setEntry (ts : List Table) (base : Dword) (idx : Nat) (e : Dword) : List Table :=
  ts.map (fun t =>
    if t.base ≠ base then t
    else
      let rest := t.entries.filter (fun x => x.1 ≠ idx)
      { t with entries := if e = 0 then rest else rest ++ [(idx, e)] })

/-- The table that a pointer entry names. -/
def ptrBase (e : Dword) : Dword := e &&& 0x003FFFFFFFFFFF00#64

/-- A pointer entry. -/
def ptrEntry (base : Dword) : Dword := (1#64 <<< 63) ||| (3#64 <<< 54) ||| base

/-- An entry of a table of some level points to another table. -/
def isPtr (leafCode : Option Nat) (e : Dword) : Bool := entV e && entSz e = 3 && leafCode ≠ some 0

/-- The tables of a tree from one on, with those beneath it. -/
def subTables (ts : List Table) : List (Nat × Nat × Option Nat) → Dword → List Dword
  | [], _ => []
  | (_, _, leaf) :: rest, base =>
    base :: (match ts.find? (fun t => t.base = base) with
      | some t => (t.entries.map (fun e => if isPtr leaf e.2 then subTables ts rest (ptrBase e.2) else [])).flatten
      | none => [])

/-- The n-th place of a table in a lantern's GDDR 7 (R479): 4 KiB each, from the top down. -/
def firmTable (n : Nat) : Dword := BitVec.ofNat 64 (Config.gddrBytes - 4096 * (n + 1))

/-- A save area overlaps a 64 KiB page. -/
def savedOn (save : Dword) (size lan page : Nat) : Bool :=
  lanOf save = lan && offOf save < page + 65536 && page < offOf save + size

/-- A 64 KiB page overlaps the save area or the block-store pool of a context (R476). -/
def Ctx.ownsPage (c : Ctx) (lan page : Nat) : Bool :=
  savedOn c.save c.saveSize lan page ||
    c.bsAreas.any (fun a => match a with
      | .vault .. => false
      | .gddr l base => l = lan && base < page + 65536 && page < base + 16384)

/-- The leaf size code of a level of the tree. -/
def levelLeaf (level : Nat) : Option Nat := if level ≤ 2 then some level else none

/-- An entry of a table is a leaf. -/
def isLeaf (level : Nat) (e : Dword) : Bool := entV e && levelLeaf level = some (entSz e)

/-- A 64 KiB page of GDDR 7 is a frame of a leaf. -/
def leafFrames (e : Dword) (page : Nat) : Bool :=
  entLoc e = 0 && entFrame e < page + 65536 && page < entFrame e + 2 ^ pageBits (entSz e)

/-- A 64 KiB page of a lantern's GDDR 7 is the frame of a leaf. -/
def State.framed (s : State) (lan page : Nat) : Bool :=
  (s.tables.getD lan []).any (fun t => t.entries.any (fun x =>
    isLeaf t.level x.2 && leafFrames x.2 page))

/-- A page holds a table or is the frame of a leaf (R476). -/
def State.inTrees (s : State) (lan page : Nat) : Bool :=
  (s.tables.getD lan []).any (fun t => (page ≤ t.base.toNat && t.base.toNat < page + 65536)) || s.framed lan page

/-- The firmware can keep a table at a place while it installs a leaf (R479): outside every pool page, mapping, save area and
block-store pool. -/
def State.tableFree (s : State) (lan : Nat) (e : Dword) (n : Nat) : Bool :=
  let a := (firmTable n).toNat
  let page := a / 65536 * 65536
  !leafFrames e page && !(s.pools.getD lan []).contains (BitVec.ofNat 64 page) && !s.framed lan page && s.contexts.all (fun c => !c.ownsPage lan page) &&
    (s.tables.getD lan []).all (fun t => t.base.toNat / 4096 ≠ a / 4096)

/-- The first number from one on that is free. -/
def firstFree (free : Nat → Bool) : Nat → Nat → Nat
  | 0, n => n
  | k + 1, n => if free n then n else firstFree free k (n + 1)

/-- The next place for a table of a lantern.  DESIGN CHOICE (log entry 42): the firmware takes the highest that is free. -/
def State.tablePlace (s : State) (lan : Nat) (e : Dword) (n : Nat) : Nat :=
  firstFree (s.tableFree lan e) (Config.gddrBytes / 4096) n

/-- A larger leaf split into leaves of the next smaller size over the same frames (R479). -/
def splitLeaf (e : Dword) (sz n : Nat) : List (Nat × Dword) :=
  let keep := e &&& ~~~(0x00FFFFFFFFFF0000#64)
  (List.range (2 ^ n)).map (fun i =>
    (i, keep ||| BitVec.ofNat 64 ((entFrame e + i * 2 ^ pageBits sz) + entLoc e * 2 ^ 56 + sz * 2 ^ 54)))

/-- The size code of the leaves of the next level. -/
def nextLeaf : List (Nat × Nat × Option Nat) → Nat
  | (_, _, some k) :: _ => k
  | _ => 0

/-- A leaf installed below a table (R479): smaller leaves beneath it go, a larger leaf above it is split into tables in
pages of the pool; `place` finds the places of the firmware's other tables.  The result is the tables, the pool, and the number of
the place behind them; none when the pool holds too few pages. -/
def putLeaf (place : Nat → Nat) (e : Dword) (off : Nat) : List (Nat × Nat × Option Nat) → Dword → List Table → List Dword → Nat →
    Option (List Table × List Dword × Nat)
  | [], _, _, _, _ => none
  | (lo, n, leaf) :: rest, base, ts, pool, next =>
    let i := off / 2 ^ lo % 2 ^ n
    let old := tableEntry ts base i
    if leaf = some (entSz e) then
      let gone := if isPtr leaf old then subTables ts rest (ptrBase old) else []
      some (setEntry (ts.filter (fun t => !gone.contains t.base)) base i e, pool, next)
    else if isPtr leaf old then putLeaf place e off rest (ptrBase old) ts pool next
    else if entV old then
      match pool, rest with
      | p :: pool, (_, m, _) :: _ =>
        let t : Table := { level := rest.length - 1, base := p, entries := splitLeaf old (nextLeaf rest) m }
        putLeaf place e off rest p (setEntry (ts ++ [t]) base i (ptrEntry p)) pool next
      | _, _ => none
    else
      let next := place next
      let p := firmTable next
      putLeaf place e off rest p (setEntry (ts ++ [{ level := rest.length - 1, base := p, entries := [] }]) base i (ptrEntry p)) pool (next + 1)

/-- A leaf removed (R475 UNMAP). -/
def cutLeaf (ts : List Table) : List (Nat × Nat × Option Nat) → Dword → Nat → List Table
  | [], _, _ => ts
  | (lo, n, leaf) :: rest, base, off =>
    let i := off / 2 ^ lo % 2 ^ n
    let old := tableEntry ts base i
    if isPtr leaf old then cutLeaf ts rest (ptrBase old) off else setEntry ts base i 0

/-- The range that a leaf covers, in bytes. -/
def leafBytes (e : Dword) : Nat := 2 ^ pageBits (entSz e)

/-- The translations of a range shot down: what their TLB entries have gathered is written back (R222). -/
def State.shootDown (s : State) (ctx lan lo n : Nat) : State :=
  s.harvest (fun t => t.ctx = ctx && t.lan = lan && lo < offOf t.va + 65536 && offOf t.va < lo + n)

/-- MAP and FAULTRSP refuse a leaf for an address (R479). -/
def leafRefused (va e : Dword) : Bool := bits va 56 8 ≠ 0 || !leafValid e || offOf va % leafBytes e ≠ 0

/-- The root of a context's tree in a lantern, made when there is none, for a leaf that is to be installed. -/
def State.rootOf (s : State) (c : Ctx) (lan : Nat) (e : Dword) : Dword × State :=
  match c.roots.find? (fun r => r.1 = lan) with
  | some r => (r.2, s)
  | none =>
    let n := s.tablePlace lan e s.nextTable
    let p := firmTable n
    let s : State := { s with
      nextTable := n + 1, tables := s.tables.set lan (s.tables.getD lan [] ++ [{ level := 4, base := p, entries := [] }]) }
    (p, s.updCtx c.id (fun c => { c with roots := c.roots ++ [(lan, p)] }))

/-- A leaf installed for an address of a context after one shoot-down (R479); none when the pool holds too few pages. -/
def State.install (s : State) (c : Ctx) (va e : Dword) : Option State :=
  let lan := lanOf va
  let off := offOf va
  let wide := match s.leaf c.id lan off with
    | some old => max (leafBytes old) (leafBytes e)
    | none => leafBytes e
  let t := s.shootDown c.id lan (off / wide * wide) wide
  let (root, t) := t.rootOf c lan e
  match putLeaf (t.tablePlace lan e) e off treeLevels root (t.tables.getD lan []) (t.pools.getD lan []) t.nextTable with
  | none => none
  | some (ts, pool, next) =>
    some { t with tables := t.tables.set lan ts, pools := t.pools.set lan pool, nextTable := next }

/-- UNMAP: the bits gathered for the page and the machine without its leaf (R475, R476). -/
def State.uninstall (s : State) (c : Ctx) (va : Dword) : Nat × State :=
  let lan := lanOf va
  let off := offOf va
  match c.roots.find? (fun r => r.1 = lan), s.leaf c.id lan off with
  | some r, some old =>
    let t := s.shootDown c.id lan (off / leafBytes old * leafBytes old) (leafBytes old)
    let e := (t.leaf c.id lan off).getD 0
    let ts := cutLeaf (t.tables.getD lan []) treeLevels r.2 off
    ((bits e 61 1).toNat + 2 * (bits e 60 1).toNat, { t with tables := t.tables.set lan ts })
  | _, _ => (0, s)

/-- Every entry that maps the page of a GDDR 7 line is poisoned (R233). -/
def State.poisonPages (s : State) (lan off : Nat) : State :=
  let hit (level : Nat) (e : Dword) : Bool :=
    isLeaf level e && entLoc e = 0 && entFrame e ≤ off && off < entFrame e + leafBytes e
  { s with tables := s.tables.set lan ((s.tables.getD lan []).map (fun t =>
      { t with entries := t.entries.map (fun x => if hit t.level x.2 then (x.1, x.2 ||| (1#64 <<< 62)) else x) })) }

/-- POOL refuses an entry of its page list (R476). -/
def State.pageRefused (s : State) (lan : Nat) (seen : List Dword) (e : Dword) : Bool :=
  bits e 0 16 ≠ 0 || bits e 54 10 ≠ 0 || seen.contains e || (s.pools.getD lan []).contains e || s.inTrees lan e.toNat ||
    s.contexts.any (fun c => c.ownsPage lan e.toNat)

/-- The pages of a list that POOL would add, or none when it refuses one. -/
def State.poolPages (s : State) (lan : Nat) : List Dword → List Dword → Option (List Dword)
  | seen, [] => some seen
  | seen, e :: t => if s.pageRefused lan seen e then none else s.poolPages lan (seen ++ [e]) t

end Sys2Proof.Machine
end

