-- ==== Sys2Proof/Machine/Warps.lean ====
section
/-! DEFINITION. What comes about in a placed warp without an instruction of its own: clause starts, results, completions,
traps, watchdogs and the end of a warp (R42-R48, R75, R98-R101, R106, R396-R405, R413-R416). -/

namespace Sys2Proof.Machine

/-! ### Clause starts (R42-R48, R81, R106) -/

/-- The mode of a warp as decode compares it (R106). -/
def Mode.priv : Mode → Nat
  | .user => 0
  | .handler => 1
  | .firmware => 2

/-- The lane of the PC group that a warp would issue next (R47, R48): the current one while it is eligible and the
fairness period has not passed. -/
def Warp.choice (w : Warp) (period : Nat) : Option Nat :=
  match w.cur with
  | none => w.nextGroup w.curPc
  | some l =>
    let stays := w.ready l && (w.fair < period || w.readyGroups.length < 2)
    if stays then some l else w.nextGroup (w.pcOf l)

/-- The warp with a PC group as its current one; the fairness count starts again when the group changes (R48). -/
def Warp.makeCurrent (w : Warp) (l : Nat) : Warp :=
  let l := lowest (w.groupOf l)
  if w.oldPc = w.pcOf l then { w with cur := some l } else w.turnTo (some l)

/-- The wait of a clause header holds (R43, R78, R100). -/
def Warp.waitMet (w : Warp) (h : Dword) : Bool :=
  let level := (bits h 36 4).toNat
  (List.range 8).all (fun k => !(bits h 40 8).getLsbD k || w.counter k ≤ level)

/-- What becomes of a warp that a partition looks at. -/
inductive Look where
  | skip                                     -- not eligible
  | start (r : Running) (lane : Nat)         -- it begins a clause
  | park (lane : Nat) (va : Dword)           -- a word of its clause has no translation (R413)
  | fault (lane : Nat) (c : Cause)           -- a cause at decode, or met by the fetch

/-- A cause of a clause at decode, for the lanes of a PC group (R398). -/
def decodeCause (s : State) (pc : Dword) (lanes : Word) (code reason slot op : Nat) (hdr : Bool) (addr : Dword) : Cause :=
  { code, reason, prec := true, src := 0, pc, slot, sv := true, hdr, op, rslot := 0, rnext := false, lanes, grp := lanes
    addr, det := [], issued := s.clock.toNat }

/-- The cause of a clause that decode refuses; a target that is no header names the slot that made the transfer (R79,
R398). -/
def clauseCause (s : State) (w : Warp) (lane : Nat) (d : DecodeFault) : Cause :=
  let pc := w.pcOf lane
  let lanes := w.issueLanes lane
  let came := w.came.getD lane none
  let addr : Dword := if d.cause = 2 && came.isSome then pc else 0
  match d.cause = 2 && d.reason = 1, came with
  | true, some (p, k, op) => decodeCause s p lanes 2 1 k op false addr
  | _, _ => decodeCause s pc lanes d.cause d.reason d.slot d.op d.hdr addr

/-- A partition looks at a warp (R43): it begins no clause while a cause is to be delivered (R397) or a yield is not satisfied
(R101), and at a clause boundary the `WAIT` of its PC group's clause must be met.  A group inside its clause goes on at its
resume slot; its clause is fetched and decoded again.  A fetch from a line of a slice that is shutting down waits (R233). -/
def State.look (s : State) (g : Group) (w : Warp) : Look :=
  let runs := match s.ctx g.ctx with | some c => c.issues | none => false
  if w.retired || w.live = 0 || !g.started || w.entering.isSome || !runs || w.causes ≠ [] || w.yields ≠ [] then .skip
  else
    match w.choice (recFair g.record) with
    | none => .skip
    | some l =>
      let pc := w.pcOf l
      let k := w.issueSlot l
      let lanes := w.issueLanes l
      match s.fetchWord g.ctx pc with
      | .error c => if c = 0x10 then .park l pc else .fault l (decodeCause s pc lanes c 0 0 0 false pc)
      | .ok h =>
        if (k = 0 && isHeader h && !w.waitMet h) || s.slicesPark g.ctx pc (8 * slotCount h + 8) then .skip
        else
          match s.fetchClause g.ctx pc h with
          | .error (c, va) => if c = 0x10 then .park l va else .fault l (decodeCause s pc lanes c 0 0 0 false va)
          | .ok ws =>
            let run : Running := { grp := g.uid, wid := w.wid, pc, header := h, words := ws, idx := k, lanes }
            match decodeClause w.mode.priv h ws with
            | some d => .fault l (clauseCause s w l d)
            | none => .start run l

/-- The warps of a partition in the order of its round robin (R44). -/
def State.roundRobin (s : State) (col part : Nat) (last : Nat) : List (Group × Warp) :=
  let all := ((s.groups.filter (fun g => g.col = col)).map (fun g =>
    (g.warps.filter (fun w => w.part = part)).map (fun w => (g, w)))).flatten
  ((List.range 16).map (fun i => all.filter (fun x => x.2.slot = (last + 1 + i) % 16))).flatten

/-- CLAUSE_START (R43). -/
def execClauseStart (col part : Nat) (s : State) : Host.Outcome State Fault Refusal :=
  match (s.column col).parts[part]? with
  | none => .next s
  | some p =>
    if p.running.isSome || (s.column col).stopped then .next s
    else
      let looks := (s.roundRobin col part p.lastSlot).map (fun x => (x.1, x.2, s.look x.1 x.2))
      match looks.find? (fun x => match x.2.2 with | .skip => false | _ => true) with
      | none => .next s
      | some (g, w, l) =>
        match l with
        | .skip => .next s
        | .start r lane =>
          let w := w.makeCurrent lane
          let s := ([r.pc, r.pc + BitVec.ofNat 64 (8 * r.words.length)].foldl (fun s va =>
            s.gather g.ctx (some g.launch) (lanOf va) (offOf va) false) s).draw.2
          done ((s.setGroup (g.setWarp w)).updColumn col (fun k =>
            { k with parts := k.parts.set part { running := some r, lastSlot := w.slot } }))
        | .park lane va =>
          let t := s.updWarp g.uid w.wid (fun w => (w.stopAt (w.issueLanes lane) (w.issueSlot lane) .fetch).idle)
          .next (t.queueFault (faultOf g w 5 2 0 va))
        | .fault _ c => .next (s.deliverPrecise g.uid w.wid c)

/-- A partition is issuing a clause of the warp. -/
def State.issuing (s : State) (g : Group) (w : Warp) : Bool :=
  (s.column g.col).parts.any (fun p => match p.running with
    | some r => r.grp = g.uid && r.wid = w.wid
    | none => false)

/-- FAIRNESS_PERIOD (R48). -/
def execFairnessPeriod (grp wid : Nat) (s : State) : Host.Outcome State Fault Refusal :=
  match s.group grp with
  | none => .next s
  | some g =>
    match g.warp wid with
    | none => .next s
    | some w =>
      if w.fair < recFair g.record || w.readyGroups.length < 2 || s.issuing g w then .next s
      else .next (s.updWarp grp wid (fun w => w.turnTo (w.nextGroup w.oldPc)))

/-! ### Results and completions (R98, R99) -/

/-- The counters whose operations complete in issue order (R99). -/
def inOrder (k : Option Nat) : Bool := k = some 2 || k = some 3 || k = some 7

/-- A flight can complete: no lane stands in a log entry, no peer owes an answer, no record waits for room, and it is the
oldest on a counter that completes in order (R64, R99, R243, R269); in a context that is ending what has been issued
performs without the operations before it that no longer do (R407). -/
def State.canEnd (s : State) (g : Group) (w : Warp) (f : Flight) : Bool :=
  let ends := match s.ctx g.ctx with | some c => c.phase.over | none => false
  f.log = none && f.remote = [] && !(match s.ctx g.ctx with | some c => c.waits (g.uid, w.wid, f.id) | none => false) &&
    (!inOrder f.counter || ends || w.oldestOn (f.counter.getD 0) f.id)

/-- The writes of a flight that have performed are acknowledged, while lanes of it stand in a log entry (R243, R269). -/
def Warp.acknowledged (w : Warp) (f : Flight) : Warp := { w with unack := w.unack.filter (fun a => a.flight ≠ some f.id) }

/-- The result of a flight written (R98, R134): registers, masks and flags; an enabled flag is a cause after issue. -/
def Warp.takeResult (w : Warp) (f : Flight) : Warp :=
  let w1 := f.dests.foldl (fun w d => match d with
    | .vec r _ x => w.setReg r x
    | .mask m lanes bits => w.putMask m lanes bits) w
  let hit := w.enabledLanes f.flags
  let w2 := w1.addFlags f.flags
  let c := f.later 0x41 1 (w.newLanes f.flags) 0 [(w.newFlags f.flags).setWidth 32]
  (if hit = 0 then w2 else { w2 with causes := w2.causes ++ [c] }).endFlight f.id

/-- A completed write of a tile's operation to peers, which waits for their acknowledgements (R243): what they answer is recorded
in the tile's status (R294). -/
def Flight.sentOn (f : Flight) (t : Nat) (sent : List (Nat × Dword)) : Flight :=
  { f with kind := .moved t, dests := [], remote := sent.map (fun t =>
      { tag := t.1, kind := 1, lanes := [], bytes := 0, sx := false, single := false, fill := 0, addr := t.2, acq := false }) }

/-- RESULT_WRITTEN (R98, R272). -/
def execResultWritten (grp wid flight : Nat) (s : State) : Host.Outcome State Fault Refusal :=
  match s.group grp with
  | none => .next s
  | some g =>
    match g.warp wid with
    | none => .next s
    | some w =>
      match w.flights.find? (fun f => f.id = flight) with
      | none => .next s
      | some f =>
        if f.log.isSome then .next (s.updWarp grp wid (fun w => w.acknowledged f))
        else if !s.canEnd g w f then .next s
        else
          let tile (t : Nat) : Host.Outcome State Fault Refusal :=
            match s.endTile g w f with
            | .hold t => done t
            | .lost c va => done ((s.lostRead grp wid flight c va).updWarp grp wid (fun w => w.endFlight flight))
            | .over u upd =>
              let s := (u.s.setGroup u.g).updWarp grp wid upd
              if u.sent = [] then done (s.updWarp grp wid (fun w => w.endFlight flight))
              else
                let now := s.clock.toNat
                done (s.updWarp grp wid (fun w =>
                  { w.setFlight (f.sentOn t u.sent) with
                    unack := w.unack.filter (fun a => a.flight ≠ some flight) ++ u.sent.map (fun x => { tag := x.1, since := now, flight := none, addr := x.2 }) }))
          match f.kind with
          | .result => .next (s.updWarp grp wid (fun w => w.takeResult f))
          | .tile t _ => tile t
          | .quad t .. => tile t
          | .fill t .. => tile t
          | .spill t .. => tile t
          | .drain t .. => tile t
          | _ => .next s

/-- STORE_COMPLETION (R99, R343, R352).  The addition of a QSIG is held by the acknowledgements that the warp awaits, other than
its own (R242, R243). -/
def execStoreCompletion (grp wid flight : Nat) (s : State) : Host.Outcome State Fault Refusal :=
  match s.group grp with
  | none => .next s
  | some g =>
    match g.warp wid with
    | none => .next s
    | some w =>
      match w.flights.find? (fun f => f.id = flight) with
      | none => .next s
      | some f =>
        let complete (s : State) : State := s.updWarp grp wid (fun w => w.endFlight flight)
        if f.log.isSome then .next (s.updWarp grp wid (fun w => w.acknowledged f))
        else if !s.canEnd g w f then .next s
        else
          match f.kind with
          | .store _ => .next (complete s)
          | .moved _ => .next (complete s)
          | .records => .next (complete s)
          | .signal va n =>
            if (w.acknowledged f).unack ≠ [] then .next s
            else
              match s.readToken g.ctx g.col va with
              | .wait t => done t
              | .fail t c a => done (complete (t.killCtx g.ctx c 0 a []))
              | .ok b =>
                if tokenBad b then done (complete (s.killCtx g.ctx 0x11 0 va []))
                else
                  match s.addToken g.ctx g.col va n false with
                  | .ok t => done (complete (t.updCtx g.ctx (fun c => c.signalled va (s.producerCols g))))
                  | .wait t => done t
                  | .fail t c a => done (complete (t.killCtx g.ctx c 0 a []))
          | _ => .next s

/-- A write that the fabric has not acknowledged, and not one that waits on a translation of its own: lanes of its operation stand
in a log entry (R269), or its token's page has a fault entry. -/
def State.unacknowledged (s : State) (g : Group) (w : Warp) (a : Unack) : Bool :=
  match a.flight.bind (fun i => w.flights.find? (fun f => f.id = i)) with
  | none => true
  | some f => f.log.isNone && (match f.kind with
    | .signal .. => s.performs g w f
    | _ => true)

/-- FABRIC_ACKNOWLEDGEMENT_TIMEOUT (R243): a write unacknowledged for 2^22 cycles, by the warp or an engine operation
that it started. -/
def execFabricAcknowledgementTimeout (grp wid : Nat) (s : State) : Host.Outcome State Fault Refusal :=
  match s.group grp with
  | none => .next s
  | some g =>
    match g.warp wid with
    | none => .next s
    | some w =>
      let owed := w.unack.filter (s.unacknowledged g w) ++ ((g.ops.filter (fun o => o.wid = wid)).map EngineOp.sent).flatten
      match owed.find? (fun a => a.since + 2 ^ 22 ≤ s.clock.toNat) with
      | none => .next s
      | some a =>
        let c : Cause := { code := 0x50, reason := 0, prec := false, src := 3, pc := 0, slot := 0, sv := false, hdr := false
                           op := 0, rslot := 0, rnext := false, lanes := 0, grp := 0, addr := a.addr, det := []
                           issued := s.clock.toNat }
        .next (s.updWarp grp wid (fun w => w.addCause c))

/-- The bits of a TLB entry that it gained 2^20 cycles ago or earlier (R222). -/
def TlbEntry.due (t : TlbEntry) (now : Nat) : TlbEntry :=
  let old (x : Option Nat) : Option Nat := x.filter (fun c => c + 2 ^ 20 ≤ now)
  { t with drt := old t.drt, acc := old t.acc }

/-- The bits that it has gained since. -/
def TlbEntry.young (t : TlbEntry) (now : Nat) : TlbEntry :=
  let new (x : Option Nat) : Option Nat := x.filter (fun c => now < c + 2 ^ 20)
  { t with drt := new t.drt, acc := new t.acc }

/-- DRT_ACC_WRITEBACK (R222): 2^20 cycles after the TLB entry gained a bit, that bit is written. -/
def execDrtAccWriteback (ctx : Nat) (va : Dword) (s : State) : Host.Outcome State Fault Refusal :=
  let now := s.clock.toNat
  let mine (t : TlbEntry) : Bool := t.ctx = ctx && t.va = va
  let s' := ((s.tlb.filter mine).map (fun t => t.due now)).foldl State.writeBack s
  .next { s' with tlb := (s.tlb.map (fun t => if mine t then t.young now else t)).filter (fun t => t.drt.isSome || t.acc.isSome) }

/-! ### Traps (R397-R405) -/

/-- TRAP_DELIVERY (R397, R401): at a clause boundary of the warp the winning cause is delivered and the others are kept.
A cause of the handler route is dropped for a warp that has retired, and waits while a trap is being taken. -/
def execTrapDelivery (grp wid : Nat) (s : State) : Host.Outcome State Fault Refusal :=
  match s.group grp with
  | none => .next s
  | some g =>
    match g.warp wid with
    | none => .next s
    | some w =>
      if s.issuing g w then .next s
      else
        let hard := w.causes.filter (fun c => !handlerCause c.code)
        match earliest hard with
        | some c => .next (s.deliver grp wid c c.cap)
        | none =>
          match earliest w.causes with
          | none => .next s
          | some c =>
            let t := s.updWarp grp wid (fun w => { w with causes := w.causes.erase c })
            if w.live = 0 then .next t
            else if w.entering.isSome then .next s
            else .next (t.deliver grp wid c [])

/-- The warp is in the state of R403. -/
def Warp.drained (w : Warp) : Bool :=
  let counted (f : Flight) : Bool := f.counter = some 0 || f.counter = some 1 || f.counter = some 2 || f.counter = some 7
  w.flights.all (fun f => !counted f || f.log.isSome) &&
    w.unack.all (fun a => match a.flight with
      | some i => w.flights.any (fun f => f.id = i && f.log.isSome)
      | none => false)

/-- HANDLER_ENTRY (R403, R404). -/
def execHandlerEntry (grp wid : Nat) (s : State) : Host.Outcome State Fault Refusal :=
  match s.group grp with
  | none => .next s
  | some g =>
    match g.warp wid with
    | none => .next s
    | some w =>
      if w.entering.isNone || !w.drained then .next s
      else .next (s.updWarp grp wid (fun w => w.enterHandler (recTrapH g.record)))

/-! ### Watchdogs (R342, R414-R416) -/

/-- What a capture is about. -/
structure Watch where
  cause : Nat
  bid : Nat
  exp : Nat
  arr : Nat
  ph : Word
  t0 : Nat
  at' : Warp → Word
  narr : Warp → Nat

/-- The capture of a group (R416): the warps of its warp count, in `sr.warpid` order. -/
def Group.capture (g : Group) (x : Watch) : Bytes :=
  let ws := (List.range 32).filterMap (fun i => (g.warp i).filter (fun w => w.started ≠ 0))
  let parked := (g.ops.map (fun o => o.parked.length)).sum
  toBytes 1 x.cause ++ toBytes 1 x.bid ++ toBytes 1 g.wcount ++ [0] ++ toBytes 4 x.exp ++ toBytes 4 x.arr ++ wordBytes x.ph ++
    toBytes 8 x.t0 ++ toBytes 4 parked ++ toBytes 4 0 ++
    (ws.map (fun w => ((List.range 32).map (fun l => dwordBytes (w.pcOf l))).flatten ++ wordBytes w.live ++
      wordBytes (w.started &&& ~~~w.live) ++ wordBytes (x.at' w) ++ toBytes 1 (min 255 (x.narr w)) ++ [0, 0, 0])).flatten

/-- A cause of the device that arrives for a warp (R397): while a partition issues a clause of the warp it waits for the clause
boundary; else it is delivered. -/
def State.arrives (s : State) (g : Group) (w : Warp) (c : Cause) : State :=
  if s.issuing g w then s.updWarp g.uid w.wid (fun w => { w with causes := w.causes ++ [c] })
  else s.deliver g.uid w.wid c c.cap

/-- The clause, slot and opcode at which a lane waits: those of its resume slot, or of the slot before it for a thread at BAR,
which has arrived. -/
def State.waitsAt (s : State) (g : Group) (w : Warp) (l : Nat) : Dword × Nat × Nat :=
  let k := match w.waitOf l with
    | .bar .. => w.rslOf l - 1
    | _ => w.rslOf l
  let pc := w.pcOf l
  (pc, k, match s.fetchWord g.ctx (pc + BitVec.ofNat 64 (8 * (k + 1))) with
    | .ok x => opOf x
    | .error _ => match w.waitOf l with | .coll op _ => op | .round _ => 0xE6 | _ => 0xE0)

/-- A watchdog's trap, in the warp with the lowest number among those concerned (R415); its record names the instruction at
which the lowest thread concerned waits (R398). -/
def State.watchdog (s : State) (g : Group) (x : Watch) (det : List Word) : State :=
  let ws := (List.range 32).filterMap (fun i => g.warp i)
  let near := ws.filter (fun w => x.at' w ≠ 0)
  match (near ++ ws.filter (fun w => w.live ≠ 0) ++ ws).head? with
  | some w =>
    let (pc, slot, op) := if x.at' w = 0 then (0, 0, 0) else s.waitsAt g w (lowest (x.at' w))
    if w.causes.any (fun c => c.code = x.cause) then s
    else
      s.arrives g w { code := x.cause, reason := 0, prec := false, src := 3, pc, slot, sv := x.at' w ≠ 0, hdr := false, op
                      rslot := 0, rnext := false, lanes := x.at' w, grp := x.at' w, addr := 0, det, issued := s.clock.toNat
                      cap := g.capture x }
  | none => s

/-- The cycles from `t` to now that a watchdog counts: those that none of the warps concerned spent parked on a vault column in
retention (R231, R342, R414).  DESIGN CHOICE (log entry 116): those that one of them spends parked on WAITV are counted. -/
def Group.elapsed (g : Group) (p : Nat → Bool) (t now : Nat) : Nat :=
  now - t - ((g.pauses.filter (fun x => x.wids.any p)).map (fun x => min now (x.first + x.len) - max t x.first)).sum

/-- A wait at REGRP, whose collective is the group's (R67). -/
def Wait.regroups : Wait → Bool
  | .coll op _ => op = 0xE6
  | .round _ => true
  | _ => false

/-- The cycles that the collective has stood at which a lane is parked, as its watchdog counts them (R414): from the cycle in which
the first PC group of the warp parked there. -/
def Group.parkedFor (g : Group) (w : Warp) (lane now : Nat) : Nat :=
  g.elapsed (fun i => i = w.wid || (w.waitOf lane).regroups) (w.firstPark (w.pcOf lane) (w.rslOf lane) now) now

/-- The most that a watchdog has counted of the collectives at which threads of a warp are parked.  DESIGN CHOICE (log entry 124):
the save area has one count for a warp. -/
def Group.longestPark (g : Group) (w : Warp) (now : Nat) : Nat :=
  (((lanesOf w.live).filter (fun l => (w.waitOf l).parkedAt.isSome)).map (fun l => g.parkedFor w l now)).foldl max 0

/-- The threads of a warp parked at a barrier. -/
def Warp.atBar (w : Warp) (id : Nat) : Word :=
  maskOf (fun l => w.live.getLsbD l && (match w.waitOf l with
    | .bar i _ _ => i = id
    | .barColl i _ => i = id
    | _ => false))

/-- A wait at a collective other than a barrier. -/
def Wait.collects : Wait → Bool
  | .coll .. => true
  | .round _ => true
  | _ => false

/-- The threads of a warp parked at the collective at which one of its lanes is, or at REGRP (R416). -/
def Warp.atColl (w : Warp) (lane : Nat) : Word :=
  maskOf (fun l => w.live.getLsbD l && (w.waitOf l).collects && w.pcOf l = w.pcOf lane && w.rslOf l = w.rslOf lane)
def Warp.atRegrp (w : Warp) : Word := maskOf (fun l => w.live.getLsbD l && (w.waitOf l).regroups)

/-- BARRIER_TIMEOUT (R342): an open phase, or threads that wait at BAR or BARA for the rest of their warp while no phase is
open. -/
def execBarrierTimeout (grp bar : Nat) (s : State) : Host.Outcome State Fault Refusal :=
  match s.group grp with
  | none => .next s
  | some g =>
    let b := g.bar bar
    let now := s.clock.toNat
    let period := recWatch g.record
    let runs := match s.ctx g.ctx with | some c => c.issues | none => false
    let x : Watch := { cause := 0x30, bid := bar, exp := b.exp, arr := b.arr, ph := b.ph, t0 := b.t0
                       at' := fun w => w.atBar bar, narr := fun w => if b.exp = 0 then 0 else b.arrivals.count w.wid }
    if !runs then .next s
    else if b.exp ≠ 0 then
      if period ≤ g.elapsed (fun _ => true) b.t0 now then
        .next (s.watchdog g x [BitVec.ofNat 32 bar, BitVec.ofNat 32 b.exp, BitVec.ofNat 32 b.arr])
      else .next s
    else
      let since (w : Warp) : Option Nat :=
        (((List.range 32).filterMap (fun l => match w.waitOf l with
          | .barColl i t => if i = bar && w.live.getLsbD l && !w.gathered l then some t else none
          | _ => none))).min?
      match (g.warps.filterMap since).min? with
      | none => .next s
      | some t =>
        if period ≤ g.elapsed (fun _ => true) t now then .next (s.watchdog g { x with exp := 0, arr := 0, t0 := t } [BitVec.ofNat 32 bar, 0, 0])
        else .next s

/-- COLLECTIVE_TIMEOUT (R67, R414, R415): some collective of the warp has stood for the period. -/
def execCollectiveTimeout (grp wid : Nat) (s : State) : Host.Outcome State Fault Refusal :=
  match s.group grp with
  | none => .next s
  | some g =>
    match g.warp wid with
    | none => .next s
    | some w =>
      let now := s.clock.toNat
      let runs := match s.ctx g.ctx with | some c => c.issues | none => false
      match (lanesOf w.live).find? (fun l => (w.waitOf l).collects && recWatch g.record ≤ g.parkedFor w l now) with
      | none => .next s
      | some l =>
        let op : Nat := match w.waitOf l with | .coll op _ => op | _ => 0xE6
        let at' (v : Warp) : Word := if op = 0xE6 then v.atRegrp else if v.wid = wid then v.atColl l else 0
        if !runs then .next s
        else
          .next (s.watchdog g { cause := 0x31, bid := 0xFF, exp := 0, arr := 0, ph := 0
                                t0 := w.firstPark (w.pcOf l) (w.rslOf l) now, at', narr := fun _ => 0 } [BitVec.ofNat 32 op])

/-! ### The end of a warp and of a group (R75) -/

/-- A group that has retired is freed (R75): its operations have completed, its open session is discarded; its tiles may
be released, and its launch may complete. -/
def State.freeGroup (s : State) (g : Group) : State :=
  let s := s.discardSession g.uid
  let s : State := { s with groups := s.groups.filter (fun x => x.uid ≠ g.uid) }
  let s := s.updColumn g.col (fun k => { k.leaveMerge g.uid with locks := dropLocks k.locks (fun u => u = g.uid) })
  let s := (s.updLaunch g.launch (fun l => { l with alive := l.alive - 1 })).releaseTiles g.ctx
  match s.launchOf g.launch with
  | some l => s.finishLaunch l
  | none => s

/-- A warp of a position launch submits its block at its retirement (R368, R369): one whose `VALID` is 0 submits nothing. -/
def State.submit (s : State) (g : Group) (w : Warp) : State :=
  let off := 4160 * w.wid
  let block := g.scr.read off 4160
  if recPass g.record = 0 || g.lit.isSome || fieldW block 0 = 0 then s
  else s.updCtx g.ctx (fun c => { c with pass := c.pass.map (fun p =>
    { p with subs := p.subs ++ [{ grp := g.uid, off, block }] }) })

/-- A submission of a group has not been taken up by the raster engine (R369). -/
def State.submitting (s : State) (g : Group) : Bool :=
  match (s.ctx g.ctx).bind Ctx.pass with
  | some p => p.subs.any (fun x => x.grp = g.uid)
  | none => false

/-- The end of a warp's stay (R75): it retires, and a regrouping round may complete with it (R67). -/
def State.retireWarp (s : State) (g : Group) (w : Warp) : State :=
  if w.retired then s
  else ((s.submit g w).updWarp g.uid w.wid (fun w => { w with retired := true })).checkRound g.uid

/-- WARP_RETIRE (R75): its accesses have performed and its fabric writes are acknowledged; the group goes with its last
warp, once its engine operations and submissions have completed and its causes are delivered. -/
def execWarpRetire (grp wid : Nat) (s : State) : Host.Outcome State Fault Refusal :=
  match s.group grp with
  | none => .next s
  | some g =>
    match g.warp wid with
    | none => .next s
    | some w =>
      let engine (f : Flight) : Bool := match f.kind with | .engine _ => true | _ => false
      if w.live ≠ 0 || !w.flights.all engine || w.unack ≠ [] || s.issuing g w then .next s
      else
        let s := s.retireWarp g w
        match s.group grp with
        | none => .next s
        | some g =>
          if g.warps.all (fun w => w.retired && w.causes = []) && g.ops = [] && !s.submitting g then done (s.freeGroup g)
          else .next s

end Sys2Proof.Machine
end

