-- ==== Sys2Proof/Machine/Faults.lean ====
section
/-! DEFINITION. The service of the fault record queues: FAULT_QUEUE_ROOM and FAULT_SERVICE, replays, refusals (R409-R413,
R480), and the requests of peers (R243, R457, R458) that may wait on a translation. -/

namespace Sys2Proof.Machine

/-- A group changed where it stands: on its core, or with its saved context. -/
def State.updGroupAny (s : State) (uid : Nat) (f : Group → Group) : State :=
  let s := s.updGroup uid f
  { s with contexts := s.contexts.map (fun c =>
      { c with savedGroups := c.savedGroups.map (fun g => if g.uid = uid then f g else g) }) }

/-- A group of the machine or of a saved context. -/
def State.groupAny (s : State) (uid : Nat) : Option Group :=
  match s.group uid with
  | some g => some g
  | none => s.contexts.findSome? (fun c => c.savedGroups.find? (fun g => g.uid = uid))

/-! ### The accesses of peers (R243, R457, R458) -/

/-- What a peer's request comes to: an answer, with the poisoned sectors of its data as bits, or a wait with its translation fault queued or its place parked. -/
inductive PeerOut where
  | answer (s : State) (cause : Nat) (data : Bytes) (marks : Nat)
  | wait (s : State)

/-- The context whose address space is bound to a fabric domain (R457, R480). -/
def State.bound (s : State) (fdom : Nat) : Option Ctx := s.contexts.find? (fun c => c.fdom = fdom && !c.phase.over)

/-- The entry of a peer's request (R409). -/
def peerEntry (ctx acc fdom : Nat) (va : Dword) : FaultEntry :=
  { va, ctx, kind := 0, acc, col := 0xFFFF, wslot := 0xFF, log := 0, idx := 0, stat := 0, seq := 0, grp := 0, wid := 0
    fdom := some fdom }

/-- The steps of a peer's atomic on the bytes that it names, one for each operand (R255, R458): what it leaves and the
values before the steps. -/
def peerAtomic (r : FlitReq) (o : BitVec 19) : Nat → Bytes → Bytes → Bytes × Bytes
  | 0, cur, _ => (cur, [])
  | n + 1, cur, data =>
    let m : MFields := { MFields.ofWord 0 with off := o }
    let op : MOp := { op := if r.cas then 0xA6 else 0xA5, kind := .atomic, sp := 0, bytes := r.len, regs := r.len / 4, sx := false, m }
    let words (b : Bytes) : List Word := (List.range (r.len / 4)).map (fun i => fieldW b (4 * i))
    let next := (atomStep op cur (words (data.take r.len) ++ words (dwordBytes r.cmp))).getD cur
    let rest := peerAtomic r o n next (data.drop r.len)
    (rest.1, cur ++ rest.2)

/-- The poisoned sectors of some bytes of memory, bit i for the bytes from 32 i on (R228, R454). -/
def Mem.sectorMask (m : Mem) (k n : Nat) : Nat :=
  (List.range ((n + 31) / 32)).foldl (fun a i => if m.poisoned (k + 32 * i) (min 32 (n - 32 * i)) then a + 2 ^ i else a) 0

/-- A request of a peer at its owner, under the address space bound to its domain (R457). -/
def State.peerAccess (s : State) (lan fdom : Nat) (psn : BitVec 7) (r : FlitReq) : PeerOut :=
  match s.bound fdom with
  | none => .answer s 0x11 [] 0
  | some c =>
    let off := (bits r.addr 0 48).toNat
    let va : Dword := BitVec.ofNat 64 (lan * 2 ^ 54 + off)
    let write := r.write || r.atom.isSome
    match s.translate c.id lan off (if write then .write else .read) with
    | .error code =>
      if code = 0x10 then .wait (s.queueFault (peerEntry c.id (if write then 1 else 0) fdom va)) else .answer s code [] 0
    | .ok k =>
      if s.rangeParks k (if r.write then r.data.length else r.len) then .wait s
      else
        let s := s.gather c.id none lan off write
        let bad := s.mem.sectorMask k r.len
        match r.write, r.atom with
        | true, _ =>
          let s := (s.touchRange k r.data.length).present k
          let marked := r.data.zip ((List.range r.data.length).map (fun i => psn.getLsbD (i / 32)))
          .answer { s with mem := (s.mem.storeAll [(k, r.data)]).taint k marked } 0 [] 0
        | false, some o =>
          if bad ≠ 0 then .answer s 0 [] bad
          else
            let (cur, olds) := peerAtomic r o (r.data.length / r.len) (s.mem.read k r.len) r.data
            let s := (s.touchRange k cur.length).present k
            .answer { s with mem := s.mem.storeAll [(k, cur)] } 0 olds 0
        | false, none => .answer s 0 (s.mem.read k r.len) bad

/-- The flits of an answer: its data go in flits of 224 bytes, each with the marks of its own seven sectors, one behind the
other. -/
def answerParts : Nat → FlitAns → Nat → List FlitAns
  | 0, _, _ => []
  | k + 1, a, marks =>
    let a : FlitAns := { a with poison := BitVec.ofNat 7 marks }
    if a.data.length ≤ 224 then [a]
    else { a with data := a.data.take 224, more := true } :: answerParts k { a with data := a.data.drop 224 } (marks / 128)

/-- The answer sent back to a peer, with the poison of its data (R228, R243, R454). -/
def State.sendAnswer (s : State) (q : PeerReq) (cause : Nat) (data : Bytes) (marks : Nat) : State :=
  let a : FlitAns := { tag := q.req.tag, cause, data, poison := 0 }
  (answerParts (data.length / 224 + 1) a marks).foldl (fun s a =>
    s.draw.2.sendFlit q.req.addr (s.newFlit 2 q.dev q.lan q.slan q.fdom a.poison [] [a] none)) s

/-- A peer's request served, or put among those that wait. -/
def State.servePeer (s : State) (q : PeerReq) : State :=
  match s.peerAccess q.lan q.fdom q.psn q.req with
  | .answer t cause data marks => t.sendAnswer q cause data marks
  | .wait t => { t with peerReqs := t.peerReqs ++ [q] }

/-- A request of a peer as a flit brings it: one whose further operands follow waits for them, and the flit that brings the last
of them has it served (R454). -/
def State.takeRequest (s : State) (q : PeerReq) : State :=
  if q.req.more then { s with peerParts := s.peerParts ++ [q] }
  else
    let mine (p : PeerReq) : Bool := p.dev = q.dev && p.slan = q.slan && p.req.tag = q.req.tag
    let data := ((s.peerParts.filter mine).map (fun p => p.req.data)).flatten ++ q.req.data
    ({ s with peerParts := s.peerParts.filter (fun p => !mine p) } : State).servePeer { q with req := { q.req with data } }

/-- The waiting requests of peers tried again. -/
def State.retryPeers (s : State) : State :=
  s.peerReqs.foldl (fun s q => s.servePeer q) { s with peerReqs := [] }

/-! ### Replays (R269, R411) -/

/-- An entry leaves its queue (R411). -/
def State.dropEntry (s : State) (lan seq : Nat) : State :=
  { s with faultq := s.faultq.set lan ((s.faultq.getD lan []).filter (fun e => e.seq ≠ seq)) }

/-- An entry of a queue with another status. -/
def State.setStat (s : State) (lan seq stat : Nat) : State :=
  { s with faultq := s.faultq.set lan ((s.faultq.getD lan []).map (fun e => if e.seq = seq then { e with stat } else e)) }

/-- The element of an entry is parked no more (R323, R340); a refused one is kept in mind. -/
def Group.unpark (g : Group) (e : FaultEntry) (refused : Bool) : Group :=
  ({ g with ops := g.ops.map (fun o =>
      if o.slot ≠ e.wslot then o
      else { o with
        parked := o.parked.filter (fun p => p.index ≠ e.idx)
        refused := if refused then o.refused ++ [e.idx] else o.refused }) } : Group).phases

/-- Threads that wait for the fetch of a clause try it again (R413), and so do those that a handler's return brings back. -/
def Warp.refetch (w : Warp) : Warp :=
  let again (x : Wait) : Wait := if x = .fetch then .none else x
  { w with wait := w.wait.map again, hframe := w.hframe.map (fun f => { f with wait := f.wait.map again }) }

/-- A mapped entry frees as its replay issues (R411); one whose lanes go to a slice that is shutting down, or whose context
is saved, waits with `STAT` 1. -/
def State.replayEntry (s : State) (lan : Nat) (e : FaultEntry) : State :=
  let out := s.dropEntry lan e.seq
  match e.kind with
  | 0 =>
    if e.fdom.isSome then out.retryPeers
    else if e.log = 0xFF then out
    else
      match s.group e.grp with
      | none => if (s.groupAny e.grp).isSome then s.setStat lan e.seq 1 else out
      | some g =>
        match g.warp e.wid with
        | none => out
        | some w =>
          match w.logs.getD e.log none with
          | none => out
          | some k => if s.replayParks g w k then s.setStat lan e.seq 1 else out.replay g w e.log
  | 1 => out.updGroupAny e.grp (fun g => g.unpark e false)
  | 2 => out.updGroupAny e.grp (fun g => g.unpark e false)
  | 5 => out.updWarp e.grp e.wid Warp.refetch
  | 6 => out.settleAll
  | _ => out

/-! ### Refusals (R412) -/

/-- The cause of an entry that was refused: the instruction, with the lanes of the entry. -/
def State.refusalCause (s : State) (g : Group) (w : Warp) (e : FaultEntry) : Cause :=
  let device : Cause := { code := 0x10, reason := 0, prec := false, src := 3, pc := 0, slot := 0, sv := false, hdr := false
                          op := 0, rslot := 0, rnext := false, lanes := 0, grp := 0, addr := e.va, det := []
                          issued := s.clock.toNat }
  let waiting (p : Wait → Bool) (op : Nat) : Cause :=
    match (List.range 32).find? (fun l => w.live.getLsbD l && p (w.waitOf l)) with
    | some l => { device with src := 0, pc := w.pcOf l, slot := w.rslOf l, sv := true, op, lanes := w.groupOf l, grp := w.groupOf l }
    | none => device
  match e.kind with
  | 0 =>
    if e.log = 0xFF then
      let here (x : Wait) : Option Nat := match x with
        | .waitv x => if x.addr = e.va then some x.lane else none
        | _ => none
      let k := waiting (fun x => (here x).isSome) 0xA9
      match (lanesOf w.live).findSome? (fun l => here (w.waitOf l)) with
      | some f => { k with lanes := laneBit f }
      | none => k
    else
      match w.logs.getD e.log none with
      | none => device
      | some k =>
        let mine := k.lanes.filter (fun l => l.miss / 65536#64 = e.va / 65536#64)
        match w.flights.find? (fun f => f.id = k.flight) with
        | some f => f.later 0x10 0 (maskOf (fun l => mine.any (fun x => x.lane = l))) ((mine.head?.map LogLane.miss).getD e.va) []
        | none => device
  | 3 =>
    let on (f : Flight) : Bool := match f.kind with
      | .loop t => t = e.log
      | .fill t .. => t = e.log
      | .spill t .. => t = e.log
      | .drain t .. => t = e.log
      | _ => false
    match w.flights.find? on with
    | some f => f.later 0x10 0 f.grp e.va []
    | none => device
  | 4 =>
    match (g.opIn e.wslot).bind (fun o => w.flights.find? (fun f => f.id = o.flight)) with
    | some f => f.later 0x10 0 f.grp e.va []
    | none => device
  | 5 => waiting (fun x => x = .fetch) 0
  | _ => device

/-- Translation (0x10) by the firmware route for a refused entry (R412).  A warp of a saved context meets it when its context has
resumed and the replay would issue. -/
def State.refuseWarp (s : State) (e : FaultEntry) : State :=
  match s.groupAny e.grp with
  | none => s.killCtx e.ctx 0x10 0 e.va []
  | some g =>
    match g.warp e.wid with
    | none => s.killCtx e.ctx 0x10 0 e.va []
    | some w =>
      let c := s.refusalCause g w e
      if (s.group e.grp).isSome then s.arrives g w c
      else s.updGroupAny e.grp (fun g => g.setWarp { w with causes := w.causes ++ [c] })

/-- An entry is refused (R412, R457): `KIND` 6 keeps its entry until the access looks at it (R486). -/
def State.refuseEntry (s : State) (lan : Nat) (e : FaultEntry) : State :=
  let out := s.dropEntry lan e.seq
  match e.kind with
  | 0 =>
    match e.fdom with
    | none => out.refuseWarp e
    | some f =>
      let mine (q : PeerReq) : Bool := q.fdom = f && q.lan = lan && (bits q.req.addr 0 48).toNat / 65536 = offOf e.va / 65536
      let t : State := { out with peerReqs := out.peerReqs.filter (fun q => !mine q) }
      (out.peerReqs.filter mine).foldl (fun s q => s.sendAnswer q 0x10 [] 0) t
  | 1 => out.updGroupAny e.grp (fun g => g.unpark e true)
  | 2 => out.updGroupAny e.grp (fun g => g.unpark e true)
  | 6 => (s.setStat lan e.seq 3).settleAll
  | _ => out.refuseWarp e

/-! ### The service (R410, R411, R480) -/

/-- FAULT_QUEUE_ROOM (R410). -/
def execFaultQueueRoom (lan : Nat) (s : State) : Host.Outcome State Fault Refusal :=
  match s.faultWait.getD lan [] with
  | [] => .next s
  | e :: rest =>
    if Config.faultEntries ≤ (s.faultq.getD lan []).length then .next s
    else .next (({ s with faultWait := s.faultWait.set lan rest } : State).queueFault e)

/-- The entry that the firmware takes next: the first in order of arrival that is pending, or mapped with its replay still
to issue. -/
def State.nextEntry (s : State) (lan : Nat) : Option FaultEntry :=
  (s.faultq.getD lan []).find? (fun e => e.stat = 0 ||
    (e.stat = 1 && (match (s.group e.grp).bind (fun g => (g.warp e.wid).map (fun w => (g, w))) with
      | some (g, w) => (match w.logs.getD e.log none with | some k => !s.replayParks g w k | none => true)
      | none => (s.groupAny e.grp).isNone)))

/-- The backing-map entry of an address (R478). -/
def Ctx.backing (c : Ctx) (va : Dword) : Option Nat :=
  match c.bmap.find? (fun b => b.1.toNat ≤ va.toNat && va.toNat < b.1.toNat + b.2.1) with
  | some b => some b.2.2
  | none => none

/-- The leaf of a page mapped on demand (R480). -/
def demandLeaf (flags : Nat) (page : Dword) : Dword :=
  (1#64 <<< 63) ||| (if flags % 2 = 1 then 1#64 <<< 59 else 0) ||| (if flags / 2 % 2 = 1 then 1#64 <<< 58 else 0) ||| page

/-- FAULT_SERVICE (R411, R480); with no entry to service, requests of peers that wait are tried again: their slice may have gone
down, or their address space ended (R457). -/
def execFaultService (lan : Nat) (s : State) : Host.Outcome State Fault Refusal :=
  match s.nextEntry lan with
  | none => if s.peerReqs = [] then .next s else done s.retryPeers
  | some e =>
    match s.ctx e.ctx with
    | none => .next (s.dropEntry lan e.seq)
    | some c =>
      let forwarded : State := (s.setStat lan e.seq 2).irq 1
      let covered := match s.leaf c.id lan (offOf e.va) with
        | some x => leafValid x
        | none => false
      if e.stat = 1 || covered then done (s.replayEntry lan e)
      else
        match c.backing e.va with
        | none => .next forwarded
        | some flags =>
          if (e.acc % 2 = 1 && flags % 2 = 0) || (2 ≤ e.acc && flags / 2 % 2 = 0) then done (s.refuseEntry lan e)
          else
            match flags / 4 % 2, s.pools.getD lan [] with
            | 0, page :: rest =>
              let t : State := { s with
                pools := s.pools.set lan rest, mem := s.mem.clear (gddrKey lan page.toNat) 65536 }
              (match t.install c (e.va &&& ~~~0xFFFF#64) (demandLeaf flags page) with
                | some u => done (u.replayEntry lan e)
                | none => .next forwarded)
            | _, _ => .next forwarded

end Sys2Proof.Machine
end

