-- ==== Sys2Proof/Machine/Graphics.lean ====
section
/-! DEFINITION. Raster passes: opening and closing, setup, rasterisation, tiles, and the classify engine (R365-R382). -/

namespace Sys2Proof.Machine

/-! ### Opening a pass (R365, R366) -/

/-- A pass descriptor breaks R365. -/
def passBad (d : Bytes) : Bool :=
  let z := f32 (passDclr d)
  let n := f32 (passWnear d)
  (passTiles d).toNat % 4096 ≠ 0 || (passViews d).toNat % 128 ≠ 0 || (passInst d).toNat % 128 ≠ 0 || passTW d = 0 ||
    1024 < passTW d || passTH d = 0 || 1024 < passTH d || passNView d = 0 || 16 < passNView d || 64 ≤ field d 0x1D 1 ||
    passCull d = 3 || passTcap d = 0 || 4096 < passTcap d || 48 * 2 ^ 20 < passTcap d * imageBytes d ||
    !(FVal.cmp (.fin false 0 0) z = some (-1) || z.isZero) || !(FVal.cmp z (.fin false 1 0) ≠ some 1) ||
    !(n.finite && !n.isZero && !n.sign) || !zeroField d 0x2C 4 || (passStat d).toNat % 32 ≠ 0 || !zeroField d 0x38 8

/-- Fields of a view record (R365). -/
def viewX (v : Bytes) : Nat := field v 0 2
def viewY (v : Bytes) : Nat := field v 2 2
def viewW (v : Bytes) : Nat := field v 4 2
def viewH (v : Bytes) : Nat := field v 6 2

/-- A view record breaks R365. -/
def viewBad (d v : Bytes) : Bool :=
  32767 < viewX v || 32767 < viewY v || viewW v = 0 || 32768 < viewW v || viewH v = 0 || 32768 < viewH v ||
    !zeroField v 8 8 || !zeroField v 0x50 48 || passTW d * 32 < viewX v + viewW v || passTH d * 32 < viewY v + viewH v

/-- PASSOPEN (R366). -/
def execPassopen (queue : Nat) (s : State) : Host.Outcome State Fault Refusal :=
  done (startCmd 5 queue s (fun t q c =>
    let va := fieldD c.data 8
    match t.devRead q.ctx 0xFFFF va 64 with
    | .wait u => .wait u
    | .fail u k _ => .bad u 3 k
    | .ok d =>
      match t.ctx q.ctx with
      | none => .bad t 3 0
      | some x =>
        let t := t.accessed q.ctx va 64
        let quad := match x.nodes[passMnode d]? with | some n => nodeQuad n.desc | none => false
        if passBad d || !quad || x.pass.isSome then .bad t 3 0
        else
          match t.devRead q.ctx 0xFFFF (passViews d) (128 * passNView d) with
          | .wait u => .wait u
          | .fail u k _ => .bad u 3 k
          | .ok vb =>
            let t := t.accessed q.ctx (passViews d) (128 * passNView d)
            let views := (List.range (passNView d)).map (fun i => (vb.drop (128 * i)).take 128)
            if views.any (viewBad d) then .bad t 3 0
            else
              let p : Pass :=
                { addr := va, desc := d, views, openedAt := t.clock.toNat, closing := [], closed := false, tiles := []
                  subs := [], work := [], submitted := 0, changed := 0, spills := 0, reloads := 0, culled := 0
                  lost := false, refused := false }
              .done (t.setCtx { x with pass := some p })))

/-- PASSCLOSE (R366, R367): from its start on the pass takes no further position launch. -/
def execPassclose (queue : Nat) (s : State) : Host.Outcome State Fault Refusal :=
  done (startCmd 6 queue s (fun t q c =>
    .started (t.updCtx q.ctx (fun x => { x with pass := x.pass.map (fun p =>
      { p with closing := p.closing ++ [(queue, c.index)] }) }))))

/-! ### Tiles (R374-R377) -/

/-- The state of a tile of a pass; one that is not listed is FREE. -/
def Pass.tile (p : Pass) (t : Nat) : Option STile := p.tiles.find? (fun x => x.index = t)

/-- A tile put back into its pass. -/
def Pass.setTile (p : Pass) (x : STile) : Pass :=
  if (p.tile x.index).isSome then { p with tiles := p.tiles.map (fun y => if y.index = x.index then x else y) }
  else { p with tiles := p.tiles ++ [x] }

/-- The pass of a context replaced. -/
def State.setPass (s : State) (ctx : Nat) (p : Pass) : State := s.updCtx ctx (fun c => { c with pass := some p })

/-- Resident tiles of a lantern (R377). -/
def Pass.resident (p : Pass) (lan : Nat) : List STile :=
  p.tiles.filter (fun t => t.resident && lanternOf (tileHome t.index) = lan)

/-- The lowest free handle of a lantern (R375): those of saved tiles are held as well. -/
def State.freeHandle (s : State) (lan : Nat) : Option Nat :=
  let used := (s.contexts.filterMap Ctx.pass).map (fun p => (p.resident lan).map STile.handle) |>.flatten
  (List.range 4096).find? (fun h => !used.contains h)

/-- The column whose slice takes a tile (R375, R379): its home column's, or the next of the lantern whose slice is up. -/
def State.tileSlice (s : State) (t : Nat) : Nat :=
  let home := tileHome t
  let lan := lanternOf home
  let order := (List.range 48).map (fun i => columnOf lan ((home + i) % 48))
  (order.find? (fun c => (s.column c).sliceUp)).getD home

/-- The image of a tile in bytes (R375). -/
def tileImage (d : Bytes) (t : STile) : Bytes := (List.range (imageBytes d)).map (tileByte d t)

/-- The samples of an image that differ from the cleared one. -/
def imageSamples (d : Bytes) (b : Bytes) : List (Nat × Word × Dword) :=
  let n := 1024 * passS d
  (List.range n).filterMap (fun i =>
    let z := fieldW b (4 * i)
    let id := fieldD b (4 * n + 8 * i)
    if z = passDclr d && id = emptyId then none else some (i, z, id))

/-- Where a tile's image is spilled (R375). -/
def tileSpillAt (d : Bytes) (t : Nat) : Dword := passTiles d + BitVec.ofNat 64 (imageBytes d * t)

/-- A RASTER tile spilled (R376, R377). -/
def State.spillTile (s : State) (ctx : Nat) (p : Pass) (t : STile) : Dev State :=
  match s.devWrite ctx 0xFFFF (tileSpillAt p.desc t.index) (tileImage p.desc t) with
  | .ok u => .ok (u.setPass ctx { p.setTile { t with state := .spilled, handle := 0, image := [] } with spills := p.spills + 1 })
  | r => r

/-- A spilled tile brought back whole into a state (R376, R377), under a handle. -/
def State.reloadTile (s : State) (ctx : Nat) (p : Pass) (t : STile) (goal : TileState) (handle : Nat) : Dev State :=
  match s.devRead ctx 0xFFFF (tileSpillAt p.desc t.index) (imageBytes p.desc) with
  | .ok b => .ok ((s.accessed ctx (tileSpillAt p.desc t.index) (imageBytes p.desc)).setPass ctx { p.setTile { t with
      state := goal, handle, image := imageSamples p.desc b, lastWrite := s.clock.toNat, slice := s.tileSlice t.index } with
      reloads := p.reloads + 1 })
  | .wait u => .wait u
  | .fail u c a => .fail u c a

/-- The RASTER tile of a lantern whose last sample write is oldest, the lowest index among equals (R377). -/
def Pass.victim (p : Pass) (lan : Nat) : Option STile :=
  (p.resident lan).foldl (fun b t =>
    if t.state ≠ .raster then b
    else match b with
      | none => some t
      | some x => if t.lastWrite < x.lastWrite || (t.lastWrite = x.lastWrite && t.index < x.index) then some t else b) none

/-- What bringing a tile into L2 comes to: it is there, a tile was spilled first, it waits. -/
inductive Enter where
  | here
  | moved (r : Dev State)
  | waits

/-- A tile enters RASTER for a triangle binned to it, or CLOSED at close (R376, R377), a spill at a time. -/
def State.enterTile (s : State) (ctx : Nat) (p : Pass) (t : Nat) (goal : TileState) : Enter :=
  let lan := lanternOf (tileHome t)
  match p.tile t with
  | some x =>
    if x.resident then .here
    else if x.state ≠ .spilled then .waits
    else if passTcap p.desc ≤ (p.resident lan).length then
      match p.victim lan with
      | some v => .moved (s.spillTile ctx p v)
      | none => .waits
    else
      match s.freeHandle lan with
      | some h => .moved (s.reloadTile ctx p x goal h)
      | none => .waits
  | none =>
    if passTcap p.desc ≤ (p.resident lan).length then
      match p.victim lan with
      | some v => .moved (s.spillTile ctx p v)
      | none => .waits
    else
      match s.freeHandle lan with
      | some h => .moved (.ok (s.setPass ctx (p.setTile { index := t, state := .raster, handle := h, image := []
                                                          lastWrite := s.clock.toNat, slice := s.tileSlice t, lost := false })))
      | none => .waits

/-! ### Setup (R368-R370, R374) -/

/-- The integer nearest to a ratio, ties to even. -/
def Ratio.nearest (a : Ratio) : Int :=
  let f := a.floor
  let twice := (a.sub (Ratio.ofInt f)).mul (Ratio.ofInt 2)
  if twice.lt Ratio.one then f else if Ratio.one.lt twice then f + 1 else if f % 2 = 0 then f else f + 1

/-- A quotient of FP32 words rounded to FP32 (R370). -/
def divF32 (a b : Word) : Word := toF32 (FVal.div (f32 a) (f32 b)).1

/-- A vertex set up in a view (R370): its snapped position in units of 2^-8 and its depth; none where it culls. -/
def setupVertex (wnear : Word) (v : Bytes) (p : List Word) : Option (Int × Int × Word) :=
  let x := p.getD 0 0
  let y := p.getD 1 0
  let z := p.getD 2 0
  let w := p.getD 3 0
  if !(p.all (fun c => (f32 c).finite)) || FVal.cmp (f32 w) (f32 wnear) = some (-1) then none
  else
    match Ratio.ofWord (divF32 x w), Ratio.ofWord (divF32 y w), Ratio.ofWord (divF32 z w) with
    | some xn, some yn, some _ =>
      let half (n : Nat) : Ratio := { n := n, d := 2 }
      let at' (o : Nat) (k : Ratio) : Int := (((Ratio.ofInt o).add k).mul (Ratio.ofInt 256)).nearest
      some (at' (viewX v) ((xn.add Ratio.one).mul (half (viewW v))), at' (viewY v) ((Ratio.one.sub yn).mul (half (viewH v))),
        divF32 z w)
    | _, _, _ => none

/-- The doubled signed area of three points. -/
def area2 (a b c : Int × Int) : Int := (b.1 - a.1) * (c.2 - a.2) - (b.2 - a.2) * (c.1 - a.1)

/-- A triangle set up (R370), or culled. -/
def setupTriangle (d v : Bytes) (ps : List (List Word)) (id : Dword) (view : Nat) : Option TriWork :=
  match ps.map (setupVertex (passWnear d) v) with
  | [some a, some b, some c] =>
    let area := area2 (a.1, a.2.1) (b.1, b.2.1) (c.1, c.2.1)
    let front := (0 < area && passFpos d) || (area < 0 && !passFpos d)
    if area = 0 || (passCull d = 1 && !front) || (passCull d = 2 && front) then none
    else some { tile := 0, x := [a.1, b.1, c.1], y := [a.2.1, b.2.1, c.2.1], z := [a.2.2, b.2.2, c.2.2], id, view }
  | _ => none

/-- Least and greatest of some integers. -/
def minInt (l : List Int) : Int := l.foldl min (l.headD 0)
def maxInt (l : List Int) : Int := l.foldl max (l.headD 0)

/-- The tiles that a triangle's box overlaps inside its view (R374). -/
def tilesOf (d v : Bytes) (w : TriWork) : List Nat :=
  let span (o n : Nat) (l : List Int) : List Nat :=
    let lo := max (minInt l) (256 * o)
    let hi := min (maxInt l) (256 * ((o + n : Nat) : Int) - 1)
    if hi < lo then [] else (List.range ((hi / 8192).toNat + 1)).filter (fun k => (lo / 8192).toNat ≤ k)
  let xs := span (viewX v) (viewW v) w.x
  ((span (viewY v) (viewH v) w.y).map (fun ty => xs.map (fun tx => ty * passTW d + tx))).flatten

/-- The instance and the cluster of a pass's block or identifier (R363, R364). -/
def readGeometry (rd : Dword → Nat → Rd Bytes) (d : Bytes) (iid clu : Nat) : Rd (Inst × Clus) := do
  let va := passInst d + BitVec.ofNat 64 (128 * iid)
  let i ← readInst rd va
  if i.iid ≠ iid then Rd.fail 0x11 va
  else
    let k ← readClus rd i clu
    pure (i, k)

/-- Reads of the raster and classify engines (R486). -/
def State.devFetch (s : State) (ctx : Nat) (va : Dword) (n : Nat) : Rd Bytes :=
  match (pagePieces 64 va n).foldl (fun (acc : Except (Nat × Dword) Bytes) p =>
      match acc with
      | .ok bs =>
        if s.devParks ctx p.1 p.2 then .error (shutting, p.1)
        else (match s.readVa ctx p.1 p.2 with | .ok b => .ok (bs ++ b) | .error c => .error (c, p.1))
      | e => e) (.ok []) with
  | .ok b => fun vs => .ok (b, (va, n) :: vs)
  | .error e => fun _ => .error e

/-- What such reads have read is gathered (R222). -/
def State.accessedAll (s : State) (ctx : Nat) (reads : List (Dword × Nat)) : State :=
  reads.foldl (fun s r => s.accessed ctx r.1 r.2) s

/-- The block itself breaks R368 or its limits. -/
def blockBad (d b : Bytes) : Bool :=
  field b 0 4 ≠ 1 || 2 ^ 28 ≤ field b 8 4 || !zeroField b 0x0D 51 || passNView d ≤ field b 0x0C 1

/-- A refused block (R369). -/
def State.refuse (s : State) (ctx : Nat) (p : Pass) (x : Submission) : State :=
  (s.setPass ctx { p with subs := p.subs.drop 1, refused := true }).killCtx ctx 0x11 0 0 [BitVec.ofNat 32 x.off]

/-- TRIANGLE_SETUP (R369, R370, R374): the oldest submission is set up and binned. -/
def execTriangleSetup (ctx : Nat) (s : State) : Host.Outcome State Fault Refusal :=
  match s.ctx ctx with
  | none => .next s
  | some c =>
    match c.pass with
    | none => .next s
    | some p =>
      match p.subs with
      | [] => .next s
      | x :: rest =>
        let b := x.block
        if blockBad p.desc b then .next (s.refuse ctx p x)
        else
          match readGeometry (s.devFetch ctx) p.desc (field b 4 4) (field b 8 4) [] with
          | .error (cause, va) =>
            if cause = shutting then .next s
            else if cause ≠ 0x10 then .next (s.refuse ctx p x)
            else
              let r : Dev State := s.devFault ctx 0xFFFF 0 va cause
              (match r with
                | .fail t _ _ => .next (t.refuse ctx p x)
                | .wait t => .next t
                | .ok t => .next t)
          | .ok ((_, k), reads) =>
            let v := p.views.getD (field b 0x0C 1) []
            let pos (i : Nat) : List Word := wordsAt b (0x40 + 16 * i) 4
            let tris := ((List.range k.tris.length).zip k.tris).map (fun y =>
              setupTriangle p.desc v [pos y.2.1, pos y.2.2.1, pos y.2.2.2]
                (identifier (field b 4 4) (field b 8 4) y.1 (field b 0x0C 1)) (field b 0x0C 1))
            let works := ((tris.filterMap id).map (fun w => (tilesOf p.desc v w).map (fun t => { w with tile := t }))).flatten
            .next ((s.accessedAll ctx reads).setPass ctx { p with
              subs := rest, work := p.work ++ works, submitted := p.submitted + tris.length
              culled := p.culled + tris.countP Option.isNone })

/-! ### Rasterisation (R371-R373) -/

/-- Sample positions in units of 1/16 pixel (R371). -/
def sampleAt (slog k : Nat) : Nat × Nat :=
  match slog with
  | 0 => (8, 8)
  | 1 => [(4, 4), (12, 12)].getD k (0, 0)
  | 2 => [(6, 2), (14, 6), (2, 10), (10, 14)].getD k (0, 0)
  | _ => [(1, 9), (3, 3), (5, 13), (7, 7), (9, 1), (11, 11), (13, 5), (15, 15)].getD k (0, 0)

/-- A sample under a triangle (R372, R373): its depth, where it is covered. -/
def TriWork.depthAt (w : TriWork) (sx sy : Int) : Option Word :=
  let v (i : Nat) : Int × Int := (w.x.getD i 0, w.y.getD i 0)
  let flip := area2 (v 0) (v 1) (v 2) < 0
  let j := if flip then 2 else 1
  let k := if flip then 1 else 2
  let e (p q : Int × Int) : Int := area2 p q (sx, sy)
  let inside (p q : Int × Int) : Bool :=
    let dx := q.1 - p.1
    let dy := q.2 - p.2
    0 < e p q || (e p q = 0 && ((dy = 0 && 0 < dx) || dy < 0))
  if inside (v 0) (v j) && inside (v j) (v k) && inside (v k) (v 0) then
    match Ratio.ofWord (w.z.getD 0 0), Ratio.ofWord (w.z.getD j 0), Ratio.ofWord (w.z.getD k 0) with
    | some z0, some zj, some zk =>
      let part (z : Ratio) (x : Int) : Ratio := z.mul (Ratio.ofInt x)
      some ((((part z0 (e (v j) (v k))).add (part zj (e (v k) (v 0)))).add (part zk (e (v 0) (v j)))).div
        (Ratio.ofInt (area2 (v 0) (v j) (v k)))).toF32
    | _, _, _ => none
  else none

/-- The comparison of R373. -/
def better (dfn : Bool) (z zs : Word) (id ids : Dword) : Bool :=
  match FVal.cmp (f32 z) (f32 zs) with
  | some o => (if dfn then o = 1 else o = -1) || (o = 0 && id < ids)
  | none => false

/-- A depth lies in [0, 1]. -/
def depthIn (z : Word) : Bool :=
  (f32 z).isZero || (!(f32 z).sign && FVal.cmp (f32 z) (.fin false 1 0) ≠ some 1 && (f32 z).finite)

/-- A triangle rasterised into a tile (R372, R373): the tile and the number of samples changed. -/
def rasterise (d v : Bytes) (t : STile) (w : TriWork) (now : Nat) : STile × Nat :=
  let n := passS d
  let tx := t.index % passTW d
  let ty := t.index / passTW d
  let near (o : Nat) (size : Nat) (tile : Nat) (l : List Int) : List Nat :=
    (List.range 32).filter (fun i =>
      let p := 32 * tile + i
      o ≤ p && p < o + size && minInt l ≤ 256 * (p : Int) + 255 && 256 * (p : Int) ≤ maxInt l)
  let xs := near (viewX v) (viewW v) tx w.x
  (near (viewY v) (viewH v) ty w.y).foldl (fun a y => xs.foldl (fun a x => (List.range n).foldl (fun (a : STile × Nat) k =>
    let o := sampleAt (passSlog d) k
    match w.depthAt (256 * ((32 * tx + x : Nat) : Int) + 16 * o.1) (256 * ((32 * ty + y : Nat) : Int) + 16 * o.2) with
    | none => a
    | some z =>
      let i := (y * 32 + x) * n + k
      let (zs, ids) := a.1.sample (passDclr d) i
      if depthIn z && better (passDfn d) z zs w.id ids then
        ({ a.1 with image := a.1.image.filter (fun e => e.1 ≠ i) ++ [(i, z, w.id)], lastWrite := now }, a.2 + 1)
      else a) a) a) (t, 0)

/-- TILE_RASTERISE (R373, R376, R377): a tile enters RASTER, a spill or a reload at a time, then takes its triangle. -/
def execTileRasterise (ctx work : Nat) (s : State) : Host.Outcome State Fault Refusal :=
  match (s.ctx ctx).bind Ctx.pass with
  | none => .next s
  | some p =>
    match p.work[work]? with
    | none => .next s
    | some w =>
      match s.enterTile ctx p w.tile .raster with
      | .waits => .next s
      | .moved r => done (r.orKill ctx)
      | .here =>
        match p.tile w.tile with
        | none => .next s
        | some t =>
          if !(s.column t.slice).sliceUp then .next s
          else
            let (t', n) := rasterise p.desc (p.views.getD w.view []) t w s.clock.toNat
            .next (s.setPass ctx { p.setTile t' with work := p.work.eraseIdx work, changed := p.changed + n })

/-! ### Closing (R367, R376, R377) -/

/-- The status record of a pass (R367). -/
def Pass.status (p : Pass) : Bytes :=
  toBytes 8 p.submitted ++ toBytes 8 p.changed ++ toBytes 4 p.spills ++ toBytes 4 p.reloads ++ toBytes 4 p.culled ++
    toBytes 4 ((if p.lost then 1 else 0) + (if p.refused then 2 else 0))

/-- The pass completes (R367): its status record is written, and its PASSCLOSE is done. -/
def State.endPass (s : State) (ctx : Nat) (p : Pass) : State :=
  match s.devWrite ctx 0xFFFF (passStat p.desc) p.status with
  | .ok t => p.closing.foldl (fun t q => t.cmdDone q.1 q.2) (t.updCtx ctx (fun c => { c with pass := none }))
  | .wait t => t
  | .fail t c a => t.killCtx ctx c 0 a []

/-- PASS_CLOSE_EFFECT (R367, R376, R377): the close takes effect; then spilled tiles come back as tiles are released, and
the pass completes when none is left. -/
def execPassCloseEffect (ctx : Nat) (s : State) : Host.Outcome State Fault Refusal :=
  match (s.ctx ctx).bind Ctx.pass with
  | none => .next s
  | some p =>
    let busy := s.launches.any (fun l => l.ctx = ctx && recPass l.record ≠ 0) || p.subs ≠ [] || p.work ≠ []
    if p.closing = [] || busy then .next s
    else if !p.closed then
      .next (s.setPass ctx { p with closed := true, tiles := p.tiles.map (fun t =>
        if t.state = .raster then { t with state := .closed } else t) })
    else
      let spilled := ((p.tiles.filter (fun t => t.state = .spilled)).map STile.index).mergeSort (· ≤ ·)
      let room (t : Nat) : Bool :=
        let lan := lanternOf (tileHome t)
        (p.resident lan).length < passTcap p.desc && (s.freeHandle lan).isSome
      match spilled.find? room with
      | some t =>
        match s.enterTile ctx p t .closed with
        | .moved r => done (r.orKill ctx)
        | _ => .next s
      | none =>
        if p.tiles.all (fun t => t.state = .released) then done (s.endPass ctx p) else .next s

/-! ### The classify engine (R380-R382) -/

/-- Identifiers of a quad, ascending (R380). -/
def quadIds (d : Bytes) (t : STile) (qx qy : Nat) : List Dword :=
  let n := passS d
  let all := ((List.range 4).map (fun i => (List.range n).map (fun k =>
    (t.sample (passDclr d) (((2 * qy + i / 2) * 32 + 2 * qx + i % 2) * n + k)).2))).flatten
  ((all.filter (fun i => i ≠ emptyId)).eraseDups).mergeSort (fun a b => a.toNat ≤ b.toNat)

/-- The record of a pixel for an identifier (R380, R381). -/
def pixelRecord (d : Bytes) (t : STile) (id : Dword) (x y : Nat) : QRec :=
  let n := passS d
  let at' (k : Nat) : Word × Dword := t.sample (passDclr d) ((y * 32 + x) * n + k)
  let held := (List.range n).filter (fun k => (at' k).2 = id)
  let px := 32 * (t.index % passTW d) + x
  let py := 32 * (t.index / passTW d) + y
  let words : List Word :=
    [ BitVec.ofNat 32 (held.foldl (fun a k => a + 2 ^ k) 0), BitVec.ofNat 32 (px + py * 65536), id.setWidth 32
    , (id >>> 32).setWidth 32, (match held with | k :: _ => (at' k).1 | [] => 0), BitVec.ofNat 32 (t.handle * 2 ^ 20)
    , 0, 0, 0, 0, 0, 0, 0, 0, 0, 0 ]
  { seq := 0, arrive := 0, helper := held = [], first := x % 2 = 0 && y % 2 = 0, hit := false, words, full := some words
    tile := some t.index }

/-- The unit of a quad for an identifier (R380). -/
def quadUnit (d : Bytes) (t : STile) (qx qy : Nat) (id : Dword) : List QRec :=
  (List.range 4).map (fun i => pixelRecord d t id (2 * qx + i % 2) (2 * qy + i / 2))

/-- CLASSIFY (R376, R380-R382): the home column's engine, which has no unit of another tile waiting, scans the tile. -/
def execClassify (ctx tile : Nat) (s : State) : Host.Outcome State Fault Refusal :=
  match s.ctx ctx with
  | none => .next s
  | some c =>
    match c.pass with
    | none => .next s
    | some p =>
      match p.tile tile with
      | none => .next s
      | some t =>
        let stalled := s.contexts.any (fun x => x.waitRecs.any (fun r => match r.tile with
          | some k => tileHome k = tileHome tile
          | none => false))
        if t.state ≠ .closed || stalled || c.phase ≠ .running || !(s.column t.slice).sliceUp then .next s
        else
          let units := if t.lost then [] else ((List.range 256).map (fun q =>
            (quadIds p.desc t (q % 16) (q / 16)).map (fun id => (q, id)))).flatten
          let ids := (units.map Prod.snd).eraseDups
          let keys : Rd (List (Dword × Word)) := ids.mapM (fun id => do
            let (_, k) ← readGeometry (s.devFetch ctx) p.desc (idInst id) (idClus id)
            pure (id, k.mat))
          match keys [] with
          | .error (cause, va) =>
            let r : Dev State := s.devFault ctx 0xFFFF 0 va cause
            if cause = shutting then .next s else done (r.orKill ctx)
          | .ok (ks, reads) =>
            let key (id : Dword) : Word := ((ks.find? (fun k => k.1 = id)).map Prod.snd).getD 0
            let s := s.setPass ctx (p.setTile { t with state := .classifying })
            let recs : List WaitRec := units.map (fun u =>
              { node := passMnode p.desc, key := key u.2, lan := lanternOf (tileHome tile)
                recs := quadUnit p.desc t (u.1 % 16) (u.1 / 16) u.2, from' := 0, flight := none, tile := some tile })
            done (((s.accessedAll ctx reads).sendUnits ctx recs).releaseTiles ctx)

end Sys2Proof.Machine
end

