-- ==== Sys2Proof/Machine/Monitor.lean ====
section
/-! DEFINITION. The monitors: the event log, temperatures, vault states, rail trips and the shutdown of L2 slices (R231-R233,
R379, R481, R482). -/

namespace Sys2Proof.Machine

/-- An event written into the ring (R482). -/
def State.logEvent (s : State) (kind unit st : Nat) (value : Word) : State :=
  let e := dwordBytes s.clock ++ toBytes 1 kind ++ toBytes 2 unit ++ toBytes 1 st ++ wordBytes value
  let es := s.events ++ [e]
  { s with events := es.drop (es.length - 4096), nextEvent := s.nextEvent + 1 }

/-- An event whose new state and value no rule gives. -/
def State.logOpen (s : State) (kind unit : Nat) : State :=
  let (n, s) := s.draw
  s.logEvent kind unit ((Config.unstated n).toNat % 256) (Config.unstated (n + 2 ^ 32))

/-- Every context that a test picks is terminated with a cause (R407). -/
def State.killWhere (s : State) (p : Ctx → Bool) (code : Nat) (det : List Word) : State :=
  (s.contexts.filter (fun c => !c.phase.over && p c)).foldl (fun s c => s.killCtx c.id code 0 0 det) s

/-! ### Shutdown of a slice (R233, R379) -/

/-- The next column of the lantern, after one, whose slice is up (R379). -/
def State.nextSlice (s : State) (col : Nat) : Option Nat :=
  let order := (List.range 47).map (fun i => columnOf (lanternOf col) ((col + 1 + i) % 48))
  order.find? (fun c => (s.column c).sliceUp)

/-- One resident tile of a slice that shuts down, written out (R379). -/
def State.evictTile (s : State) (ctx : Nat) (p : Pass) (t : STile) : Dev State :=
  if t.state = .raster then s.spillTile ctx p t
  else
    match s.nextSlice t.slice with
    | none => .wait s
    | some c =>
      match s.devWrite ctx 0xFFFF (tileSpillAt p.desc t.index) (tileImage p.desc t) with
      | .ok u => .ok (u.setPass ctx { p.setTile { t with slice := c } with spills := p.spills + 1, reloads := p.reloads + 1 })
      | r => r

/-- The resident tiles of a slice: context and index. -/
def State.sliceTiles (s : State) (col : Nat) : List (Nat × Nat) :=
  (s.contexts.map (fun c => match c.phase, c.pass with
    | .saved _, _ => []
    | _, some p => (p.tiles.filter (fun t => t.resident && t.slice = col)).map (fun t => (c.id, t.index))
    | _, none => [])).flatten

/-- The tiles of a slice written out, those that the slice does not come to before its window ends left as they are. -/
def State.evictTiles (s : State) (col : Nat) : State :=
  (s.sliceTiles col).foldl (fun (s : State) x =>
    match (s.ctx x.1).bind Ctx.pass with
    | none => s
    | some p =>
      match p.tile x.2 with
      | none => s
      | some t =>
        let (n, s) := s.draw
        if Config.tileLate n then s else (s.evictTile x.1 p t).orKill x.1) s

/-- A tile that was not written within the window (R379): it reads as cleared and appends no further record. -/
def Ctx.loseTile (c : Ctx) (index : Nat) (slice : Nat) : Ctx :=
  { c with
    waitRecs := c.waitRecs.filter (fun r => r.tile ≠ some index)
    pass := c.pass.map (fun p => { p with
      lost := true
      tiles := p.tiles.map (fun t => if t.index = index then { t with image := [], lost := true, slice } else t) }) }

/-- The shutdown of a column's slice begins (R233): its tiles are written out, then its dirty lines. -/
def State.shutSlice (s : State) (col : Nat) : State :=
  if !(s.column col).sliceUp then s
  else
    let s := s.updColumn col (fun c => { c with sliceUp := false, window := some (s.clock.toNat + 28800) })
    s.evictTiles col

/-- The window of a shutdown ends (R233): the slice has written its dirty lines oldest first, so the newest are left; the pages
of lines left unwritten are poisoned, the tiles left are lost. -/
def State.endWindow (s : State) (col : Nat) : State :=
  let (n, s) := s.draw
  let left := (s.column col).dirty.drop (Config.linesWritten n)
  let s := left.foldl (fun (s : State) k => s.poisonPages (128 * k / 2 ^ 54) (128 * k % 2 ^ 54)) s
  let s := (s.sliceTiles col).foldl (fun (s : State) x =>
    s.updCtx x.1 (fun c => c.loseTile x.2 ((s.nextSlice col).getD col))) s
  let s := s.updColumn col (fun c => { c with window := none, dirty := [] })
  ((s.contexts.map Ctx.id).foldl State.releaseTiles s).retryPeers.settle

/-- L2_SHUTDOWN_WINDOW_END (R233). -/
def execL2ShutdownWindowEnd (col : Nat) (s : State) : Host.Outcome State Fault Refusal :=
  match (s.column col).window with
  | none => .next s
  | some t => if s.clock.toNat < t then .next s else done (s.endWindow col)

/-- A slice comes back up, holding no lines (R233). -/
def State.raiseSlice (s : State) (col : Nat) : State :=
  let s := if (s.column col).window.isSome then s.endWindow col else s
  s.updColumn col (fun c => { c with sliceUp := true, dirty := [] })

/-! ### Vault states (R231, R232) -/

/-- A context holds a grant in a column's vault, or a block placed there (R232). -/
def Ctx.usesVault (c : Ctx) (col : Nat) : Bool :=
  let (base, limit) := c.grants.getD col (0, 0)
  base ≠ limit || c.storages.any (fun b => match b.place with
    | .vault k _ => k = col
    | .gddr .. => false)

/-- A change of a vault's state, recorded as an event (R231, R482). -/
def State.vaultTo (s : State) (col : Nat) (v : VaultState) : State :=
  let s := s.updColumn col (fun c => { c with vault := v })
  s.logEvent 1 col v.code (BitVec.ofInt 32 (s.column col).temp)

/-- Entry to the lost state (R232, R233): contents lost, vault lost (0x18) in every context that uses the vault. -/
def State.loseVault (s : State) (col : Nat) : State :=
  if (s.column col).vault = .lost then s
  else
    let s := (s.vaultTo col .lost).killWhere (fun c => c.usesVault col) 0x18 [BitVec.ofNat 32 col]
    let s : State := { s with mem := s.mem.clear (vaultKey col 0) (2 ^ 24) }
    s.shutSlice col

/-- Return to normal from the lost state (R232, R233): every sector poisoned, the slice up. -/
def State.regainVault (s : State) (col : Nat) : State :=
  let s := s.vaultTo col .normal
  let s : State := { s with mem := s.mem.poisonRange (vaultKey col 0) (s.column col).vcap }
  s.raiseSlice col

/-- Temperatures in units of 1/16 of a degree (R360). -/
def deg (x : Int) : Int := 16 * x

/-- The states of R231 under a sampled temperature. -/
def State.vaultSample (s : State) (col : Nat) : State :=
  let t := (s.column col).temp
  let cool (s : State) : State := if (s.column col).vault = .throttle && t < deg 90 then s.vaultTo col .normal else s
  if deg 115 ≤ t then s.loseVault col
  else
    match (s.column col).vault with
    | .lost => if t < deg 85 && !(s.column col).cacheTrip then s.regainVault col else s
    | .retention => if t < deg 100 then cool (s.vaultTo col .throttle) else s
    | .throttle => if deg 105 ≤ t then s.vaultTo col .retention else cool s
    | .normal => if deg 105 ≤ t then s.vaultTo col .retention else if deg 95 ≤ t then s.vaultTo col .throttle else s

/-- A column under its sampled temperature (R481). -/
def State.columnSample (s : State) (r : Readings) (col : Nat) : State :=
  let t := r.colTemp.getD col 0
  let s := s.updColumn col (fun c => { c with
    temp := t, hot := if deg 100 ≤ t then true else if t < deg 95 then false else c.hot
    corrected := min (c.corrected + r.corrected.getD col 0) (2 ^ 32 - 1) })
  let s := s.vaultSample col
  s.updColumn col (fun c => { c with vaultSeen := c.vault })

/-- A GDDR 7 device under its sampled temperature (R481). -/
def State.deviceSample (s : State) (r : Readings) (d : Nat) : State :=
  let t := r.memTemp.getD d 0
  let was := s.memHot.getD d false
  let hot := if deg 95 ≤ t then true else if t < deg 90 then false else was
  let s : State := { s with memTemp := s.memTemp.set d t, memHot := s.memHot.set d hot }
  let s := if hot = was then s else s.logEvent 1 d (if hot then 1 else 0) (BitVec.ofInt 32 t)
  if deg 105 ≤ t then s.killWhere (fun _ => true) 0x51 [0xFFFF0003#32] else s

/-- MONITOR_SAMPLE (R452, R481): in lateral slot 63 of the first lateral frame of each 65,536 cycles. -/
def execMonitorSample (readings : Readings) (s : State) : Host.Outcome State Fault Refusal :=
  let now := s.clock.toNat
  let slot := now - now % 65536 + 63
  if now < slot || slot ≤ s.lastSample.toNat || s.phase ≠ .ready then .next s
  else
    let s : State := { s with
      lastSample := s.clock
      ring := (List.range 48).map (fun q => readings.ring.getD q 0)
      milliVolt := (List.range 4).map (fun l => readings.milliVolt.getD l 0) }
    let s := (List.range Config.nColumns).foldl (fun s c => s.columnSample readings c) s
    done ((List.range 48).foldl (fun s d => s.deviceSample readings d) s)

/-- A read finds an uncorrectable error in the sector at a key, of a group's scratchpad or of the module's memory (R228): the
sector is poisoned, and the event log records it (R482).  The device of a GDDR 7 address is not given. -/
def State.bitError (s : State) (grp : Option Nat) (key : Nat) : State :=
  match grp.bind s.group with
  | some g => (s.setGroup { g with scr := g.scr.poisonRange key 1 }).logOpen 6 g.col
  | none =>
    if 2 ^ 58 ≤ key || grp.isSome then s
    else
      let s : State := { s with mem := s.mem.poisonRange key 1 }
      if 2 ^ 57 ≤ key then s.logOpen 6 ((key - 2 ^ 57) / 2 ^ 24)
      else
        let (n, s) := s.draw
        s.logOpen 6 ((Config.unstated n).toNat % 48)

/-! ### Rails (R481) -/

/-- RAIL_TRIP (R481). -/
def execRailTrip (col : Nat) (rail : Rail) (s : State) : Host.Outcome State Fault Refusal :=
  if Config.nColumns ≤ col || s.phase ≠ .ready then .next s
  else
    match rail with
    | .cacheDie =>
      if (s.column col).cacheTrip then .next s
      else
        let s := (s.updColumn col (fun c => { c with cacheTrip := true })).logOpen 2 col
        done ((s.shutSlice col).loseVault col)
    | .computeDie =>
      if (s.column col).computeTrip then .next s
      else
        let s := (s.updColumn col (fun c => { c with computeTrip := true, stopped := true })).logOpen 2 col
        done (s.killWhere (fun c => s.groups.any (fun g => g.ctx = c.id && g.col = col)) 0x51 [0xFFFF0005#32])

/-- RAIL_RECOVERY (R481). -/
def execRailRecovery (col : Nat) (rail : Rail) (s : State) : Host.Outcome State Fault Refusal :=
  let k := s.column col
  if Config.nColumns ≤ col then .next s
  else
    match rail with
    | .cacheDie =>
      if !k.cacheTrip || deg 85 ≤ k.temp then .next s
      else done (((s.updColumn col (fun c => { c with cacheTrip := false })).regainVault col).logOpen 2 col)
    | .computeDie =>
      if !k.computeTrip then .next s
      else .next ((s.updColumn col (fun c => { c with computeTrip := false, stopped := false })).logOpen 2 col)

end Sys2Proof.Machine
end

