-- ==== Sys2Proof/Machine/Fabric.lean ====
section
/-! DEFINITION. The Volyel link: sequence numbers, resends, ports that go down; the flits of peers and of the switch; frame
lock, holdover and departure (R30, R243, R454-R460, R468, R470). -/

namespace Sys2Proof.Machine

/-! ### Link-level retry (R455) -/

def State.port (s : State) (p : Nat) : Port := s.ports.getD p Port.reset
def State.setPort (s : State) (p : Nat) (x : Port) : State := { s with ports := s.ports.set p x }

/-- The partner has received the flits up to a sequence number (R455): flits that waited behind them go on the link. -/
def Port.acked (p : Port) (n : BitVec 8) : Port :=
  match p.replay.findIdx? (fun f => f.fseq = n) with
  | some i => ({ p with replay := p.replay.drop (i + 1), fails := 0 } : Port).fill
  | none => p

/-- The address by which a flit chooses its port. -/
def flitPlace (f : Flit) : Dword := (f.reqs.head?.map FlitReq.addr).getD 0

/-- The flits that a downed port holds go on, in order, on the live ports; with none they stay (R455). -/
def State.rehome (s : State) (p : Nat) : State :=
  if s.ports.all (fun x => !x.up) then s
  else
    let x := s.port p
    (x.replay ++ x.queued).foldl (fun s f => s.sendFlit (flitPlace f) f) (s.setPort p { x with replay := [], queued := [] })

/-- A port goes down, and the firmware retrains it (R455). -/
def State.portDown (s : State) (p : Nat) : State :=
  ((s.setPort p { s.port p with up := false, asking := false }).logEvent 4 p 0 (Config.unstated s.fresh)).draw.2.rehome p

/-- A resend asked for by the partner, which has discarded a flit and every later one: they go on the link again.  The ninth time
for one flit, eight resends of it have failed (R455). -/
def State.resend (s : State) (p : Nat) (n : BitVec 8) : State :=
  let x := s.port p
  let x := x.acked (n - 1)
  if !x.replay.any (fun f => f.fseq = n) then s.setPort p x
  else if 8 ≤ x.fails then (s.setPort p x).portDown p
  else s.setPort p { x with fails := x.fails + 1, sent := x.sent ++ (x.replay.dropWhile (fun f => f.fseq ≠ n)).map x.stamp }

/-- What the header of a flit tells of the flits sent (R455). -/
def State.linkHeader (s : State) (p : Nat) (f : Flit) : State :=
  let s := match f.ack with
    | some n => s.setPort p ((s.port p).acked n)
    | none => s
  match f.resend with
  | some n => s.resend p n
  | none => s

/-- An idle flit sent, whose header acknowledges what the port has received or asks for a resend (R455). -/
def State.sendIdle (s : State) (p : Nat) : State :=
  let x := s.port p
  if x.up then s.draw.2.setPort p { x with sent := x.sent ++ [x.stamp { s.newFlit 0 0 0 0 0 0 [] [] none with fseq := x.txSeq }] } else s

/-- A flit that does not arrive whole and in sequence is discarded, and a resend is asked for (R455). -/
def State.discardFlit (s : State) (p : Nat) : State := (s.setPort p { s.port p with asking := true }).sendIdle p

/-- A flit whole and in sequence is taken and acknowledged; any other is discarded (R455). -/
def State.takeFlit (s : State) (p : Nat) (f : Flit) (use : State → State) : State :=
  let x := s.port p
  if !x.up then s
  else if !flitOk f || f.fseq ≠ x.rxSeq then s.discardFlit p
  else (use ((s.setPort p { x with rxSeq := x.rxSeq + 1, asking := false }).linkHeader p f)).sendIdle p

/-- IDLE_FLIT (R455). -/
def execIdleFlit (port : Nat) (flit : Flit) (s : State) : Host.Outcome State Fault Refusal :=
  if flit.ftyp ≠ 0 || Config.nPorts ≤ port || !(s.port port).up then .next s
  else if !flitOk flit then .next (s.discardFlit port)
  else .next (s.linkHeader port flit)

/-- PORT_RETRAIN (R455): a downed port returns to service. -/
def execPortRetrain (port : Nat) (s : State) : Host.Outcome State Fault Refusal :=
  if Config.nPorts ≤ port || (s.port port).up || s.phase ≠ .ready then .next s
  else
    let held := (s.port port).replay ++ (s.port port).queued
    let s := s.setPort port { Port.reset with up := true }
    let s := (s.logEvent 4 port 1 (Config.unstated s.fresh)).draw.2
    let s := held.foldl (fun s f => s.sendFlit (flitPlace f) f) s
    .next ((List.range Config.nPorts).foldl (fun s p => if (s.port p).up then s else s.rehome p) s)

/-- REQUEST_FLIT (R454, R455, R457). -/
def execRequestFlit (port : Nat) (flit : Flit) (s : State) : Host.Outcome State Fault Refusal :=
  if flit.ftyp ≠ 1 || Config.nPorts ≤ port then .next s
  else
    done (s.takeFlit port flit (fun s => flit.reqs.foldl (fun s r =>
      s.takeRequest { port, dev := flit.sdev, slan := flit.slan, lan := flit.dlan % 4, fdom := flit.fdom, psn := flit.psn, req := r }) s))

/-! ### Answers (R243, R457-R459) -/

/-- The cause that an answer carries: that of the owner, or poisoned data for what it reads. -/
def ansCode (a : FlitAns) (kind : Nat) : Nat :=
  if a.cause ≠ 0 then a.cause else if a.poison ≠ 0 && kind ≠ 1 then 0x12 else 0

/-- A cause that an answer brings: timeout is the device's, every other the owner's (R243, R268, R457, R459). -/
def Flight.answered (f : Flight) (code now : Nat) (lanes : Word) (addr : Dword) : Cause := (f.later code 0 lanes addr []).byFabric now

/-- The first destination register of a flight. -/
def Flight.first (f : Flight) : Nat :=
  ((f.dests.filterMap (fun d => match d with
    | .vec r .. => some r
    | .mask .. => none)).min?).getD 0

/-- The values of an answer for the lanes of its request. -/
def RemoteReq.values (r : RemoteReq) (data : Bytes) : List (Nat × List Word) :=
  (List.range r.lanes.length).zip r.lanes |>.map (fun x => (x.2, loadWords ((data.drop (x.1 * r.bytes)).take r.bytes) r.sx))

/-- A flight takes the answer to one of its requests, whose data may come in several flits; a load that meets a cause writes no
register (R268). -/
def Flight.answer (f : Flight) (r : RemoteReq) (a : FlitAns) : Flight :=
  let f' : Flight := { f with remote := f.remote.filter (fun x => x.tag ≠ r.tag) }
  if ansCode a r.kind = 0 && a.more then
    { f with remote := f.remote.map (fun x => if x.tag = r.tag then { x with got := x.got ++ a.data } else x) }
  else if ansCode a r.kind ≠ 0 then (if r.kind = 0 then { f' with dests := [] } else f')
  else if r.kind = 1 then f'
  else { f' with dests := f.dests.map (Dest.fill f.first r.single r.fill (r.values (r.got ++ a.data))) }

/-- The tile whose rows a flight has sent to peers. -/
def Flight.movedTile (f : Flight) : Option Nat :=
  match f.kind with
  | .moved t => some t
  | _ => none

/-- A warp takes an answer.  What the owner of a tile's row meets is recorded in the tile's status, the first of them (R294); a
refusal by its firmware or by the switch is a cause of the warp (R412, R459). -/
def Warp.answer (w : Warp) (now : Nat) (a : FlitAns) : Warp :=
  let w : Warp := if a.more && a.cause = 0 then w else { w with unack := w.unack.filter (fun u => u.tag ≠ a.tag) }
  match w.flights.find? (fun f => f.remote.any (fun r => r.tag = a.tag)) with
  | none => w
  | some f =>
    match f.remote.find? (fun r => r.tag = a.tag) with
    | none => w
    | some r =>
      let code := ansCode a r.kind
      let lanes := if r.lanes = [] then f.grp else maskOf (fun l => r.lanes.contains l)
      let w := if f.op = 0xA9 then w.endFlight f.id else w.setFlight (f.answer r a)
      if code = 0 then w
      else
        match f.movedTile, (code = 0x10 || code = 0x50 : Bool) with
        | some t, false => if (w.tile t).cause = 0 then w.recordTile t (some (code, 0)) else w
        | some _, true => w.addCause (f.answered code now lanes r.addr)
        | none, _ => { w with causes := w.causes ++ [f.answered code now lanes r.addr] }

/-- An engine operation takes an answer: the first cause stands in its status (R305, R315). -/
def EngineOp.answer (o : EngineOp) (a : FlitAns) : EngineOp :=
  if !o.sent.any (fun u => u.tag = a.tag) then o
  else
    let o : EngineOp := { o with sent := o.sent.filter (fun u => u.tag ≠ a.tag) }
    if a.cause = 0 then o
    else
      { o with
        cause := if o.cause = 0 then a.cause else o.cause
        result := o.result.map (fun r => (if r.1 / 65536 % 256 = 0 then r.1 + BitVec.ofNat 32 (a.cause * 65536) else r.1, r.2)) }

/-- A group takes an answer; a write of its engines that the fabric refuses, or the firmware of its owner for an operation without
elements that it could complete as bad indexes (R412), is a cause of the warp that started it. -/
def Group.answer (g : Group) (now : Nat) (a : FlitAns) : Group :=
  let refused := g.ops.filterMap (fun o =>
    (o.sent.find? (fun u => u.tag = a.tag && (a.cause = 0x50 || (a.cause = 0x10 && o.op ≠ 0xD3 && o.op ≠ 0xD4)))).map (fun u => (o, u.addr)))
  let warp (w : Warp) : Warp :=
    match refused.find? (fun x => x.1.wid = w.wid) with
    | some (o, va) =>
      (match w.flights.find? (fun f => f.id = o.flight) with
        | some f => (w.answer now a).addCause (f.answered a.cause now f.grp va)
        | none => w.answer now a)
    | none => w.answer now a
  { g with warps := g.warps.map warp, ops := g.ops.map (fun o => o.answer a) }

/-- The PC group of a WAITV whose read an answer brings: its lane (R257). -/
def Warp.asker (w : Warp) (a : FlitAns) : Option Nat :=
  match w.flights.find? (fun f => f.op = 0xA9 && f.remote.any (fun r => r.tag = a.tag)) with
  | none => none
  | some f =>
    if ansCode a 0 ≠ 0 then none
    else (List.range 32).find? (fun l => w.live.getLsbD l && (w.waitOf l).isWaitv && w.pcOf l = f.pc && w.rslOf l = f.slot)

/-- The PC groups whose WAITV an answer satisfies pass their slot (R257). -/
def State.passWaits (s : State) (a : FlitAns) (asked : List (Nat × Nat × Nat)) : State :=
  asked.foldl (fun (s : State) x =>
    match s.group x.1 with
    | none => s
    | some g =>
      match g.warp x.2.1 with
      | none => s
      | some w =>
        match s.cxAt g w x.2.2 with
        | none => s
        | some (_, op) => if op.holds (fieldW a.data 0) then s.passSlot g w x.2.2 else s) s

/-- An answer to a write of the device: what it brings ends the context of the structure (R457, R486), unless that has ended. -/
def State.answerOwed (s : State) (a : FlitAns) : State :=
  match s.owed.find? (fun o => o.tag = a.tag) with
  | none => s
  | some o =>
    let s : State := { s with owed := s.owed.filter (fun x => x.tag ≠ a.tag) }
    if a.cause = 0 || ((s.ctx o.ctx).map (fun c => c.phase.over)).getD true then s else s.killCtx o.ctx a.cause 0 o.addr []

/-- The answers of a flit, with the sectors of its payload that are marked (R228, R454): the data stand in it one behind the
other. -/
def flitAnswers (f : Flit) : List FlitAns :=
  (f.answers.foldl (fun (x : List FlitAns × Nat) a =>
    let bad (i : Nat) : Bool := (List.range 7).any (fun j =>
      f.psn.getLsbD j && 32 * i < a.data.length && 32 * j < x.2 + min (32 * i + 32) a.data.length && x.2 + 32 * i < 32 * j + 32)
    let mask := (List.range 7).foldl (fun m i => if bad i then m ||| 1#7 <<< i else m) 0#7
    (x.1 ++ [{ a with poison := a.poison ||| mask }], x.2 + a.data.length)) ([], 0)).1

/-- An answer taken by the operation that its tag names (R243). -/
def State.answer (s : State) (a : FlitAns) : State :=
  let now := s.clock.toNat
  let asked := (s.groups.map (fun g => g.warps.filterMap (fun w => (w.asker a).map (fun l => (g.uid, w.wid, l))))).flatten
  let s : State := { s with
    groups := s.groups.map (fun g => g.answer now a)
    contexts := s.contexts.map (fun c => { c with savedGroups := c.savedGroups.map (fun g => g.answer now a) }) }
  (s.passWaits a asked).answerOwed a

/-- RESPONSE_FLIT (R243, R454, R455). -/
def execResponseFlit (port : Nat) (flit : Flit) (s : State) : Host.Outcome State Fault Refusal :=
  if flit.ftyp ≠ 2 || Config.nPorts ≤ port then .next s
  else .next (s.takeFlit port flit (fun s => (flitAnswers flit).foldl State.answer s))

/-! ### Frame lock (R30, R468) -/

/-- The time of the switch reaches the module: a step forward, or half rate until the two agree (R30). -/
def State.lockTo (s : State) (time : Dword) : State :=
  if s.ftime ≤ time then { s with ftime := time, ftimeRem := 0, ftimeSlow := none } else { s with ftimeSlow := some (time, 0) }

/-- HOLDOVER (R468). -/
def execHoldover (s : State) : Host.Outcome State Fault Refusal :=
  if s.phase ≠ .ready || !s.acquired || s.holdover || s.ftime.toNat < s.lastBeacon.toNat + 1000000 then .next s
  else .next (({ s with holdover := true, acquired := false, ftimeSlow := none } : State).logEvent 3 0 1 (Config.unstated s.fresh)).draw.2

/-! ### Poses (R470) -/

/-- A pose is newer than the one that the register holds, or the first since the start (R470). -/
def PoseReg.newer (r : PoseReg) (p : Pose) : Bool :=
  let d := (p.seq - r.pose.seq).toNat
  !r.got || (1 ≤ d && d ≤ 2 ^ 31 - 1)

/-- POSE_FLIT (R470). -/
def execPoseFlit (port : Nat) (pose : Pose) (s : State) : Host.Outcome State Fault Refusal :=
  if Config.nPorts ≤ port || !(s.port port).up || s.phase ≠ .ready || !s.poseReg.newer pose then .next s
  else
    let s : State := { s with
      poseReg := { pose, got := true }
      outputs := s.outputs.map (fun o => if o.ctx = 0 then o else { o with poseDue := true }) }
    done s.writePoses

end Sys2Proof.Machine
end

