-- ==== Sys2Proof/Machine/Display.lean ====
section
/-! DEFINITION. Display outputs: latching, deadlines, frames, retire records, and what an output shows (R464-R469). -/

namespace Sys2Proof.Machine

/-! ### Frame descriptors (R465) -/

def frameBase (d : Bytes) : Dword := fieldD d 0x00
def framePitch (d : Bytes) : Nat := field d 0x08 4
def frameW (d : Bytes) : Nat := field d 0x0C 2
def frameH (d : Bytes) : Nat := field d 0x0E 2
def frameFmt (d : Bytes) : Nat := field d 0x10 1
def frameNum (d : Bytes) : Word := fieldW d 0x14
/-- The render orientation, w first. -/
def frameRq (d : Bytes) : List Word := wordsAt d 0x18 4
def framePmap (d : Bytes) : List Word := wordsAt d 0x28 9

/-- Three exact coordinates of three words of a list. -/
def vecAt (ws : List Word) (i : Nat) : Option Vec3 := Vec3.ofWords ((ws.drop i).take 3)

/-- The rows of a 3 by 3 matrix; none unless every entry is finite. -/
def rowsOf (ws : List Word) : Option (Vec3 × Vec3 × Vec3) :=
  match vecAt ws 0, vecAt ws 3, vecAt ws 6 with
  | some a, some b, some c => some (a, b, c)
  | _, _, _ => none

/-- The exact determinant of rows. -/
def rowsDet (m : Vec3 × Vec3 × Vec3) : Ratio := Vec3.dot m.1 (Vec3.cross m.2.1 m.2.2)

/-- A frame descriptor is invalid for a mode (R465). -/
def frameBad (addr : Dword) (d mode : Bytes) : Bool :=
  let singular := match rowsOf (framePmap d) with
    | some m => (rowsDet m).isZero
    | none => true
  addr.toNat % 128 ≠ 0 || (frameBase d).toNat % 4096 ≠ 0 || framePitch d % 256 ≠ 0 || frameW d ≠ field mode 0 2 ||
    frameH d ≠ field mode 2 2 || 2 < frameFmt d || !zeroField d 0x11 3 || !zeroField d 0x4C 52 || singular

/-! ### Latching and deadlines (R466, R469) -/

/-- The deadline of frame `k` (R466). -/
def Output.deadline (o : Output) (k : Nat) : Nat := o.phase + k * o.period - o.lead

/-- A FRAMEC's wait ends: its ST counter falls (R354). -/
def State.endCommit (s : State) (c : Commit) : State := s.updWarp c.grp c.wid (fun w => w.endFlight c.flight)

/-- FRAME_LATCH (R354, R465, R466): the output reads the oldest commit; one from its deadline on waits until that deadline
has been taken.  A latched frame ends the hold of Vigil (R469), but not in a module that departs (R459). -/
def execFrameLatch (out : Nat) (s : State) : Host.Outcome State Fault Refusal :=
  match s.outputs[out]? with
  | none => .next s
  | some o =>
    match o.commits with
    | [] => .next s
    | c :: rest =>
      let pop (s : State) (o : Output) : State := { s with outputs := s.outputs.set out { o with commits := rest } }
      if c.ctx ≠ o.ctx then .next ((pop s o).endCommit c)
      else if o.deadline o.next ≤ s.ftime.toNat then .next s
      else
        match s.devRead c.ctx 0xFFFF c.addr 128 with
        | .wait t => done t
        | .fail t k a => done (t.outputDone c.ctx (.fail t k a))
        | .ok d =>
          let s := s.accessed c.ctx c.addr 128
          if frameBad c.addr d o.mode then
            let s := (pop s o).updWarp c.grp c.wid (fun w =>
              match w.flights.find? (fun f => f.id = c.flight) with
              | some f => { w with causes := w.causes ++ [f.later 0x11 0 f.grp c.addr []] }
              | none => w)
            .next (s.endCommit c)
          else
            let f : DFrame := { desc := d, ctx := c.ctx }
            .next ((pop s { o with latched := o.latched ++ [f], last := some f, vigilHold := s.switch ≠ .joined }).endCommit c)

/-- The frame whose deadline an output takes: the next one, or the latest one passed where the time has stepped past
some (R30). -/
def Output.due (o : Output) (now : Nat) : Nat :=
  if o.period = 0 then o.next else max o.next ((now + o.lead - o.phase) / o.period)

/-- The retire record of the frame that an output scans, at the end of its scan (R467). -/
def State.retireRecord (s : State) (o : Output) : Bytes :=
  match o.scan with
  | none => []
  | some (f, vigil, lost, _) =>
    wordBytes (match f with
      | some f => frameNum f.desc
      | none => Config.unstated s.fresh) ++
      toBytes 4 ((if vigil then 1 else 0) + (if lost then 2 else 0)) ++ dwordBytes s.ftime

/-- The end of a scan (R467): the record is formed, and the output is free for its next frame. -/
def State.endScan (s : State) (out : Nat) : State :=
  let o := s.output out
  if o.scan.isNone then s
  else s.draw.2.setOutput out { o with scan := none, retires := o.retires ++ [(o.ctx, o.retireAt, s.retireRecord o)] }

/-- The frame that was fixed begins scanning, and the one before it ends (R466); an output whose context has been terminated runs
under Vigil from its next frame (R469). -/
def State.startFrame (s : State) (out : Nat) : State :=
  let t := s.endScan out
  let o := t.output out
  match o.fixed with
  | none => s
  | some (f, vigil, lost, pose) =>
    t.setOutput out { o with scan := some (f, vigil || o.vigilHold, lost, pose), scanK := o.fixedK, fixed := none }

/-- FRAME_DEADLINE (R466, R469): the frame is fixed, and the pose for Vigil is read.  A frame fixed before, whose start has come in
the same cycle, begins scanning first. -/
def execFrameDeadline (out : Nat) (s : State) : Host.Outcome State Fault Refusal :=
  match s.outputs[out]? with
  | none => .next s
  | some o =>
    if o.ctx = 0 || s.ftime.toNat < o.deadline o.next then .next s
    else
      let s := s.startFrame out
      let o := s.output out
      let k := o.due s.ftime.toNat
      let vigil := o.latched = [] || o.vigilHold
      let lost := if vigil then o.latched.length else o.latched.length - 1
      let o := { o with
        fixed := some (o.last, vigil, lost ≠ 0, s.poseReg.pose), fixedK := k, next := k + 1, latched := []
        dropped := o.dropped + lost }
      .next (s.setOutput out o)

/-- FRAME_START (R466, R468): frame k begins scanning. -/
def execFrameStart (out : Nat) (s : State) : Host.Outcome State Fault Refusal :=
  match s.outputs[out]? with
  | none => .next s
  | some o =>
    if o.fixed.isNone || s.ftime.toNat < o.phase + o.fixedK * o.period then .next s else .next (s.startFrame out)

/-- FRAME_RETIRE (R467): a frame has been scanned, and the records that stand are written. -/
def execFrameRetire (out : Nat) (s : State) : Host.Outcome State Fault Refusal :=
  match s.outputs[out]? with
  | none => .next s
  | some o =>
    let t := if o.scan.isNone || s.ftime.toNat < o.phase + (o.scanK + 1) * o.period then s else s.endScan out
    done (t.writeRetires out (t.output out).retires)

/-! ### What an output shows (R466, R469) -/

/-- Bytes of a pixel. -/
def pixelBytes (fmt : Nat) : Nat := if fmt = 2 then 8 else 4

/-- The channels of a pixel as FP32 words. -/
def pixelWords (fmt : Nat) (b : Bytes) : List Word :=
  match fmt with
  | 0 => channels 2 b
  | 1 =>
    let w := leNat b
    let u (x n : Nat) : Word := toF32 (FVal.div (FVal.ofInt (x : Nat)) (FVal.ofInt (n : Nat))).1
    [u (w % 1024) 1023, u (w / 1024 % 1024) 1023, u (w / 2 ^ 20 % 1024) 1023, u (w / 2 ^ 30 % 4) 3]
  | _ => channels 6 b

/-- A pixel of a frame; free where its bytes cannot be read or it lies outside the frame. -/
def State.framePixel (s : State) (f : DFrame) (x y : Int) : List Word :=
  let free : List Word := (List.range 4).map (fun i => Config.unstated (s.fresh + i))
  if x < 0 ∨ y < 0 ∨ (frameW f.desc : Int) ≤ x ∨ (frameH f.desc : Int) ≤ y then free
  else
    let n := pixelBytes (frameFmt f.desc)
    match s.readVa f.ctx (frameBase f.desc + BitVec.ofNat 64 (y.toNat * framePitch f.desc + x.toNat * n)) n with
    | .ok b => pixelWords (frameFmt f.desc) b
    | .error _ => free

/-- The arithmetic in which the steps of R469 are done: exact, or with one FP32 RNE rounding a step. -/
structure Arith (α : Type) where
  zero : α
  add : α → α → α
  neg : α → α
  mul : α → α → α
  div : α → α → α

def exactArith : Arith Ratio := { zero := Ratio.zero, add := Ratio.add, neg := Ratio.neg, mul := Ratio.mul, div := Ratio.div }

def roundedArith : Arith Word :=
  { zero := 0, add := addF32, neg := fun a => a ^^^ 0x80000000#32, mul := mulF32, div := divF32 }

namespace Arith

variable {α : Type} (o : Arith α)

def sub (a b : α) : α := o.add a (o.neg b)
def dot (a b : α × α × α) : α := o.add (o.add (o.mul a.1 b.1) (o.mul a.2.1 b.2.1)) (o.mul a.2.2 b.2.2)
def cross (a b : α × α × α) : α × α × α :=
  ( o.sub (o.mul a.2.1 b.2.2) (o.mul a.2.2 b.2.1), o.sub (o.mul a.2.2 b.1) (o.mul a.1 b.2.2)
  , o.sub (o.mul a.1 b.2.1) (o.mul a.2.1 b.1))

/-- A vector turned by a unit quaternion given as scalar and vector part. -/
def turn (w : α) (q v : α × α × α) : α × α × α :=
  let t := o.cross q v
  let t := (o.add t.1 t.1, o.add t.2.1 t.2.1, o.add t.2.2 t.2.2)
  let c := o.cross q t
  (o.add v.1 (o.add (o.mul w t.1) c.1), o.add v.2.1 (o.add (o.mul w t.2.1) c.2.1), o.add v.2.2 (o.add (o.mul w t.2.2) c.2.2))

/-- The inverse of a matrix of three rows applied to a vector. -/
def solve (a b c d : α × α × α) : α × α × α :=
  let det := o.dot a (o.cross b c)
  let bc := o.cross b c
  let ca := o.cross c a
  let ab := o.cross a b
  let part (x y z : α) : α := o.div (o.dot d (x, y, z)) det
  (part bc.1 ca.1 ab.1, part bc.2.1 ca.2.1 ab.2.1, part bc.2.2 ca.2.2 ab.2.2)

/-- (u, v, w) of R469 from its inputs by number: `RQ` w to z, `Qc` w to z, `PMAP` row by row, and the pixel centre. -/
def vigil (x : Nat → α) : List α :=
  let at' (i : Nat) : α × α × α := (x i, x (i + 1), x (i + 2))
  let v := at' 17
  let d := (o.dot (at' 8) v, o.dot (at' 11) v, o.dot (at' 14) v)
  let back := (o.neg (x 1), o.neg (x 2), o.neg (x 3))
  let r := o.solve (at' 8) (at' 11) (at' 14) (o.turn (x 0) back (o.turn (x 4) (at' 5) d))
  [r.1, r.2.1, r.2.2]

/-- Steps done one after another on numbered values: each adds a value, and the last three are the results. -/
def run (plan : List (Nat × Nat × Nat × Nat)) (xs : List α) : List α :=
  let ys := plan.foldl (fun xs p =>
    let v (i : Nat) : α := xs.getD i o.zero
    let (op, a, b, c) := p
    xs ++ [match op with
      | 0 => o.add (v a) (v b)
      | 1 => o.sub (v a) (v b)
      | 2 => o.mul (v a) (v b)
      | 3 => o.div (v a) (v b)
      | 4 => o.neg (v a)
      | _ => o.add (o.mul (v a) (v b)) (v c)]) xs
  ys.drop (ys.length - 3)

end Arith

/-- The inputs of R469 for a pixel of a frame under a pose. -/
def vigilInputs (f : DFrame) (p : Pose) (px py : Nat) : List Word :=
  let centre (k : Nat) : Word := toF32 (.fin false (2 * k + 1) (-1))
  frameRq f.desc ++ [p.qw, p.qx, p.qy, p.qz] ++ framePmap f.desc ++ [centre px, centre py, 0x3F800000#32]

/-- (u, v, w) of R469: the results of FP32 RNE steps that would give the rule's values if they were exact.  The steps are free
(`Config.vigilPlan`); where they are no such steps, or an input is not finite, those of `Arith.vigil` are done. -/
def vigilPoint (ws : List Word) : List Word :=
  let xs := ws.filterMap Ratio.ofWord
  let plan := Config.vigilPlan
  let right := xs.length = ws.length && (((exactArith.run plan xs).zip (exactArith.vigil (xs.getD · Ratio.zero))).map (fun y => y.1.eq y.2)) =
    [true, true, true]
  if right then roundedArith.run plan ws else roundedArith.vigil (ws.getD · 0)

/-- A coordinate of the bilinear fetch: the first texel and the weight of the second in 1/256 (R395). -/
def vigilAxis (c : Word) : Int × Nat :=
  let x := FVal.sum false [f32 c, .fin true 1 (-1)]
  let y := f32 (toF32 x.1)
  let i := floorVal y
  let fr := (FVal.sum false [y, FVal.ofInt (-i)]).1
  (i, (floorVal (FVal.mul fr (FVal.ofInt 256)).1).toNat)

/-- A pixel under Vigil (R469). -/
def State.vigilPixel (s : State) (f : DFrame) (p : Pose) (px py : Nat) : List Word :=
  let e := vigilPoint (vigilInputs f p px py)
  let w := e.getD 2 0
  let cu := divF32 (e.getD 0 0) w
  let cv := divF32 (e.getD 1 0) w
  let inside (c : Word) (n : Nat) : Bool :=
    (match FVal.cmp (.fin false 0 0) (f32 c) with | some k => k ≤ 0 | none => false) &&
      (match FVal.cmp (f32 c) (FVal.ofInt (n : Nat)) with | some k => k < 0 | none => false)
  let front := match FVal.cmp (.fin false 0 0) (f32 w) with | some k => k < 0 | none => false
  if !front || !inside cu (frameW f.desc) || !inside cv (frameH f.desc) then [0, 0, 0, 0]
  else
    let (x, a) := vigilAxis cu
    let (y, b) := vigilAxis cv
    let tap (dx dy : Int) (k : Nat) : List FVal :=
      (s.framePixel f (x + dx) (y + dy)).map (fun c => (FVal.mul (f32 c) (.fin false k (-16))).1)
    let taps := [tap 0 0 ((256 - a) * (256 - b)), tap 1 0 (a * (256 - b)), tap 0 1 ((256 - a) * b), tap 1 1 (a * b)]
    (List.range 4).map (fun i => toF32 (FVal.sum false (taps.map (fun t => t.getD i (.fin false 0 0)))).1)

/-- The pixel that an output shows in the frame that it scans (R466, R469): 0 with no frame ever latched. -/
def State.shown (s : State) (out px py : Nat) : List Word :=
  match (s.outputs.getD out Output.reset).scan with
  | some (some f, vigil, _, pose) => if vigil then s.vigilPixel f pose px py else s.framePixel f px py
  | _ => [0, 0, 0, 0]

end Sys2Proof.Machine
end

