-- ==== Sys2Proof/Machine/Hash.lean ====
section
/-! DEFINITION. SHA-256 (R484), and signing by SLH-DSA-SHA2-128s (FIPS 205, R483). -/

namespace Sys2Proof.Machine

/-! ### SHA-256 -/

/-- The greatest number below `2 ^ n` above `r` whose power `k` does not exceed `x`, a bit at a time. -/
def rootBits (k x : Nat) : Nat → Nat → Nat
  | 0, r => r
  | n + 1, r => rootBits k x n (if (r + 2 ^ n) ^ k ≤ x then r + 2 ^ n else r)

/-- The first 32 bits of the fractional part of root `k` of a number below `2 ^ (8 * k)`. -/
def rootWord (k p : Nat) : Word := BitVec.ofNat 32 (rootBits k (p * 2 ^ (32 * k)) 40 0)

/-- The primes below 19 * 19, least first. -/
def smallPrimes : List Nat :=
  let d := [2, 3, 5, 7, 11, 13, 17]
  (List.range 361).filter (fun p => 2 ≤ p && d.all (fun q => p = q || p % q ≠ 0))

/-- The round constants: of the cube roots of the first 64 primes (FIPS 180-4). -/
def shaK : List Word := (smallPrimes.take 64).map (rootWord 3)

/-- The hash value before the first block: of the square roots of the first eight primes. -/
def shaInit : List Word := (smallPrimes.take 8).map (rootWord 2)

/-- A big-endian word. -/
def beWord (b : Bytes) : Word := BitVec.ofNat 32 (leNat (b.take 4).reverse)

/-- A number in `n` bytes, big-endian. -/
def beBytes (n x : Nat) : Bytes := (toBytes n x).reverse

/-- The rest of the message schedule, from its last sixteen words, oldest first. -/
def shaSchedule : Nat → List Word → List Word
  | 0, _ => []
  | n + 1, w =>
    let x := w.getD 1 0
    let y := w.getD 14 0
    let s0 := x.rotateRight 7 ^^^ x.rotateRight 18 ^^^ (x >>> 3)
    let s1 := y.rotateRight 17 ^^^ y.rotateRight 19 ^^^ (y >>> 10)
    let z := w.getD 0 0 + s0 + w.getD 9 0 + s1
    z :: shaSchedule n (w.drop 1 ++ [z])

/-- One round. -/
def shaRound (h : List Word) (kw : Word × Word) : List Word :=
  match h with
  | [a, b, c, d, e, f, g, x] =>
    let s1 := e.rotateRight 6 ^^^ e.rotateRight 11 ^^^ e.rotateRight 25
    let t1 := x + s1 + ((e &&& f) ^^^ (~~~e &&& g)) + kw.1 + kw.2
    let s0 := a.rotateRight 2 ^^^ a.rotateRight 13 ^^^ a.rotateRight 22
    let t2 := s0 + ((a &&& b) ^^^ (a &&& c) ^^^ (b &&& c))
    [t1 + t2, a, b, c, d + t1, e, f, g]
  | _ => h

/-- One block of 64 bytes. -/
def shaBlock (h : List Word) (b : Bytes) : List Word :=
  let w := (List.range 16).map (fun i => beWord (b.drop (4 * i)))
  ((h.zip ((shaK.zip (w ++ shaSchedule 48 w)).foldl shaRound h)).map (fun x => x.1 + x.2))

/-- Blocks of a padded message. -/
def shaBlocks : Nat → List Word → Bytes → List Word
  | 0, h, _ => h
  | n + 1, h, b => shaBlocks n (shaBlock h (b.take 64)) (b.drop 64)

/-- SHA-256. -/
def sha256 (m : Bytes) : Bytes :=
  let pad := (119 - m.length % 64) % 64
  let p := m ++ 0x80#8 :: List.replicate pad 0 ++ beBytes 8 (8 * m.length)
  ((shaBlocks (p.length / 64) shaInit p).map (fun w => (wordBytes w).reverse)).flatten

/-- HMAC with SHA-256, for a key of at most 64 bytes. -/
def hmac256 (key m : Bytes) : Bytes :=
  let k := key ++ List.replicate (64 - key.length) 0
  sha256 (k.map (· ^^^ 0x5C#8) ++ sha256 (k.map (· ^^^ 0x36#8) ++ m))

/-! ### SLH-DSA with SHA-256 and n = 16 (FIPS 205) -/

/-- The parameters that a set fixes: height of a tree, layers, height and number of the FORS trees. -/
structure Slh where
  hp : Nat
  d : Nat
  a : Nat
  k : Nat

/-- SLH-DSA-SHA2-128s. -/
def slh128s : Slh := { hp := 9, d := 7, a := 12, k := 14 }

/-- A compressed address: layer, tree, type and three words. -/
def slhAdrs (layer tree typ x y z : Nat) : Bytes :=
  beBytes 1 layer ++ beBytes 8 tree ++ beBytes 1 typ ++ beBytes 4 x ++ beBytes 4 y ++ beBytes 4 z

/-- The tweakable hash of 16 bytes. -/
def slhT (pk adrs m : Bytes) : Bytes := (sha256 (pk ++ List.replicate 48 0 ++ adrs ++ m)).take 16

/-- A string cut into `n` numbers of `b` bits. -/
def slhBase (x : Bytes) (b n : Nat) : List Nat :=
  let v := leNat x.reverse
  (List.range n).map (fun i => v / 2 ^ (8 * x.length - b * (i + 1)) % 2 ^ b)

/-- Where a tree of the hypertree stands, and the keys. -/
structure SlhAt where
  sk : Bytes
  pk : Bytes
  layer : Nat
  tree : Nat

/-- `n` steps of a WOTS chain from step `i` on. -/
def slhChain (t : SlhAt) (kp c : Nat) : Nat → Nat → Bytes → Bytes
  | 0, _, x => x
  | n + 1, i, x => slhChain t kp c n (i + 1) (slhT t.pk (slhAdrs t.layer t.tree 0 kp c i) x)

/-- The secret of a WOTS chain. -/
def slhSecret (t : SlhAt) (kp c : Nat) : Bytes := slhT t.pk (slhAdrs t.layer t.tree 5 kp c 0) t.sk

/-- A WOTS public key. -/
def slhWotsPk (t : SlhAt) (kp : Nat) : Bytes :=
  slhT t.pk (slhAdrs t.layer t.tree 1 kp 0 0) ((List.range 35).map (fun c => slhChain t kp c 15 0 (slhSecret t kp c))).flatten

/-- The digits of a message with its checksum. -/
def slhDigits (m : Bytes) : List Nat :=
  let ds := slhBase m 4 32
  ds ++ slhBase (beBytes 2 (16 * (ds.map (15 - ·)).sum)) 4 3

/-- A WOTS signature. -/
def slhWots (t : SlhAt) (kp : Nat) (m : Bytes) : Bytes :=
  (((List.range 35).zip (slhDigits m)).map (fun x => slhChain t kp x.1 x.2 0 (slhSecret t kp x.1))).flatten

/-- A node of a tree of WOTS keys. -/
def slhNode (t : SlhAt) : Nat → Nat → Bytes
  | 0, i => slhWotsPk t i
  | z + 1, i => slhT t.pk (slhAdrs t.layer t.tree 2 0 (z + 1) i) (slhNode t z (2 * i) ++ slhNode t z (2 * i + 1))

/-- The sibling of node `i` at a height. -/
def slhSibling (i j : Nat) : Nat := if i / 2 ^ j % 2 = 0 then i / 2 ^ j + 1 else i / 2 ^ j - 1

/-- An XMSS signature. -/
def slhXmss (p : Slh) (t : SlhAt) (leaf : Nat) (m : Bytes) : Bytes :=
  slhWots t leaf m ++ ((List.range p.hp).map (fun j => slhNode t j (slhSibling leaf j))).flatten

/-- The hypertree's signature from a layer on. -/
def slhHyper (p : Slh) : Nat → SlhAt → Nat → Bytes → Bytes
  | 0, _, _, _ => []
  | n + 1, t, leaf, m =>
    slhXmss p t leaf m ++ slhHyper p n { t with layer := t.layer + 1, tree := t.tree / 2 ^ p.hp } (t.tree % 2 ^ p.hp)
      (if n = 0 then [] else slhNode t p.hp 0)

/-- The secret of a FORS leaf. -/
def slhForsSecret (t : SlhAt) (kp i : Nat) : Bytes := slhT t.pk (slhAdrs 0 t.tree 6 kp 0 i) t.sk

/-- A node of a FORS tree. -/
def slhForsNode (t : SlhAt) (kp : Nat) : Nat → Nat → Bytes
  | 0, i => slhT t.pk (slhAdrs 0 t.tree 3 kp 0 i) (slhForsSecret t kp i)
  | z + 1, i => slhT t.pk (slhAdrs 0 t.tree 3 kp (z + 1) i) (slhForsNode t kp z (2 * i) ++ slhForsNode t kp z (2 * i + 1))

/-- A FORS signature. -/
def slhFors (p : Slh) (t : SlhAt) (kp : Nat) (idx : List Nat) : Bytes :=
  (((List.range p.k).zip idx).map (fun x => slhForsSecret t kp (x.1 * 2 ^ p.a + x.2) ++
    ((List.range p.a).map (fun j => slhForsNode t kp j (x.1 * 2 ^ (p.a - j) + slhSibling x.2 j))).flatten)).flatten

/-- PK.root. -/
def slhRoot (p : Slh) (sk pk : Bytes) : Bytes := slhNode { sk, pk, layer := p.d - 1, tree := 0 } p.hp 0

/-- Bytes of the mask generation function. -/
def slhMgf (seed : Bytes) (n : Nat) : Bytes := (((List.range (n / 32 + 1)).map (fun i => sha256 (seed ++ beBytes 4 i))).flatten).take n

/-- A pure, deterministic signature with an empty context string. -/
def slhSign (p : Slh) (sk prf pk root msg : Bytes) : Bytes :=
  let m := 0 :: 0 :: msg
  let r := (hmac256 prf (pk ++ m)).take 16
  let h := p.hp * p.d
  let na := (p.k * p.a + 7) / 8
  let nb := (h - p.hp + 7) / 8
  let dg := slhMgf (r ++ pk ++ sha256 (r ++ pk ++ root ++ m)) (na + nb + (p.hp + 7) / 8)
  let tree := leNat ((dg.drop na).take nb).reverse % 2 ^ (h - p.hp)
  let leaf := leNat (dg.drop (na + nb)).reverse % 2 ^ p.hp
  let t : SlhAt := { sk, pk, layer := 0, tree }
  let roots := ((List.range p.k).map (fun i => slhForsNode t leaf p.a i)).flatten
  let key := slhT pk (slhAdrs 0 tree 4 leaf 0 0) roots
  r ++ slhFors p t leaf (slhBase (dg.take na) p.a p.k) ++ slhHyper p p.d t leaf key

end Sys2Proof.Machine
end

