-- ==== Sys2Proof/Machine/Start.lean ====
section
/-! DEFINITION. Starts: the discovery table, cold and warm starts, frame-lock acquisition, holdover and departure (R15, R17,
R29-R36, R459, R460, R468, R471-R473). -/

namespace Sys2Proof.Machine

/-! ### The discovery table (R31-R36) -/

/-- The record of a column (R36). -/
def State.columnRecord (s : State) (c : Nat) : Bytes :=
  let k := s.column c
  let hot := hotZone (c % 48)
  toBytes 2 c ++ toBytes 1 (lanternOf c) ++ toBytes 1 (c % 48 / 4) ++ wordBytes k.bankMask ++ toBytes 4 k.vcap ++ [2] ++
    toBytes 1 ((if hot then 1 else 0) + (if k.bankMask = designBanks c then 0 else 2)) ++ toBytes 2 0

/-- Vault bytes of a lantern. -/
def State.vaultBytes (s : State) (lan : Nat) : Nat := ((List.range 48).map (fun i => (s.column (columnOf lan i)).vcap)).sum

/-- The hot-zone columns of a lantern (R35). -/
def hotMask : Nat := ((List.range 48).map (fun c => if hotZone c then 2 ^ c else 0)).sum

/-- The record of a lantern (R35). -/
def State.lanternRecord (s : State) (lan : Nat) : Bytes :=
  toBytes 1 lan ++ [48, 12, 12] ++ toBytes 4 0x06000000 ++ toBytes 8 (s.vaultBytes lan) ++ toBytes 8 Config.gddrBytes ++
    toBytes 8 hotMask

/-- The header with a `CRC` field (R34). -/
def State.tableHeader (s : State) (crc : Word) : Bytes :=
  toBytes 4 0x3945574B ++ toBytes 2 1 ++ toBytes 2 0x0CC0 ++ [4, 48, 12, 8] ++ toBytes 2 1200 ++ toBytes 2 12 ++
    toBytes 8 (4 * Config.gddrBytes) ++ toBytes 8 ((List.range 4).map s.vaultBytes).sum ++ toBytes 8 0x18000000 ++
    toBytes 4 s.devid ++ [4, 48] ++ toBytes 2 0 ++ toBytes 4 0x40 ++ toBytes 4 0xC0 ++ wordBytes s.gen ++ wordBytes crc

/-- The discovery table (R33). -/
def State.discoveryTable (s : State) : Bytes :=
  let body := ((List.range 4).map s.lanternRecord).flatten ++ ((List.range Config.nColumns).map s.columnRecord).flatten
  s.tableHeader (crc32 (s.tableHeader 0 ++ body)) ++ body

/-! ### Responses (R462, R474) -/

/-- A response written, with results from byte 8 on: the mailbox is free, response ready, vector 0 raised. -/
def State.respond (s : State) (cmd : Bytes) (status : Nat) (results : Bytes) : State :=
  let r := cmd.take 2 ++ toBytes 2 status ++ (cmd.drop 4).take 4 ++ results
  { s with mbrsp := (r ++ List.replicate (256 - r.length) 0).take 256, mbst := s.mbst ||| 2 }.irq 0

/-! ### Starts (R471-R473) -/

/-- The machine as a start finds it: nothing but host memory, the mailbox and what outlives a start is kept (R472).  DEDUCED (log
entry 126): the module that has reported drained is released by the start that comes next, and its id is ABSENT until it trains
(R459). -/
def State.blank (s : State) : State :=
  { State.reset with
    agenda := s.agenda, fresh := s.fresh, issuer := s.issuer, nextTag := s.nextTag, gen := s.gen, keyed := s.keyed
    mem := { cells := s.mem.cells.filter (fun c => 2 ^ 58 ≤ c.1), poison := s.mem.poison.filter (fun k => 2 ^ 58 ≤ 32 * k) }
    mbcmd := s.mbcmd, mbrsp := s.mbrsp, mbst := s.mbst &&& 6, irqc := s.irqc, resetCmd := s.resetCmd
    switch := if s.switch = .drained || s.switch = .absent then .absent else .untrained }

/-- The banks of a column after self-test (R17, R471 step 3). -/
def goodBanks (r : StartReport) (col : Nat) : Word :=
  (List.range 32).foldl (fun (m : Word) b => if r.badBanks.contains (col, b) then m &&& ~~~(1#32 <<< b) else m) (designBanks col)

/-- Step 3 of a cold start: failing vault banks are retired. -/
def State.retireBanks (s : State) (r : StartReport) : State :=
  let s : State := { s with columns := (List.range Config.nColumns).map (fun c => { Column.reset c with bankMask := goodBanks r c }) }
  (r.badBanks.filter (fun b => b.1 < Config.nColumns && (designBanks b.1).getLsbD b.2)).foldl (fun s b => s.logOpen 5 b.1) s

/-- A start that halts at a step (R471). -/
def State.haltStart (s : State) (k : Nat) : State := { s with phase := .halted k }

/-- Steps 5 and 6 of a start: the fabric is trained, and frame-lock acquisition begins. -/
def State.trainFabric (s : State) (r : StartReport) : State :=
  let ports := (List.range Config.nPorts).map (fun p => { Port.reset with up := r.ports.contains p })
  if r.failStep = some 5 || ports.all (fun p => !p.up) then s.haltStart 5
  else { s with ports, devid := r.devid % 64, switch := .joining, phase := .starting 6, step6 := s.ftime }

/-- The steps of a cold start from step 3 on. -/
def State.coldFrom3 (s : State) (r : StartReport) : State :=
  match r.failStep with
  | some 3 => (s.retireBanks r).haltStart 3
  | some 4 => (s.retireBanks r).haltStart 4
  | _ => (s.retireBanks r).trainFabric r

/-- A cold start (R471). -/
def State.coldStart (s : State) (r : StartReport) : State :=
  let t := s.blank
  match r.failStep with
  | some 1 => t.haltStart 1
  | some 2 => { t with keyed := true }.haltStart 2
  | _ => { t with keyed := true }.coldFrom3 r

/-- A warm start (R472): bank retirement is kept, unless a verification fails and the start goes on as a cold one. -/
def State.warmStart (s : State) (r : StartReport) : State :=
  let t : State := { s.blank with columns := (List.range Config.nColumns).map (fun c =>
    { Column.reset c with bankMask := (s.column c).bankMask }) }
  match r.failStep with
  | some 1 => t.haltStart 1
  | some 2 => { t with keyed := true }.haltStart 2
  | _ => if r.verifyFails then { t with keyed := true, fallback := true }.coldFrom3 r else { t with keyed := true }.trainFabric r

/-- The end of a start (R471, R460): `GEN` rises, the discovery table is built, the mailbox is ready, and a RESET that the
start belongs to is answered. -/
def State.finishStart (s : State) : State :=
  let s : State := { s with phase := .ready, gen := s.gen + 1, switch := .joined }
  let s : State := { s with discovery := s.discoveryTable }
  match s.resetCmd with
  | some c => { s with resetCmd := none }.respond c 0 []
  | none => s

/-- COLD_START (R471): power-on, or a PCI Express fundamental reset. -/
def execColdStart (report : StartReport) (s : State) : Host.Outcome State Fault Refusal :=
  .next (({ s with mbcmd := List.replicate 256 0, mbrsp := List.replicate 256 0, mbst := 0, irqc := 0, resetCmd := none } : State).coldStart
    report)

/-- START_HOLDOVER (R471): no beacon within 10,000,000 ns of step 6. -/
def execStartHoldover (s : State) : Host.Outcome State Fault Refusal :=
  if s.phase ≠ .starting 6 || s.ftime.toNat < s.step6.toNat + 10000000 then .next s
  else .next ((({ s with holdover := true } : State).logEvent 3 0 1 (Config.unstated s.fresh)).draw.2).finishStart

/-- BEACON (R30, R468): the time base of the switch; the first one after a start or in holdover is an acquisition. -/
def execBeacon (port : Nat) (time : Dword) (s : State) : Host.Outcome State Fault Refusal :=
  if Config.nPorts ≤ port || !(s.port port).up then .next s
  else
    let left := s.holdover
    let t := s.lockTo time
    let t : State := { t with lastBeacon := t.ftime, acquired := true, holdover := false }
    let t := if left then (t.logEvent 3 0 0 (Config.unstated t.fresh)).draw.2 else t
    .next (if s.phase = .starting 6 then t.finishStart else t)

/-! ### Departure (R459) -/

/-- A context runs, or waits to run again. -/
def CtxPhase.runs : CtxPhase → Bool
  | .saved _ => false
  | .terminated => false
  | _ => true

/-- Every write of and to the module is acknowledged: those of its warps and engines, of the device and of ended contexts. -/
def State.quiet (s : State) : Bool :=
  s.groups.all (fun g => g.warps.all (fun w => w.unack = []) && g.ops.all (fun o => o.sent = [])) && s.owed = [] && s.peerParts = [] &&
    s.peerReqs.all (fun q => !(q.req.write || q.req.atom.isSome))

/-- DRAINED (R459): DEPART completes. -/
def execDrained (s : State) : Host.Outcome State Fault Refusal :=
  if s.switch ≠ .departing || s.contexts.any (fun c => c.phase.runs) || !s.quiet then .next s
  else
    let t : State := { s with switch := .drained }
    match s.serving with
    | some c => .next (if field c 0 2 = 0x50 then ({ t with serving := none, begun := false, mbst := t.mbst &&& 6 } : State).respond c 0 [] else t)
    | none => .next t

end Sys2Proof.Machine
end

