-- ==== Sys2Proof/Machine/Bar0.lean ====
section
/-! DEFINITION. The host interface BAR0: the mailbox, queue wakes and interrupt marks (R462, R463). -/

namespace Sys2Proof.Machine

/-- A write of 1 to the doorbell (R462): while busy it sets the overrun bit; else the firmware copies `MBCMD`. -/
def State.doorbell (s : State) (v : Word) : State :=
  if v ≠ 1 then s
  else if s.mbst.getLsbD 0 then { s with mbst := s.mbst ||| 4 }
  else { s with mbst := s.mbst ||| 1, serving := some s.mbcmd, begun := false }

/-- A queue wake (R463). -/
def State.wake (s : State) (header : Dword) : State :=
  if !s.queues.any (fun q => q.header = header) || s.wakes.contains header then s
  else if s.wakes.length < 256 then { s with wakes := s.wakes ++ [header] }
  else { s with wakeAll := true, wakeOver := true }

/-- A write of 1 to bits of `MBST` clears response ready and doorbell overrun (R462). -/
def State.clearMbst (s : State) (v : Word) : State := { s with mbst := s.mbst &&& ~~~(v &&& 6#32) }
/-- A write of 1 to `QWST` bit 0 clears the overflow (R462). -/
def State.clearQwst (s : State) (v : Word) : State := if v.getLsbD 0 then { s with wakeOver := false } else s
/-- A write of 1 to bits of `IRQC` clears their marks (R462). -/
def State.clearIrqc (s : State) (v : Word) : State := { s with irqc := s.irqc &&& ~~~v }

/-- A 4-byte write of a register of BAR0 (R462). -/
def State.bar0Word (s : State) (off : Nat) (v : Word) : State :=
  match off with
  | 0x200 => s.doorbell v
  | 0x204 => s.clearMbst v
  | 0x210 => s.clearQwst v
  | 0x214 => s.clearIrqc v
  | _ => s

/-- An access of the mailbox that R462 admits: aligned, of 4 or 8 bytes or more, a multiple of 4. -/
def mailboxAccess (off n : Nat) : Bool := off + n ≤ 0x200 && n ≠ 0 && n % 4 = 0 && off % (if n = 8 then 8 else 4) = 0

/-- A write to BAR0 (R462): accesses that its rules do not admit are completed without effect. -/
def State.bar0 (s : State) (off : Nat) (data : Bytes) : State :=
  let n := data.length
  if s.phase = .off then s
  else if mailboxAccess off n then
    { s with mbcmd := (List.range 256).map (fun i => if off ≤ i ∧ i < off + n then data.getD (i - off) 0 else s.mbcmd.getD i 0) }
  else if n = 4 && off % 4 = 0 then s.bar0Word off (fieldW data 0)
  else if n = 8 && off % 8 = 0 then
    (if off = 0x208 then s.wake (fieldD data 0) else (s.bar0Word off (fieldW data 0)).bar0Word (off + 4) (fieldW data 4))
  else s

/-- What the host reads at BAR0 (R462); a read changes nothing. -/
def State.bar0Read (s : State) (off n : Nat) : Bytes :=
  let image : Bytes := s.mbcmd ++ s.mbrsp ++ toBytes 4 0 ++ wordBytes s.mbst ++ toBytes 8 0 ++
    toBytes 4 (if s.wakeOver then 1 else 0) ++ wordBytes s.irqc
  let ok := mailboxAccess off n || ((n = 4 || n = 8) && off % n = 0)
  (List.range n).map (fun i => if ok then image.getD (off + i) 0 else 0)

/-- MBST_WRITE (R462). -/
def execMbstWrite (value : Word) (s : State) : Host.Outcome State Fault Refusal := .next (s.bar0 0x204 (wordBytes value))

/-- QWAKE (R462, R463). -/
def execQwake (value : Dword) (s : State) : Host.Outcome State Fault Refusal := .next (s.bar0 0x208 (dwordBytes value))

/-- QWST_WRITE (R462). -/
def execQwstWrite (value : Word) (s : State) : Host.Outcome State Fault Refusal := .next (s.bar0 0x210 (wordBytes value))

/-- IRQC_WRITE (R462). -/
def execIrqcWrite (value : Word) (s : State) : Host.Outcome State Fault Refusal := .next (s.bar0 0x214 (wordBytes value))

/-- BAR0_WRITE (R462): any other write. -/
def execBar0Write (offset : Nat) (data : Bytes) (s : State) : Host.Outcome State Fault Refusal := .next (s.bar0 offset data)

end Sys2Proof.Machine
end

