-- ==== Sys2Proof/Machine/BlockStore.lean ====
section
/-! DEFINITION. The block store: BSALLOC, BSFREE, BSSHARE, BSLOOK (R226, R259-R261), and the device's moves of blocks. -/

namespace Sys2Proof.Machine

/-- Bytes of a block (R259). -/
def blockBytes : Nat := 16384

/-- The key of a block's first byte. -/
def placeKey : BlockPlace → Nat
  | .vault col base => vaultKey col base
  | .gddr lan base => gddrKey lan base

/-- A place lies in a vault. -/
def inVault : BlockPlace → Bool
  | .vault .. => true
  | .gddr .. => false

/-- The places of the context's areas that hold no block (R259). -/
def Ctx.freePlaces (c : Ctx) : List BlockPlace := c.bsAreas.filter (fun p => !c.storages.any (fun b => b.place = p))

/-- The place that the device chooses for a new block (R259): the first free one of the vault area or of the pool, which
of the two is looked at first being a free value. -/
def Ctx.choosePlace (c : Ctx) (vaultFirst : Bool) : Option BlockPlace :=
  let fs := c.freePlaces
  match fs.find? (fun p => inVault p = vaultFirst) with
  | some p => some p
  | none => fs.head?

/-- A block table after a lane's step, with its status or the reason of block store (0x17). -/
structure BsStep where
  s : State
  ctx : Ctx
  out : List (Nat × List Word)
  bad : List Bad

/-- Block store (0x17) in a lane. -/
def BsStep.fail (b : BsStep) (l : Nat) (name : Word) (reason : Nat) : BsStep :=
  { b with bad := b.bad ++ [{ lane := l, addr := name.setWidth 64, code := 0x17, reason, d0 := 0 }] }

/-- BSALLOC in a lane (R259). -/
def bsAlloc (b : BsStep) (l : Nat) (name : Word) : BsStep :=
  let put (b : BsStep) (x : Word) : BsStep := { b with out := b.out ++ [(l, [x])] }
  if (b.ctx.block? name).isSome then put b 1
  else
    let (n, s) := b.s.draw
    match b.ctx.choosePlace (Config.blockPlace n) with
    | none => put b 2
    | some p =>
      let id := b.ctx.nextStorage
      put { b with
        s := { s with mem := s.mem.clear (placeKey p) blockBytes }
        ctx := { b.ctx with nextStorage := id + 1, names := b.ctx.names ++ [(name.toNat, id)]
                            storages := b.ctx.storages ++ [{ id, place := p, refs := 1 }] } } 0

/-- BSFREE in a lane (R259). -/
def bsFree (b : BsStep) (l : Nat) (name : Word) : BsStep :=
  match b.ctx.block? name with
  | none => b.fail l name 1
  | some k =>
    let names := b.ctx.names.filter (fun x => x.1 ≠ name.toNat)
    let storages := if k.refs ≤ 1 then b.ctx.storages.filter (fun x => x.id ≠ k.id)
      else b.ctx.storages.map (fun x => if x.id = k.id then { x with refs := x.refs - 1 } else x)
    { b with ctx := { b.ctx with names, storages } }

/-- BSSHARE in a lane (R259): the name `new` refers to the storage of `old`. -/
def bsShare (b : BsStep) (l : Nat) (old new : Word) : BsStep :=
  match b.ctx.block? old with
  | none => b.fail l old 1
  | some k =>
    if (b.ctx.block? new).isSome then b.fail l new 3
    else if 65535 ≤ k.refs then b.fail l old 4
    else { b with ctx := { b.ctx with
        names := b.ctx.names ++ [(new.toNat, k.id)]
        storages := b.ctx.storages.map (fun x => if x.id = k.id then { x with refs := x.refs + 1 } else x) } }

/-- The word of R260. -/
def Ctx.lookWord (c : Ctx) (name : Word) : Word :=
  match c.block? name with
  | none => 0
  | some k =>
    match k.place with
    | .vault col _ => BitVec.ofNat 32 (2 ^ 30 + col * 65536 + k.refs)
    | .gddr lan _ => BitVec.ofNat 32 (2 ^ 31 + lan * 65536 + k.refs)

/-- BSLOOK in a lane. -/
def bsLook (b : BsStep) (l : Nat) (name : Word) : BsStep := { b with out := b.out ++ [(l, [b.ctx.lookWord name])] }

/-- A block-store instruction (R247, R259): held by the scoreboard, its counter, a full operand log (R270) or, as a release, by
earlier accesses that have not performed; lanes in ascending order, helper lanes without effect. -/
def runBs (m : MFields) (ranges : List RegUse) (result : Bool) (uniform : Cx → Bool)
    (lane : Cx → BsStep → Nat → BsStep) (s : State) : Host.Outcome State Fault Refusal :=
  match cx s with
  | none => .next s
  | some c =>
    let counter := if result then 0 else 1
    if c.held ranges [] (some counter) || c.w.logFull || c.w.releaseHeld c.live then .next s
    else
      match c.regFault ranges with
      | some t => .next t
      | none =>
        let once := result && uniform c
        match c.badResult { regs := if result then [(m.d.toNat, if once then .u 0 else .g [])] else [], masks := [], flags := []
                            gens := [] } with
        | some r => .next (c.shape r)
        | none =>
          match c.s.ctx c.g.ctx with
          | none => .next s
          | some x =>
            let ls := (lanesOf c.live).filter (fun l => !c.w.help.getLsbD l)
            let ls := if once then ls.take 1 else ls
            let b := ls.foldl (lane c) { s := c.s, ctx := x, out := [], bad := [] }
            let out := b.out ++ (lanesOf (c.live &&& c.w.help)).map (fun l => (l, [0]))
            let regs := if result then c.filled m.d.toNat 1 once out else []
            let dests := c.dests { regs, masks := [], flags := [], gens := c.w.gens }
            let kind : FlightKind := if result then .result else .store 5
            let c : Cx := { c with s := b.s.setCtx b.ctx }
            if c.live = 0 then .next (c.endIdle regs m.y)
            else
            let c := c.launchFlight (some counter) dests [] kind none [] []
            .next ({ c with w := { c.w with causes := c.w.causes ++ badCause c b.bad } }.finish m.y)

def execBsalloc (m : MFields) (s : State) : Host.Outcome State Fault Refusal :=
  runBs m [(1, m.a.toNat, 1), (0, m.d.toNat, 1)] true (fun _ => false) (fun c b l => bsAlloc b l (c.w.rd m.a.toNat l)) s

def execBsfree (m : MFields) (s : State) : Host.Outcome State Fault Refusal :=
  runBs m [(1, m.a.toNat, 1)] false (fun _ => false) (fun c b l => bsFree b l (c.w.rd m.a.toNat l)) s

def execBsshare (m : MFields) (s : State) : Host.Outcome State Fault Refusal :=
  runBs m [(1, m.a.toNat, 1), (0, m.d.toNat, 1)] false (fun _ => false)
    (fun c b l => bsShare b l (c.w.rd m.a.toNat l) (c.w.rd m.d.toNat l)) s

/-- BSLOOK reports once where its source counts as U (R248).  DEDUCED (log entry 96): while a helper lane is live, to which R247
gives 0, it looks up for each lane and writes tag G even where its source is U. -/
def execBslook (m : MFields) (s : State) : Host.Outcome State Fault Refusal :=
  runBs m [(1, m.a.toNat, 1), (0, m.d.toNat, 1)] true (fun c => (c.w.reg m.a.toNat).tag = 0 && (c.live &&& c.w.help) = 0)
    (fun c b l => bsLook b l (c.w.rd m.a.toNat l)) s

/-- BLOCK_MOVE (R226): a block moves between the vault and the GDDR 7 pool in one step, to a free place of its
context's areas, its bytes and their poison with it. -/
def execBlockMove (ctx block : Nat) (dest : BlockPlace) (s : State) : Host.Outcome State Fault Refusal :=
  match s.ctx ctx with
  | none => .next s
  | some c =>
    match c.storages.find? (fun b => b.id = block) with
    | none => .next s
    | some b =>
      let lost (p : BlockPlace) : Bool := match p with
        | .vault col _ => (s.column col).vault ≠ .normal && (s.column col).vault ≠ .throttle
        | .gddr .. => false
      if !c.freePlaces.contains dest || inVault b.place = inVault dest || lost b.place || lost dest then .next s
      else
        let moved : Ctx := { c with storages := c.storages.map (fun x => if x.id = block then { x with place := dest } else x) }
        let s : State := { s with mem := s.mem.copyRange (placeKey b.place) (placeKey dest) blockBytes }
        .next (s.setCtx moved)

end Sys2Proof.Machine
end

