-- ==== Sys2Proof/Machine/Convert.lean ====
section
/-! DEFINITION. Conversions and block quantisation, opcodes 0x53 to 0x57 (R179-R186). -/

namespace Sys2Proof.Machine

/-- Source and destination formats of a CVT pair between floating formats (R179). -/
def cvtFmts (sub : Nat) : Option (Fmt × Fmt) :=
  match sub with
  | 0x00 => some (Fmt.f16, Fmt.f32)
  | 0x01 => some (Fmt.bf16, Fmt.f32)
  | 0x02 => some (Fmt.f32, Fmt.f16)
  | 0x03 => some (Fmt.f32, Fmt.bf16)
  | 0x08 => some (Fmt.f64, Fmt.f32)
  | 0x09 => some (Fmt.f64, Fmt.f16)
  | 0x0A => some (Fmt.f64, Fmt.bf16)
  | 0x0F => some (Fmt.bf16, Fmt.f16)
  | 0x10 => some (Fmt.f16, Fmt.bf16)
  | _ => none

/-- Width and signedness of the integer type of a CVT pair (R179). -/
def cvtInteger (sub : Nat) : Nat × Bool :=
  match sub with
  | 0x04 | 0x06 => (32, true)
  | 0x05 | 0x07 => (32, false)
  | 0x0B | 0x0D => (64, true)
  | _ => (64, false)

/-- The bounds of an integer type. -/
def intBounds (n : Nat) (signed : Bool) : Int × Int :=
  if signed then (-(2 ^ (n - 1) : Nat), (2 ^ (n - 1) : Nat) - 1) else (0, (2 ^ n : Nat) - 1)

/-- CVT of one value (R180): to FP32 in one rounding, to a narrower format in two (R135), to an integer by R137. -/
def cvtElem (sub : Nat) (abs neg : Bool) (mode : RMode) (sat : Bool) (a : Dword) (r : Nat) : Res :=
  match cvtFmts sub with
  | some (src, dst) =>
    let x := src.decode (src.modify abs neg (a.toNat % 2 ^ src.width))
    if dst = Fmt.f32 then dst.round mode sat x r else dst.narrow mode sat x r
  | none =>
    let (n, signed) := cvtInteger sub
    if cvtInt sub then
      Fmt.f32.round mode false (FVal.ofInt (intOf signed n (a.toNat % 2 ^ n))) r
    else
      let (lo, hi) := intBounds n signed
      let (x, fl, drew) := toInteger lo hi mode (Fmt.f32.decode (Fmt.f32.modify abs neg (a.toNat % 2 ^ 32))) r
      { code := (x % (2 ^ n : Nat)).toNat, flags := fl, drew }

def execCvt (v : VFields) (s : State) : Host.Outcome State Fault Refusal :=
  runLanes 0x53 v (fun c i gen =>
    let x := cvtElem v.sub.toNat (v.mod.getLsbD 1) (v.mod.getLsbD 3) c.mode c.sat i.a (drawOf gen)
    { val := BitVec.ofNat 64 x.code, bit := false, flags := x.flags, draws := if x.drew then 1 else 0 }) s

/-- Format, width and position of the results of CVTPK (R181). -/
def packForm (sub : Nat) : Fmt × Nat × Nat :=
  match sub with
  | 0 => (Fmt.f16, 16, 0)
  | 1 => (Fmt.bf16, 16, 0)
  | 2 => (Fmt.e4m3, 8, 0)
  | 3 => (Fmt.e4m3, 8, 16)
  | 4 => (Fmt.e5m2, 8, 0)
  | 5 => (Fmt.e5m2, 8, 16)
  | n => (Fmt.e2m1, 4, 8 * (n - 6))

def execCvtpk (v : VFields) (s : State) : Host.Outcome State Fault Refusal :=
  let (f, w, pos) := packForm v.sub.toNat
  runLanes 0x54 v (fun c i gen =>
    let src (e : Nat) : FVal := Fmt.f32.decode (if e = 0 then modA v Fmt.f32 i.a 0 else modB v Fmt.f32 i.b 0)
    let o := runElems w (fun e r => f.narrow c.mode c.sat (src e) r) [0, 1] gen (LOut.of 0)
    let keep : Dword := BitVec.ofNat 64 (2 ^ 32 - 1 - (2 ^ (2 * w) - 1) * 2 ^ pos)
    { o with val := (i.d &&& keep) ||| (o.val <<< pos) }) s

/-- Format and bit position of the element of CVTUP (R182). -/
def upForm (sub : Nat) : Fmt × Nat :=
  if sub < 2 then (Fmt.f16, 16 * sub)
  else if sub < 4 then (Fmt.bf16, 16 * (sub - 2))
  else if sub < 8 then (Fmt.e4m3, 8 * (sub - 4))
  else if sub < 12 then (Fmt.e5m2, 8 * (sub - 8))
  else (Fmt.e2m1, 4 * (sub - 12))

def execCvtup (v : VFields) (s : State) : Host.Outcome State Fault Refusal :=
  let (f, pos) := upForm v.sub.toNat
  runLanes 0x55 v (fun _ i _ =>
    let x := f.modify (v.mod.getLsbD 1) (v.mod.getLsbD 3) (i.a.toNat / 2 ^ pos % 2 ^ f.width)
    LOut.of (BitVec.ofNat 64 (Fmt.f32.round 1 false (f.decode x) 0).code)) s

/-- The slot that QBLK and DQBLK name with its elements per lane, or the reason of 0x23 (R124, R183). -/
def blockSlot (w : Dword) (width : Nat) : Except Nat (FSlot × Nat) :=
  match slotFormatReason w with
  | some r => .error r
  | none =>
    let f := FSlot.ofWord w
    let n := f.blockSize
    let e := n / width
    if f.etype < 3 || 6 < f.etype || f.blk = 0 || f.vq || n < width || 32 < e * etypeBits f.etype then .error 4
    else .ok (f, e)

/-- The rounding mode of a conversion through a slot (R126). -/
def Cx.slotMode (c : Cx) (f : FSlot) : RMode :=
  match c.pfx with
  | some p => if p.rnd ≠ 0 then p.rnd.toNat else if f.rnd ≠ 0 then f.rnd else c.w.ctl.toNat % 8
  | none => if f.rnd ≠ 0 then f.rnd else c.w.ctl.toNat % 8

/-- A block instruction: its slot and its registers beyond the fields are checked, then `sem` gives its results. -/
def runBlock (op : Nat) (v : VFields) (srcs dsts : Nat → Nat) (sem : Cx → VDesc → FSlot → Nat → Results) (s : State) :
    Host.Outcome State Fault Refusal :=
  runV op v [] (fun _ => []) (fun c d =>
    let k := v.sub.toNat % 8
    match blockSlot (recFS c.g.record k) c.w.width with
    | .error r => .error (c.raise 0x23 r c.live 0 [BitVec.ofNat 32 k])
    | .ok (f, e) =>
      let us : List RegUse := [(0, v.d.toNat, dsts e), (1, v.a.toNat, srcs e)]
      if c.w.busy us [] then .error c.s
      else
        match c.regFault us with
        | some t => .error t
        | none => .ok (sem c d f e)) s

/-- Elements that a lane encodes, in ascending order, each with the next draw: the codes, flags and draws. -/
def encodeLane (width : Nat) (g : Nat → Nat → Res) (e : Nat) (gen : Word) : LOut :=
  runElems width g (List.range e) gen (LOut.of 0)

def execQblk (v : VFields) (s : State) : Host.Outcome State Fault Refusal :=
  runBlock 0x56 v (fun e => e) (fun _ => 2) (fun c _ f e =>
    let fmt := (elemFmt f.etype).getD Fmt.e2m1
    let cw := etypeBits f.etype
    let w := c.w.width
    let mode := c.slotMode f
    let sat := c.sat || f.sat
    let src (l j : Nat) : FVal :=
      if c.live.getLsbD l then Fmt.f32.decode (modA v Fmt.f32 ((c.w.rd (v.a.toNat + j) l).setWidth 64) 0)
      else .fin false 0 0
    let block (b : Nat) : List FVal :=
      ((List.range w).map (fun k => (List.range e).map (src (b * w + k)))).flatten
    let scales : List (Nat × Nat) := (List.range (32 / w)).map (fun b =>
      let xs := block b
      let sc := blockScale fmt xs
      (sc, blockNine f.nine sc xs))
    let outs : List LOut := (List.range 32).map (fun l =>
      if c.live.getLsbD l then
        let sc := scales.getD (l / w) (127, 0)
        encodeLane cw (fun j r => encodeElem fmt f.nine mode sat sc.1 sc.2 (src l j) r) e (c.w.gens.getD l 0)
      else LOut.of 0)
    let out (l : Nat) : LOut := outs.getD l (LOut.of 0)
    { regs := [(v.d.toNat, mkReg 2 0 (fun l => (out l).val.setWidth 32)),
        (v.d.toNat + 1, mkReg 2 0 (fun l =>
          let sc := scales.getD (l / w) (127, 0)
          BitVec.ofNat 32 (sc.1 + 256 * sc.2)))]
      masks := []
      flags := (List.range 32).map (fun l => if v.q then 0 else (out l).flags)
      gens := (List.range 32).map (fun l => advanceGen (out l).draws (c.w.gens.getD l 0)) }) s

/-- The words that DQBLK gives in a lane, ascending, with flags and draws (R185). -/
def decodeLane (g : Nat → Nat → Res) : List Nat → Word → List Word × Flags × Nat
  | [], _ => ([], 0, 0)
  | j :: t, gen =>
    let x := g j (drawOf gen)
    let (ws, fl, n) := decodeLane g t (if x.drew then nextGen gen else gen)
    (BitVec.ofNat 32 x.code :: ws, x.flags ||| fl, n + if x.drew then 1 else 0)

/-- DQBLK (R185), in the mode and with the saturation of its prefix, since a slot's `RND` and `SAT` are for narrowing (R123,
R126).  DESIGN CHOICE (log entry 92): R89 admits a `MOD` that is not 0 and R185 gives it no effect; it has none. -/
def execDqblk (v : VFields) (s : State) : Host.Outcome State Fault Refusal :=
  runBlock 0x57 v (fun _ => 1) (fun e => e) (fun c d f e =>
    let fmt := (elemFmt f.etype).getD Fmt.e2m1
    let cw := etypeBits f.etype
    let tag := c.ruleTag 0x57 v d
    let fst := lowest c.live
    let gen (l : Nat) : Word := c.w.gens.getD l 0
    let eval (l : Nat) (g : Word) : List Word × Flags × Nat :=
      let i := c.sources 0x57 v d l
      let rec' := i.b.toNat
      decodeLane (fun j r => Fmt.f32.round c.mode c.sat
        (blockValue fmt (rec' % 256) (if f.nine then rec' / 256 % 16 else 0) (i.a.toNat / 2 ^ (cw * j) % 2 ^ cw)) r)
        (List.range e) g
    let outs : List (List Word × Flags × Nat) := (List.range 32).map (fun l =>
      if tag = 0 then (if l = fst then eval l (gen (lowest c.run.lanes)) else ([], 0, 0))
      else if c.live.getLsbD l then eval l (gen l) else ([], 0, 0))
    let out (l : Nat) : List Word × Flags × Nat := outs.getD (if tag = 0 then fst else l) ([], 0, 0)
    { regs := (List.range e).map (fun j => (v.d.toNat + j, mkReg tag fst (fun l => (out l).1.getD j 0)))
      masks := []
      flags := (List.range 32).map (fun l => if c.live.getLsbD l && !v.q then (out l).2.1 else 0)
      gens := (List.range 32).map (fun l =>
        if tag = 0 then (if c.run.lanes.getLsbD l then advanceGen (out fst).2.2 (gen l) else gen l)
        else if c.live.getLsbD l then advanceGen (out l).2.2 (gen l) else gen l) }) s

end Sys2Proof.Machine
end

