-- ==== Sys2Proof/Machine/Lane.lean ====
section
/-! DEFINITION. Lane instructions, opcodes 0x80 to 0x8A (R196-R204). -/

namespace Sys2Proof.Machine

/-- The first lane of a lane's bundle (R196). -/
def Cx.base (c : Cx) (l : Nat) : Nat := l / c.w.width * c.w.width

/-- The active lanes of a lane's bundle, ascending. -/
def Cx.active (c : Cx) (l : Nat) : List Nat := (lanesOf c.live).filter (fun k => c.base k = c.base l)

/-- Source A of a lane, whatever its state. -/
def Cx.laneA (c : Cx) (v : VFields) (d : VDesc) (l : Nat) : Dword := c.w.operand d.a v.a.toNat l

/-- The results of a lane instruction: D with its stated tag, G under a prefix mask (R197), and mask bits. -/
def Cx.laneResults (c : Cx) (v : VFields) (d : VDesc) (tag : Nat) (val : Nat → Dword) : Results :=
  let t := if c.masked then 2 else tag
  let fst := lowest c.live
  let lo (l : Nat) : Word := (val l).setWidth 32
  let hi (l : Nat) : Word := (val l >>> 32).setWidth 32
  { regs := if d.d = .pair then [(v.d.toNat, mkReg t fst lo), (v.d.toNat + 1, mkReg t fst hi)]
      else [(v.d.toNat, mkReg t fst lo)]
    masks := [], flags := List.replicate 32 0, gens := c.w.gens }

/-- A mask destination of a lane instruction (R147). -/
def Cx.laneMask (c : Cx) (m : Nat) (bit : Nat → Bool) : Results :=
  { regs := [], masks := [(m, c.live ||| c.zeroed, maskOf (fun l => c.live.getLsbD l && bit l))]
    flags := List.replicate 32 0, gens := c.w.gens }

/-- The tag of a source A: U only if each register of it is. -/
def Cx.tagA (c : Cx) (v : VFields) (d : VDesc) : Nat := c.w.tagOperand d.a v.a.toNat

/-- The lane that SHFL reads (R198). -/
def Cx.shflSource (c : Cx) (v : VFields) (l : Nat) : Nat :=
  let w := c.w.width
  let k := l - c.base l
  let b := (c.srcB 0x80 v false l).toNat % 2 ^ 32
  let j := match v.sub.toNat % 4 with
    | 0 => b
    | 1 => k + b
    | 2 => (w - 1 - k) ^^^ b
    | _ => k ^^^ b
  c.base l + j % w

def execShfl (v : VFields) (s : State) : Host.Outcome State Fault Refusal :=
  runV 0x80 v [] (fun _ => []) (fun c d =>
    let ok (l : Nat) : Bool := c.live.getLsbD (c.shflSource v l)
    let r := c.laneResults v d (if c.tagA v d = 0 then 0 else 2)
      (fun l => c.laneA v d (if ok l then c.shflSource v l else l))
    let m := v.sub.toNat / 4
    .ok (if m = 0 then r else { r with masks := (c.laneMask m ok).masks })) s

def execRdfirst (v : VFields) (s : State) : Host.Outcome State Fault Refusal :=
  runV 0x81 v [] (fun _ => []) (fun c d =>
    .ok (c.laneResults v d 0 (fun _ => c.laneA v d (lowest c.live)))) s

/-- The lane number of RDLANE and WRLANE within a bundle. -/
def Cx.laneNumber (c : Cx) (op : Nat) (v : VFields) : Nat :=
  (c.srcB op v false (lowest c.live)).toNat % 2 ^ 32 % c.w.width

def execRdlane (v : VFields) (s : State) : Host.Outcome State Fault Refusal :=
  runV 0x82 v [] (fun _ => []) (fun c d =>
    if c.tagB v false ≠ 0 then .error (c.shape v.b.toNat)
    else
      let n := c.laneNumber 0x82 v
      .ok (c.laneResults v d (if c.w.width = 32 then 0 else 2) (fun l => c.laneA v d (c.base l + n)))) s

def execWrlane (v : VFields) (s : State) : Host.Outcome State Fault Refusal :=
  runV 0x83 v [] (fun _ => []) (fun c d =>
    if c.tagB v false ≠ 0 then .error (c.shape v.b.toNat)
    else
      let n := c.laneNumber 0x83 v
      .ok (c.laneResults v d 2 (fun l =>
        if l = c.base l + n then c.laneA v d ((c.active l).headD l) else c.w.operand d.d v.d.toNat l))) s

/-- The predicate of VOTE in a lane (R200). -/
def Cx.votes (c : Cx) (v : VFields) (l : Nat) : Bool :=
  if 8 ≤ v.sub.toNat then (c.w.mask v.a.toNat).getLsbD l else c.w.rd v.a.toNat l ≠ 0

def execVote (v : VFields) (s : State) : Host.Outcome State Fault Refusal :=
  runV 0x84 v [] (fun _ => []) (fun c d =>
    let p (l : Nat) : List Nat := (c.active l).filter (c.votes v)
    let same (l : Nat) : Bool :=
      if 8 ≤ v.sub.toNat then (c.active l).all (fun k => c.votes v k = c.votes v l)
      else (c.active l).all (fun k => c.w.rd v.a.toNat k = c.w.rd v.a.toNat l)
    let tag := if c.w.width = 32 then 0 else 2
    let num (f : Nat → Nat) : Results := c.laneResults v d tag (fun l => BitVec.ofNat 64 (f l))
    .ok (match v.sub.toNat % 8 with
      | 0 => c.laneMask v.d.toNat (fun l => p l ≠ [])
      | 1 => c.laneMask v.d.toNat (fun l => p l = c.active l)
      | 2 => c.laneMask v.d.toNat (fun l => p l = [])
      | 3 => c.laneMask v.d.toNat same
      | 4 => num (fun l => (maskOf (fun k => (p l).contains k)).toNat)
      | 5 => num (fun l => (p l).length)
      | _ => num (fun l => match p l with | [] => c.w.width | k :: _ => k - c.base l))) s

def execMatchKey (v : VFields) (s : State) : Host.Outcome State Fault Refusal :=
  runV 0x85 v [] (fun _ => []) (fun c d =>
    .ok (c.laneResults v d 2 (fun l =>
      (maskOf (fun k => (c.active l).contains k && c.laneA v d k = c.laneA v d l)).setWidth 64))) s

/-- COMPACT (R202): the packed values stand in the first lanes whatever their state; the count goes to every lane.  DESIGN CHOICE
(log entry 95): with `.b64` and C the second register of D's pair, which R202 does not refuse, the count is written last. -/
def execCompact (v : VFields) (s : State) : Host.Outcome State Fault Refusal :=
  runVAll 0x86 v [(3, v.c.toNat, 1)] (fun c d =>
    let ps := lanesOf c.live
    let n := ps.length
    let mz : Bool := match c.pfx with | some p => p.mz | none => false
    let val (l : Nat) : Dword :=
      if l < n then c.laneA v d (ps.getD l 0)
      else if mz && c.w.live.getLsbD l then 0
      else c.w.operand d.d v.d.toNat l
    let r := c.laneResults v d 2 val
    let cnt := BitVec.ofNat 32 n
    .ok { r with
      regs := []
      whole := r.regs ++ [(v.c.toNat, if c.masked then mkReg 2 0 (fun _ => cnt) else .u cnt)] }) s

def execExpand (v : VFields) (s : State) : Host.Outcome State Fault Refusal :=
  runVAll 0x87 v [] (fun c d =>
    let ps := lanesOf c.live
    .ok (c.laneResults v d 2 (fun l => c.laneA v d ((ps.takeWhile (· < l)).length)))) s

/-- One step of a fold of R203 on `n`-bit patterns. -/
def foldStep (op n : Nat) (a b : Dword) : Dword :=
  let sa := intOf true n a.toNat
  let sb := intOf true n b.toNat
  match op with
  | 0 => pack n [intOf false n a.toNat + intOf false n b.toNat]
  | 1 => if sb < sa then b else a
  | 2 => if b.toNat < a.toNat then b else a
  | 3 => if sa < sb then b else a
  | 4 => if a.toNat < b.toNat then b else a
  | 5 => a &&& b
  | 6 => a ||| b
  | 7 => a ^^^ b
  | _ => (addF32 (a.setWidth 32) (b.setWidth 32)).setWidth 64

/-- The identity of a fold (R203). -/
def foldIdentity (op n : Nat) : Dword :=
  match op with
  | 1 => BitVec.ofNat 64 (2 ^ (n - 1) - 1)
  | 2 => BitVec.ofNat 64 (2 ^ n - 1)
  | 3 => BitVec.ofNat 64 (2 ^ (n - 1))
  | 5 => BitVec.ofNat 64 (2 ^ n - 1)
  | _ => 0

/-- The fold of a list of values, in order; a NaN of `.fadd` is canonical (R112, R203). -/
def foldAll (op n : Nat) : List Dword → Dword
  | [] => foldIdentity op n
  | x :: t =>
    let first : Dword := if op = 8 && f32 (x.setWidth 32) = .nan then 0x7FC00000#64 else x
    t.foldl (foldStep op n) first

def execReduce (v : VFields) (s : State) : Host.Outcome State Fault Refusal :=
  runV 0x88 v [] (fun _ => []) (fun c d =>
    let n := if v.ty = 6 then 64 else 32
    .ok (c.laneResults v d (if c.w.width = 32 then 0 else 2) (fun l =>
      foldAll v.sub.toNat n ((c.active l).map (c.laneA v d))))) s

def execScan (v : VFields) (s : State) : Host.Outcome State Fault Refusal :=
  runV 0x89 v [] (fun _ => []) (fun c d =>
    let n := if v.ty = 6 then 64 else 32
    let excl : Bool := 16 ≤ v.sub.toNat
    .ok (c.laneResults v d 2 (fun l =>
      foldAll (v.sub.toNat % 16) n (((c.active l).filter (fun k => if excl then k < l else k ≤ l)).map (c.laneA v d))))) s

/-- The number by which SORTK orders a key (R204). -/
def sortRank (kind : Nat) (k : Word) : Nat :=
  match kind with
  | 0 => k.toNat
  | 1 => (k ^^^ 0x80000000#32).toNat
  | _ => if k.getLsbD 31 then (~~~k).toNat else (k ^^^ 0x80000000#32).toNat

/-- A pair put into a sorted list behind every pair that it does not precede. -/
def insertPair (before : Word → Word → Bool) (x : Word × Word) : List (Word × Word) → List (Word × Word)
  | [] => [x]
  | y :: t => if before x.1 y.1 then x :: y :: t else y :: insertPair before x t

/-- Stable sort of pairs (R204). -/
def sortPairs (before : Word → Word → Bool) (l : List (Word × Word)) : List (Word × Word) :=
  l.foldl (fun acc x => insertPair before x acc) []

def execSortk (v : VFields) (s : State) : Host.Outcome State Fault Refusal :=
  runV 0x8A v [] (fun _ => []) (fun c d =>
    let kind := v.sub.toNat % 4
    let before (a b : Word) : Bool :=
      if v.sub.getLsbD 2 then sortRank kind b < sortRank kind a else sortRank kind a < sortRank kind b
    let sorted (l : Nat) : List (Word × Word) :=
      sortPairs before ((c.active l).map (fun k => (c.w.rd v.a.toNat k, c.w.rd v.b.toNat k)))
    let pick (l : Nat) : Word × Word := (sorted l).getD ((c.active l).takeWhile (· < l)).length (0, 0)
    let r := c.laneResults v d 2 (fun l => (pick l).1.setWidth 64)
    .ok { r with regs := r.regs ++ [(v.c.toNat, mkReg 2 0 (fun l => (pick l).2))] }) s

end Sys2Proof.Machine
end

