-- ==== Sys2Proof/Machine/Launch.lean ====
section
/-! DEFINITION. Launch records and node tables: their checks, and the commands LAUNCH and NODES (R61, R332-R333, R434-R445). -/

namespace Sys2Proof.Machine

/-! ### What a launch needs of a core (R51, R276) -/

/-- Register words of one warp (R51). -/
def warpWords (ng nu : Nat) : Nat := 256 * ((ng + 7) / 8) + 2 * nu

/-- Warps of a record that one empty partition holds (R51, R276). -/
def partWarps (r : Bytes) : Nat :=
  let byRegs := min Config.nSlots (Config.regWords / warpWords (recNG r) (recNU r))
  if recAcc r = 0 then byRegs else min byRegs (8 / recAcc r)

/-- Groups of a record that one empty core holds. -/
def coreGroups (r : Bytes) : Nat :=
  let n := min Config.maxGroups (8 * partWarps r / recW r)
  if recScr r = 0 then n else min n (Config.scratchBytes / recScr r)

/-! ### Taper bindings (R332) -/

/-- Binding n of a record with its binding block behind it. -/
def recBinding (r : Bytes) (n : Nat) : Bytes := (r.drop (256 + 32 * n)).take 32

def bindSrc (b : Bytes) : Dword := fieldD b 0x00
def bindAux (b : Bytes) : Dword := fieldD b 0x08
def bindDoff (b : Bytes) : Nat := field b 0x10 4
def bindRows (b : Bytes) : Nat := field b 0x14 2
def bindCols (b : Bytes) : Nat := field b 0x16 2
def bindSrstr (b : Bytes) : Nat := field b 0x18 4
def bindXf (b : Bytes) : Nat := field b 0x1C 4 % 8
def bindSfs (b : Bytes) : Nat := field b 0x1C 4 / 8 % 8
def bindDfs (b : Bytes) : Nat := field b 0x1C 4 / 64 % 8
def bindSsp (b : Bytes) : Nat := field b 0x1C 4 / 512 % 8

/-- Elements of a codebook entry and their format (R123). -/
def entryShape (vshp : Nat) : Nat × Nat × Fmt :=
  match vshp with
  | 0 => (1, 32, Fmt.f32)
  | 1 => (2, 32, Fmt.f32)
  | _ => match vqFormat vshp with
    | some (w, f) => (64 / w, w, f)
    | none => (1, 32, Fmt.f32)

/-- Rows and elements of each that a binding writes (R332): a transpose exchanges them, an expansion widens rows. -/
def bindShape (r b : Bytes) : Nat × Nat :=
  let sfs := FSlot.ofWord (recFS r (bindSfs b))
  match bindXf b with
  | 2 => (bindCols b, bindRows b)
  | 4 => (bindRows b, bindCols b * (entryShape sfs.vshp).1)
  | _ => (bindRows b, bindCols b)

/-- Bytes of a row as it is written, and with its padding to 16 bytes (R332). -/
def bindRowBytes (r b : Bytes) : Nat := ((bindShape r b).2 * etypeBits (FSlot.ofWord (recFS r (bindDfs b))).etype + 7) / 8
def bindPitch (r b : Bytes) : Nat := (bindRowBytes r b + 15) / 16 * 16

/-- Bytes that a binding fills. -/
def bindBytes (r b : Bytes) : Nat := (bindShape r b).1 * bindPitch r b

/-- A binding breaks R332 or R124; none of its slots rounds stochastically (R303). -/
def bindBad (r b : Bytes) : Bool :=
  let xf := bindXf b
  let sw := recFS r (bindSfs b)
  let dw := recFS r (bindDfs b)
  let sfs := FSlot.ofWord sw
  let dfs := FSlot.ofWord dw
  let plain (f : FSlot) : Bool := f.blk = 0 && !f.vq
  if xf = 0 then !zeroField b 0 32
  else
    5 < xf || 2 ^ 12 ≤ field b 0x1C 4 || 3 < bindSsp b || bindDoff b % 128 ≠ 0 || bindRows b = 0 || bindCols b = 0 ||
      (slotFormatReason dw).isSome || dfs.rnd = 6 || dfs.vq || (xf = 3 && dfs.blk ≠ 0) || (xf = 5 && bindSrc b ≠ 0) || (xf ≠ 3 && bindAux b ≠ 0) ||
      (xf = 3 && (bindAux b = 0 || (bindAux b).toNat % 16 ≠ 0)) ||
      (xf ≠ 5 && ((slotFormatReason sw).isSome || sfs.rnd = 6 ||
        (match xf with | 3 => sfs.blk = 0 | 4 => !sfs.vq | _ => !plain sfs))) ||
      recScr r < bindDoff b + bindBytes r b

/-- The bindings of a record that are in use. -/
def recBindings (r : Bytes) : List Nat := (List.range 8).filter (fun n => bindXf (recBinding r n) ≠ 0)

/-- The bindings of a record break R333. -/
def bindingsBad (r : Bytes) : Bool :=
  let at' (n : Nat) : Nat × Nat := (bindDoff (recBinding r n), bindBytes r (recBinding r n))
  (List.range 8).any (fun n => bindBad r (recBinding r n)) ||
    (recBindings r).any (fun n => (recBindings r).any (fun m =>
      n < m && (at' n).1 < (at' m).1 + (at' m).2 && (at' m).1 < (at' n).1 + (at' n).2))

/-! ### The checks of R436 -/

/-- A range of an exponent field: 0, or between two bounds. -/
def expIn (x lo hi : Nat) : Bool := x = 0 || (lo ≤ x && x ≤ hi)

/-- A record breaks what bad-record covers in itself (R434, R71, R436). -/
def recordBad (r : Bytes) (grid : Bool) : Bool :=
  let ng := recNG r
  let nu := recNU r
  let mask := field r 0xA0 1
  !localAt (recEntry r) 8 || (grid && recGrid r = 0) || ng = 0 || 256 < ng || 256 < ng + nu || (nu ≠ 0 && ng % 8 ≠ 0) ||
    recW r = 0 || 32 < recW r || recScr r % 128 ≠ 0 || Config.scratchBytes < recScr r || 8 < recAcc r ||
    !expIn (field r 0x15 1) 6 16 || !expIn (field r 0x16 1) 20 30 || 8 ≤ field r 0x17 1 || field r 0x1C 4 % 4 ≠ 0 ||
    0xFF00 < field r 0x1C 4 || (fieldD r 0x80).toNat % 16 ≠ 0 || (field r 0x1C 4 = 0 && fieldD r 0x80 ≠ 0) ||
    (fieldD r 0x90).toNat % 64 ≠ 0 || (fieldD r 0x98).toNat % 64 ≠ 0 || (mask = 0 && fieldD r 0x98 ≠ 0) ||
    (mask ≠ 0 && (!recCB r || fieldD r 0x98 = 0)) || !zeroField r 0xA1 7 || !zeroField r 0xB0 80 ||
    partWarps r < (recW r + 7) / 8

/-- `CBPRE` and `CBMASK` (R434). -/
def recCbpre (r : Bytes) : Dword := fieldD r 0x98
def recCbmask (r : Bytes) : Nat := field r 0xA0 1

/-- The banks that a record preloads. -/
def recPreloads (r : Bytes) : List Nat := (List.range 8).filter (fun b => recCbmask r / 2 ^ b % 2 = 1)

/-- R54 or the group count breaks (R436). -/
def levelsBad (r : Bytes) : Bool :=
  let n := recLevels r
  let w := 32 * recW r
  let lv (i : Nat) : Word := recLvl r i
  let fits (dom groups : Nat) : Bool :=
    groups ≤ coreGroups r * (match dom with | 3 => 4 | 4 => Config.nLocal | _ => Config.nColumns)
  n = 0 || (List.range 8).any (fun i => if i < n then !lvlV (lv i) else lv i ≠ 0) ||
    (List.range n).any (fun i =>
      let d := lvlDom (lv i)
      let t := recT r i
      6 ≤ d || lvlSco (lv i) = 7 || (i + 1 < n && (lvlDom (lv (i + 1)) < d || lvlSco (lv (i + 1)) < lvlSco (lv i))) ||
        lvlSco (lv i) < max d 1 ||
        (match d with
          | 0 => !(t = 2 || t = 4 || t = 8 || t = 16 || t = 32)
          | 1 => 32 % t ≠ 0
          | 2 => w % t ≠ 0
          | _ => t % w ≠ 0) ||
        (lvlCo (lv i) && (d < 3 || !fits d ((t + w - 1) / w)))) ||
    2 ^ 32 ≤ (recGrid r * recT r (n - 1) + w - 1) / w

/-- Groups of a launch (R55). -/
def recGroups (r : Bytes) : Nat := (recGrid r * recT r (recLevels r - 1) + 32 * recW r - 1) / (32 * recW r)

/-- A position launch breaks R366. -/
def positionBad (c : Ctx) (r : Bytes) : Bool :=
  recPass r ≠ 0 && (recScr r < recW r * 4160 ||
    (match c.pass with
      | some p => p.addr ≠ recPass r || p.closing ≠ []
      | none => true))

/-- Some reads of a context's structures, one after another (R486). -/
def State.devReads (s : State) (ctx : Nat) : List (Dword × Nat) → Dev (List Bytes)
  | [] => .ok []
  | (va, n) :: t =>
    match s.devRead ctx 0xFFFF va n with
    | .ok b =>
      match s.devReads ctx t with
      | .ok bs => .ok (b :: bs)
      | r => r
    | .wait u => .wait u
    | .fail u c a => .fail u c a

/-- What the reading of a record comes to: the record with its binding block behind it and its argument block; it waits; it
is refused with a status and a cause. -/
inductive RecordOut where
  | ok (s : State) (record args : Bytes)
  | wait (s : State)
  | bad (s : State) (status cause : Nat)

/-- A record that has been read extends the measurement of its context (R484). -/
def State.measure (s : State) (ctx : Nat) (r : Bytes) : State :=
  s.updCtx ctx (fun c => { c with meas := sha256 (c.meas ++ r), nmeas := c.nmeas + 1 })

/-- The measurement as it stood in a context, for a command that waits and begins again. -/
def State.unmeasure (s : State) (c : Ctx) : State := s.updCtx c.id (fun x => { x with meas := c.meas, nmeas := c.nmeas })

/-- A launch record read and checked (R434-R437); a node's record without the checks on `GRID` and `LVL` (R445). -/
def State.readRecord (s : State) (c : Ctx) (va : Dword) (node : Bool) : RecordOut :=
  match s.devRead c.id 0xFFFF va 256 with
  | .wait u => .wait u
  | .fail u k _ => .bad u 4 k
  | .ok r =>
    let s := (s.accessed c.id va 256).measure c.id r
    if recordBad r (!node) then .bad s 4 0
    else
      let banks := recPreloads r
      let parts := (fieldD r 0x80, field r 0x1C 4) :: (fieldD r 0x90, if fieldD r 0x90 = 0 then 0 else 256) ::
        banks.map (fun b => (recCbpre r + BitVec.ofNat 64 (8 * b), 8))
      match s.devReads c.id parts with
      | .wait u => .wait u
      | .fail u k _ => .bad u 4 k
      | .ok bs =>
        let args := bs.getD 0 []
        let full := r ++ (if fieldD r 0x90 = 0 then List.replicate 256 0 else bs.getD 1 [])
        let images := (bs.drop 2).map (fun b => fieldD b 0)
        let s := (parts ++ images.map (fun a => (a, 16))).foldl (fun (s : State) (p : Dword × Nat) => s.accessed c.id p.1 p.2) s
        match s.devReads c.id (images.map (fun a => (a, 16))) with
        | .wait u => .wait u
        | .fail u k _ => .bad u 4 k
        | .ok hs =>
          if images.any (fun a => a.toNat % 16 ≠ 0) || hs.any (fun h => (imageReason h).isSome) then .bad s 4 0
          else if !node && levelsBad r then .bad s 1 0
          else if bindingsBad full then .bad s 2 0
          else if positionBad c r then .bad s 3 0
          else .ok s full args

/-! ### LAUNCH and NODES (R443-R445) -/

/-- LAUNCH (R436, R437, R443, R444): its groups are claimable from its start on. -/
def execLaunch (queue : Nat) (s : State) : Host.Outcome State Fault Refusal :=
  done (startCmd 1 queue s (fun t q cmd =>
    match t.ctx q.ctx with
    | none => .bad t 4 0
    | some c =>
      let va := fieldD cmd.data 8
      match t.readRecord c va false with
      | .wait u => .wait (u.unmeasure c)
      | .bad u st k => .bad u st k
      | .ok t record args =>
        let l : Launch :=
          { uid := t.nextLaunch, ctx := q.ctx, qid := queue, cmd := cmd.index, token := fieldD cmd.data 0x10, lrec := va
            record, args, total := recGroups record, next := 0, alive := 0, checked := false, runtime := 0
            claimableSince := some t.clock.toNat, cols := [], homes := [], waited := q.waited }
        .started { t with launches := t.launches ++ [l], nextLaunch := t.nextLaunch + 1 }))

/-- A node descriptor breaks R61, `ng` and `w` those of its record (R60). -/
def nodeBad61 (d : Bytes) : Bool :=
  let cap := nodeCap d
  let timer := field d 0x18 4
  (nodeLrec d).toNat % 256 ≠ 0 || (nodeBase d).toNat % 4096 ≠ 0 || cap < 2 ^ 6 || 2 ^ 24 < cap || cap ≠ 2 ^ log2 cap ||
    16 < nodeWords d || nodeGw d = 0 || 32 < nodeGw d || 2 ≤ field d 0x16 1 || !zeroField d 0x17 1 ||
    timer / 2 ^ 21 % 2 ^ 10 ≠ 0 || (2 ^ 31 ≤ timer && timer % 2 ^ 21 ≠ 0) || 2 ^ 20 < timer % 2 ^ 21 || !zeroField d 0x1C 4

/-- The nodes of a table read one after another. -/
def State.readNodes (s : State) (c : Ctx) : List Bytes → Except CmdOut (State × List Node)
  | [] => .ok (s, [])
  | d :: t =>
    if nodeBad61 d then .error (.bad s 6 0)
    else
      match s.readRecord c (nodeLrec d) true with
      | .wait u => .error (.wait (u.unmeasure c))
      | .bad u _ k => .error (.bad u 6 k)
      | .ok s record args =>
        if recW record < nodeGw d || recNG record < nodeWords d then .error (.bad s 6 0)
        else
          match s.readNodes c t with
          | .ok (s, ns) => .ok (s, { desc := d, record, args, wcnt := 0, lcnt := 0, litGroups := 0, cols := [] } :: ns)
          | .error e => .error e

/-- NODES (R65, R445). -/
def execNodes (queue : Nat) (s : State) : Host.Outcome State Fault Refusal :=
  done (startCmd 4 queue s (fun t q cmd =>
    match t.ctx q.ctx with
    | none => .bad t 6 0
    | some c =>
      let n := field cmd.data 0x10 4
      match t.devRead q.ctx 0xFFFF (fieldD cmd.data 8) (32 * n) with
      | .wait u => .wait u
      | .fail u k _ => .bad u 6 k
      | .ok b =>
        match (t.accessed q.ctx (fieldD cmd.data 8) (32 * n)).readNodes c ((List.range n).map (fun i => (b.drop (32 * i)).take 32)) with
        | .error e => e
        | .ok (t, ns) =>
          let entries := ns.map (fun x => recEntry x.record)
          if entries.eraseDups.length ≠ n || c.bins.any (fun x => x.recs ≠ []) then .bad t 6 0
          else
            let r := ns.foldl (fun (acc : Dev State) x =>
              match acc with
              | .ok u => u.devWrite q.ctx 0xFFFF (nodeBase x.desc) (List.replicate 64 0)
              | r => r) (.ok t)
            match r with
            | .ok u => .done (u.updCtx q.ctx (fun c => { c with nodes := ns }))
            | .wait u => .wait (u.unmeasure c)
            | .fail u k a => .started (u.killCtx q.ctx k 0 a [])))

end Sys2Proof.Machine
end

