-- ==== Sys2Proof/Machine/Logic.lean ====
section
/-! DEFINITION. Logic, bit fields, moves, selection, shape and mask registers, opcodes 0x10 to 0x2A (R155-R169). -/

namespace Sys2Proof.Machine

/-- Operand width of `.b32` and `.b64`. -/
def bitWidth (v : VFields) : Nat := if v.ty = 6 then 64 else 32

def execAndB (v : VFields) (s : State) : Host.Outcome State Fault Refusal :=
  runLanes 0x10 v (fun _ i _ => LOut.of (i.a &&& i.b)) s
def execOrB (v : VFields) (s : State) : Host.Outcome State Fault Refusal :=
  runLanes 0x11 v (fun _ i _ => LOut.of (i.a ||| i.b)) s
def execXorB (v : VFields) (s : State) : Host.Outcome State Fault Refusal :=
  runLanes 0x12 v (fun _ i _ => LOut.of (i.a ^^^ i.b)) s
def execAndn (v : VFields) (s : State) : Host.Outcome State Fault Refusal :=
  runLanes 0x13 v (fun _ i _ => LOut.of (i.a &&& ~~~i.b)) s

/-- Bit `i` of LOP3's result is bit `4 e + 2 a + b` of the tables (R156). -/
def lop3Bits (t : BitVec 8) (a b e : Dword) : Dword :=
  let term (k : Nat) (x y z : Dword) : Dword := if t.getLsbD k then x &&& y &&& z else 0
  term 0 (~~~e) (~~~a) (~~~b) ||| term 1 (~~~e) (~~~a) b ||| term 2 (~~~e) a (~~~b) ||| term 3 (~~~e) a b |||
    term 4 e (~~~a) (~~~b) ||| term 5 e (~~~a) b ||| term 6 e a (~~~b) ||| term 7 e a b

def execLop3 (v : VFields) (s : State) : Host.Outcome State Fault Refusal :=
  runLanes 0x14 v (fun _ i _ => LOut.of (lop3Bits v.c i.a i.b i.e)) s

/-- The amount of a shift (R157). -/
def shiftAmount (v : VFields) (b : Dword) : Nat := b.toNat % bitWidth v

def execShl (v : VFields) (s : State) : Host.Outcome State Fault Refusal :=
  runLanes 0x15 v (fun _ i _ => LOut.of (i.a <<< shiftAmount v i.b)) s
def execShr (v : VFields) (s : State) : Host.Outcome State Fault Refusal :=
  runLanes 0x16 v (fun _ i _ => LOut.of (i.a >>> shiftAmount v i.b)) s
def execSar (v : VFields) (s : State) : Host.Outcome State Fault Refusal :=
  runLanes 0x17 v (fun _ i _ =>
    LOut.of (pack 64 [elemOf true (bitWidth v) i.a 0 / (2 ^ shiftAmount v i.b : Nat)])) s

/-- Rotation left by `n` of a 32- or 64-bit value. -/
def rotate (width n x : Nat) : Nat := (x * 2 ^ n + x / 2 ^ (width - n)) % 2 ^ width

def execRot (v : VFields) (s : State) : Host.Outcome State Fault Refusal :=
  runLanes 0x18 v (fun _ i _ =>
    let n := shiftAmount v i.b
    LOut.of (BitVec.ofNat 64 (rotate (bitWidth v) (if v.sub = 0 then n else (bitWidth v - n) % bitWidth v) i.a.toNat))) s

def execFshf (v : VFields) (s : State) : Host.Outcome State Fault Refusal :=
  runLanes 0x19 v (fun _ i _ =>
    let x : Nat := i.b.toNat * 2 ^ 32 + i.a.toNat
    let n := i.c.toNat % 32
    LOut.of (BitVec.ofNat 64 (if v.sub = 0 then x / 2 ^ n else x * 2 ^ n / 2 ^ 32 % 2 ^ 32))) s

/-- Position and length of a bit field (R159): none where the field is empty. -/
def bitField (b : Dword) : Option (Nat × Nat) :=
  let p := b.toNat % 256
  let k := b.toNat / 256 % 256
  if k = 0 ∨ 32 ≤ p then none else some (p, min k (32 - p))

def execBfe (v : VFields) (s : State) : Host.Outcome State Fault Refusal :=
  runLanes 0x1A v (fun _ i _ =>
    match bitField i.b with
    | none => LOut.of 0
    | some (p, k) => LOut.of (pack 32 [intOf (v.sub = 1) k (i.a.toNat / 2 ^ p)])) s

def execBfi (v : VFields) (s : State) : Host.Outcome State Fault Refusal :=
  runLanes 0x1B v (fun _ i _ =>
    match bitField i.b with
    | none => LOut.of i.c
    | some (p, k) =>
      let mask : Dword := BitVec.ofNat 64 ((2 ^ k - 1) * 2 ^ p)
      LOut.of ((i.c &&& ~~~mask) ||| ((i.a <<< p) &&& mask))) s

/-- Bit reversal of the low `n` bits. -/
def reverseBits (n : Nat) (x : Dword) : Dword :=
  (List.range n).foldl (fun a i => if x.getLsbD i then a ||| (1#64 <<< (n - 1 - i)) else a) 0

def execBrev (v : VFields) (s : State) : Host.Outcome State Fault Refusal :=
  runLanes 0x1C v (fun _ i _ => LOut.of (reverseBits (bitWidth v) i.a)) s

/-- Population count, leading and trailing zeros (R160). -/
def popBits (n : Nat) (x : Dword) : Nat := ((List.range n).filter (fun i => x.getLsbD i)).length
def leadingZeros (n : Nat) (x : Dword) : Nat := ((List.range n).takeWhile (fun i => !x.getLsbD (n - 1 - i))).length
def trailingZeros (n : Nat) (x : Dword) : Nat := ((List.range n).takeWhile (fun i => !x.getLsbD i)).length

def execPopc (v : VFields) (s : State) : Host.Outcome State Fault Refusal :=
  runLanes 0x1D v (fun _ i _ => LOut.of (BitVec.ofNat 64 (popBits (bitWidth v) i.a))) s
def execClz (v : VFields) (s : State) : Host.Outcome State Fault Refusal :=
  runLanes 0x1E v (fun _ i _ => LOut.of (BitVec.ofNat 64 (leadingZeros (bitWidth v) i.a))) s
def execCtz (v : VFields) (s : State) : Host.Outcome State Fault Refusal :=
  runLanes 0x1F v (fun _ i _ => LOut.of (BitVec.ofNat 64 (trailingZeros (bitWidth v) i.a))) s

/-- The tag of register `k` of a source B that is copied: that of its own register in a pair of registers (R145). -/
def Cx.tagB1 (c : Cx) (v : VFields) (wide : Bool) (k : Nat) : Nat :=
  if wide && v.bk = 0 then (c.w.reg (v.b.toNat + k)).tag else c.tagB v wide

/-- The results of an instruction that copies registers: each register of D takes its own tag (R145), G under a prefix
mask (R149). -/
def Cx.copyResults (c : Cx) (op : Nat) (v : VFields) (d : VDesc) (tag : Nat → Nat) (f : VIn → Dword) : Results :=
  let r (k : Nat) : Results := c.lanewise op v d (if c.masked then 2 else tag k) (fun i _ => LOut.of (f i))
  { r 0 with regs := (r 0).regs.take 1 ++ (r 1).regs.drop 1 }

/-- MOV (R161): source B with its tag; a pair's registers take their tags separately (R145). -/
def execMov (v : VFields) (s : State) : Host.Outcome State Fault Refusal :=
  runV 0x20 v [] (fun _ => []) (fun c d =>
    .ok (c.copyResults 0x20 v d (c.tagB1 v (d.b = .pair)) VIn.b)) s

/-- MOVL (R161): one half of D is replaced. -/
def execMovl (v : VFields) (s : State) : Host.Outcome State Fault Refusal :=
  runLanes 0x21 v (fun _ i _ =>
    LOut.of (if v.sub = 0 then (i.d &&& 0xFFFF0000#64) ||| (i.b &&& 0xFFFF#64)
      else (i.d &&& 0xFFFF#64) ||| ((i.b &&& 0xFFFF#64) <<< 16))) s

/-- SEL (R162): by a mask register; the tag is that of the one source chosen in every lane, else G. -/
def execSel (v : VFields) (s : State) : Host.Outcome State Fault Refusal :=
  runV 0x22 v [] (fun _ => []) (fun c d =>
    let m := c.w.mask v.sub.toNat
    let allA : Bool := c.live &&& ~~~m = 0
    let allB : Bool := c.live &&& m = 0
    -- every lane of `live` agrees where the tag is not G; lanes outside it follow them
    .ok (c.copyResults 0x22 v d
      (fun k => if allA then (c.w.reg (v.a.toNat + k)).tag else if allB then c.tagB1 v (d.b = .pair) k else 2)
      (fun i => if allA || (!allB && m.getLsbD i.lane) then i.a else i.b))) s

/-- Byte `k` of a pair of words (R163). -/
def pairByte (a b : Dword) (k : Nat) : Nat := (b.toNat * 2 ^ 32 + a.toNat) / 2 ^ (8 * k) % 256

/-- One byte of PRMT `.sel`, from its code and the byte formed before it (R163). -/
def permuteByte (a b : Dword) (code prev : Nat) : Nat :=
  if code < 8 then pairByte a b code
  else if code = 9 then 255
  else if code = 10 then prev
  else if code = 11 then (if 128 ≤ prev then 255 else 0)
  else 0

def execPrmt (v : VFields) (s : State) : Host.Outcome State Fault Refusal :=
  runLanes 0x23 v (fun _ i _ =>
    let c := i.c.toNat
    if v.sub = 0 then
      let b0 := permuteByte i.a i.b (c % 16) 0
      let b1 := permuteByte i.a i.b (c / 16 % 16) b0
      let b2 := permuteByte i.a i.b (c / 256 % 16) b1
      let b3 := permuteByte i.a i.b (c / 4096 % 16) b2
      LOut.of (BitVec.ofNat 64 (b0 + 256 * b1 + 65536 * b2 + 16777216 * b3))
    else
      let r := c % 8
      LOut.of (BitVec.ofNat 64 ((List.range 4).foldr (fun j acc => acc * 256 + pairByte i.a i.b ((r + j) % 8)) 0))) s

def execSext (v : VFields) (s : State) : Host.Outcome State Fault Refusal :=
  runLanes 0x24 v (fun _ i _ => LOut.of (pack 32 [intOf (v.sub = 0) (i.b.toNat % 32 + 1) i.a.toNat])) s

/-- MKAFF (R165): A and B must count as U; every lane reads a + l * b. -/
def execMkaff (v : VFields) (s : State) : Host.Outcome State Fault Refusal :=
  runV 0x25 v [] (fun _ => []) (fun c d =>
    if (c.w.reg v.a.toNat).tag ≠ 0 then .error (c.shape v.a.toNat)
    else if c.tagB v false ≠ 0 then .error (c.shape v.b.toNat)
    else
      let i := c.sources 0x25 v d 0
      let x : Reg := .a (i.a.setWidth 32) (i.b.setWidth 32)
      .ok { regs := [(v.d.toNat, if c.masked then mkReg 2 0 x.get else x)], masks := []
            flags := List.replicate 32 0, gens := c.w.gens }) s

def execMkgen (v : VFields) (s : State) : Host.Outcome State Fault Refusal :=
  runTagged 0x26 v (fun _ _ => 2) (fun _ i _ => LOut.of i.a) s

/-- SHAPE (R166): tag, base or stride of A. -/
def execShape (v : VFields) (s : State) : Host.Outcome State Fault Refusal :=
  runTagged 0x27 v (fun _ _ => 0) (fun c _ _ =>
    let r := c.w.reg v.a.toNat
    LOut.of ((match v.sub.toNat with
      | 0 => BitVec.ofNat 32 r.tag
      | 1 => (match r with | .u x => x | .a b _ => b | .g _ => 0)
      | _ => (match r with | .a _ st => st | _ => 0) : Word).setWidth 64)) s

def execLaneid (v : VFields) (s : State) : Host.Outcome State Fault Refusal :=
  runTagged 0x28 v (fun _ _ => if v.sub = 0 then 1 else if v.sub = 3 then 0 else 2) (fun c i _ =>
    let w := c.w.width
    LOut.of (BitVec.ofNat 64 (match v.sub.toNat with
      | 0 => i.lane
      | 1 => i.lane % w
      | 2 => i.lane / w
      | _ => w))) s

/-- A result that writes one whole mask register (R168, R169). -/
def wholeMask (c : Cx) (m : Nat) (x : Word) : Results :=
  { regs := [], masks := [(m, 0xFFFFFFFF#32, x)], flags := List.replicate 32 0, gens := c.w.gens }

def execMskop (v : VFields) (s : State) : Host.Outcome State Fault Refusal :=
  runV 0x29 v [] (fun _ => []) (fun c _ =>
    let a := c.w.mask v.a.toNat
    let b := c.w.mask v.b.toNat
    .ok (wholeMask c v.d.toNat (match v.sub.toNat with
      | 0 => a &&& b
      | 1 => a ||| b
      | 2 => a ^^^ b
      | 3 => a &&& ~~~b
      | 4 => ~~~a
      | _ => a))) s

def execMskmov (v : VFields) (s : State) : Host.Outcome State Fault Refusal :=
  runTagged 0x2A v (fun _ _ => 0) (fun c _ _ => LOut.of ((c.w.mask v.a.toNat).setWidth 64)) s

def execMskmovLane (v : VFields) (s : State) : Host.Outcome State Fault Refusal :=
  runLanes 0x2A v (fun _ i _ => LOut.test (i.a ≠ 0)) s

def execMskmovWord (v : VFields) (s : State) : Host.Outcome State Fault Refusal :=
  runV 0x2A v [] (fun _ => []) (fun c _ =>
    match c.w.reg v.a.toNat with
    | .u x => .ok (wholeMask c v.d.toNat x)
    | _ => .error (c.shape v.a.toNat)) s

end Sys2Proof.Machine
end

