-- ==== Sys2Proof/Machine/Place.lean ====
section
/-! DEFINITION. The distributor: which group a core pulls, its resources, codebook preloads, the first state of its warps,
Taper bindings and the start of groups (R50-R60, R242, R332-R333, R438-R439, R451). -/

namespace Sys2Proof.Machine

/-! ### Resources of a core (R51, R276, R438) -/

/-- The warps of a partition of a column that have not retired. -/
def State.partWarpsOf (s : State) (col part : Nat) : List Warp :=
  ((s.groups.filter (fun g => g.col = col)).map (fun g => g.warps.filter (fun w => w.part = part && !w.retired))).flatten

/-- Warps of a group of `n` warps that partition `part` takes (R50). -/
def warpsOn (p0 n part : Nat) : Nat := (List.range n).countP (fun w => (p0 + w) % 8 = part)

/-- The core has what a group of `n` warps under a record needs (R51, R276). -/
def State.hasRoom (s : State) (col p0 n : Nat) (r : Bytes) : Bool :=
  let gs := s.groups.filter (fun g => g.col = col)
  let room (part : Nat) : Bool :=
    let ws := s.partWarpsOf col part
    let k := warpsOn p0 n part
    ws.length + k ≤ Config.nSlots &&
      (ws.map (fun w => warpWords w.ng w.nu)).sum + k * warpWords (recNG r) (recNU r) ≤ Config.regWords &&
      (ws.map Warp.acc).sum + k * recAcc r ≤ 8
  !(s.column col).stopped && gs.length < Config.maxGroups &&
    (gs.map Group.scrSize).sum + recScr r ≤ Config.scratchBytes && (List.range 8).all room

/-- The groups of a column that use codebook banks. -/
def State.bankGroups (s : State) (col : Nat) : List Group := s.groups.filter (fun g => g.col = col && recCB g.record)

/-- The banks of a column can serve a record of a context (R438). -/
def State.banksServe (s : State) (col ctx : Nat) (r : Bytes) : Bool :=
  !recCB r || (s.bankGroups col).all (fun g =>
    g.ctx = ctx && recCbpre g.record = recCbpre r && recCbmask g.record = recCbmask r)

/-- The core can hold a group of `n` warps. -/
def State.canHold (s : State) (col p0 n ctx : Nat) (r : Bytes) : Bool := s.hasRoom col p0 n r && s.banksServe col ctx r

/-- The partition at which a core begins a group of `n` warps (R50): among those at which it can, one whose partitions hold the
fewest warps, so that groups spread evenly. -/
def State.spread (s : State) (col n : Nat) (can : Nat → Bool) : Option Nat :=
  let load (p0 : Nat) : Nat := ((List.range n).map (fun w => (s.partWarpsOf col ((p0 + w) % 8)).length)).sum
  ((List.range 8).filter can).foldl (fun b p => match b with
    | none => some p
    | some q => if load p < load q then some p else some q) none

/-- The partition that a core chooses for a group: `p0` where it can hold the group there, else another at which it can. -/
def State.startPart (s : State) (col p0 n ctx : Nat) (r : Bytes) : Option Nat :=
  if s.canHold col p0 n ctx r then some p0 else s.spread col n (fun p => s.canHold col p n ctx r)

/-- Banks emptied in both generations, under numbers of their own (R191, R438). -/
def Column.emptyBanks (k : Column) : Column :=
  { k with
    banks := (List.range 8).map (fun b =>
      { Bank.empty with cur := { Gen.empty with uid := k.nextGen + 2 * b }, shadow := { Gen.empty with uid := k.nextGen + 2 * b + 1 } })
    nextGen := k.nextGen + 16 }

/-- The images of a record's preloads loaded as current generations (R438). -/
def State.preload (s : State) (col ctx : Nat) (r : Bytes) : List Nat → Dev State
  | [] => .ok s
  | b :: t =>
    match s.devRead ctx 0xFFFF (recCbpre r + BitVec.ofNat 64 (8 * b)) 8 with
    | .wait u => .wait u
    | .fail u c a => .fail u c a
    | .ok p =>
      let va := fieldD p 0
      match s.devRead ctx 0xFFFF va 16 with
      | .wait u => .wait u
      | .fail u c a => .fail u c a
      | .ok h =>
        match imageReason h with
        | some reason => .ok (s.killCtx ctx 0x11 reason va [])
        | none =>
          match s.devRead ctx 0xFFFF va (16 + 8 * field h 0 2) with
          | .wait u => .wait u
          | .fail u c a => .fail u c a
          | .ok image =>
            let s := ((s.accessed ctx (recCbpre r + BitVec.ofNat 64 (8 * b)) 8).accessed ctx va (16 + 8 * field h 0 2)).updColumn col (fun k =>
              { k.setBank b { k.banks.getD b Bank.empty with cur := Gen.ofImage k.nextGen image } with nextGen := k.nextGen + 1 })
            s.preload col ctx r t

/-- The banks of a column brought to serve a record (R438). -/
def State.bindBanks (s : State) (col ctx : Nat) (r : Bytes) : Dev State :=
  if !recCB r || !(s.bankGroups col).isEmpty then .ok s
  else
    (s.updColumn col (fun k => { k.emptyBanks with bankOwner := some (ctx, recCbpre r, recCbmask r) })).preload col ctx r
      (recPreloads r)

/-! ### The first state of a warp (R57, R60, R129, R130, R277) -/

/-- A warp at its entry clause with no register written. -/
def Warp.fresh (wid part slot : Nat) (r : Bytes) (live : Word) : Warp :=
  { wid, part, slot, mode := .user, ng := recNG r, nu := recNU r, acc := recAcc r
    pcs := List.replicate 32 (recEntry r), started := live, live, help := 0
    regs := List.replicate (recNG r + recNU r) (.u 0), masks := List.replicate 7 0, stack := [], parked := 0
    wait := List.replicate 32 .none, rsl := List.replicate 32 0, came := List.replicate 32 none
    curPc := recEntry r, bundle := recBundle r, ctl := 1, flags := List.replicate 32 0, seed := 0, gens := seedGens 0 (fun _ => 0), fair := 0
    cur := none, counters := List.replicate 8 0, flights := [], nextFlight := 0, logs := List.replicate 8 none, unack := []
    yields := [], causes := [], trapRec := List.replicate 16 0, entering := none, hframe := none
    lvl := List.replicate 8 (List.replicate 32 0), recs := List.replicate 32 none
    tiles := List.replicate (recAcc r) (Tile.zero false), loops := [], stash := [], retired := false }

/-- Warp w of group k of a launch (R55, R57). -/
def Warp.ofLaunch (wid part slot : Nat) (r : Bytes) (k : Nat) : Warp :=
  let t (l : Nat) : Nat := 32 * recW r * k + 32 * wid + l
  let limit := recGrid r * recT r (recLevels r - 1)
  { Warp.fresh wid part slot r (maskOf (fun l => t l < limit)) with
    lvl := (List.range 8).map (fun i => (List.range 32).map (fun l => levelIndex r i (t l))) }

/-- The lanes of a lit group with their records (R63): a record of a `QUAD` node begins a slot of four lanes unless it
belongs to the unit before it. -/
def litLanes (quad : Bool) (rs : List QRec) : List (Nat × QRec) :=
  (rs.foldl (fun (a : List (Nat × QRec) × Nat × Nat) r =>
    let (out, base, at') := a
    if !quad then (out ++ [(base, r)], base + 1, 0)
    else if r.first then (out ++ [(base, r)], base + 4, base + 1)
    else (out ++ [(at', r)], base, at' + 1)) ([], 0, 0)).1

/-- Warp w of a lit group (R60, R63). -/
def Warp.ofLit (wid part slot : Nat) (x : Lit) : Warp :=
  let lanes := litLanes x.quad x.recs
  let at' (l : Nat) : Option QRec := (lanes.find? (fun y => y.1 = 32 * wid + l)).map Prod.snd
  let has (p : QRec → Bool) : Word := maskOf (fun l => match at' l with | some r => p r | none => false)
  let words := (lanes.map (fun y => y.2.words.length)).foldl max 0
  let w := Warp.fresh wid part slot x.record (has (fun _ => true))
  let pixels := (List.range 32).any (fun l => match at' l with | some r => r.full.isSome | none => false)
  let perLane (f : QRec → Word) : List Word := (List.range 32).map (fun l => match at' l with | some r => f r | none => 0)
  { w with
    help := has QRec.helper
    regs := (List.range w.regs.length).map (fun k => if k < words then .g (perLane (fun r => r.words.getD k 0)) else .u 0)
    bundle := if pixels then 2 else 5
    recs := (List.range 32).map (fun l => (at' l).bind QRec.full)
    lvl := [perLane (fun r => BitVec.ofNat 32 r.seq), List.replicate 32 x.key, List.replicate 32 (BitVec.ofNat 32 x.node),
      (List.range 32).map (fun l => if (has QRec.helper).getLsbD l then 1 else 0)] ++ List.replicate 4 (List.replicate 32 0) }

/-- Some warps given the lowest free slots of their partitions (R50, R51). -/
def State.slotted (s : State) (col p0 : Nat) (mk : Nat → Nat → Nat → Warp) (n : Nat) : List Warp :=
  (List.range n).foldl (fun ws w =>
    let part := (p0 + w) % 8
    let used := (s.partWarpsOf col part).map Warp.slot ++ (ws.filter (fun x => x.part = part)).map Warp.slot
    ws ++ [mk w part (((List.range Config.nSlots).find? (fun k => !used.contains k)).getD 0)]) []

/-- The scratchpad lines that the bindings of a record fill (R224). -/
def bindLines (r : Bytes) : List Nat :=
  ((recBindings r).map (fun n =>
    let b := recBinding r n
    (List.range ((bindBytes r b + 127) / 128)).map (· + bindDoff b / 128))).flatten

/-- A group as it is placed (R50, R224, R338). -/
def Group.placed (uid ctx launch col p0 gid : Nat) (r args : Bytes) (ws : List Warp) : Group :=
  { uid, ctx, launch, record := r, args, col, p0, gid, wcount := ws.length, lit := none, warps := ws, scrSize := recScr r
    scr := Mem.empty, absent := bindLines r, gregs := List.replicate 16 0
    bars := List.replicate 16 { ph := 0, exp := 0, arr := 0, t0 := 0, auto := false, arrivals := [] }
    ctab := List.replicate 64 { seq := 0, kind := 0, inFlight := false, low := 0, high := 0, doneAt := 0 }
    ops := [], session := none, closing := none, regrp := none, bindings := recBindings r, started := false, coItem := none
    pixelTiles := [], savedLocks := [], pauses := [], lastClosed := none }

/-! ### Starting (R52, R56, R242) -/

/-- The tokens that a launch follows take the scope at which its group starts (R242, R448). -/
def State.recordScopes (s : State) (g : Group) : Dev State :=
  match s.launchOf g.launch with
  | none => .ok s
  | some l => l.waited.foldl (fun (acc : Dev State) x =>
      match acc with
      | .ok t =>
        if x.2 = [] then .ok t
        else
          match t.devRead g.ctx 0xFFFF (x.1 + 8) 1 with
          | .ok b =>
            let sco := scopeOf (g.col :: x.2)
            let t := t.accessed g.ctx (x.1 + 8) 1
            if (leNat b) < sco then t.devWrite g.ctx 0xFFFF (x.1 + 8) [BitVec.ofNat 8 sco] else .ok t
          | .wait u => .wait u
          | .fail u c a => .fail u c a
      | r => r) (.ok s)

/-- The groups that start with a group (R52, R56). -/
def State.startSet (s : State) (g : Group) : List Group :=
  match g.coItem with
  | none => [g]
  | some i => s.groups.filter (fun h => h.launch = g.launch && h.lit = none && h.coItem = some i && !h.started)

/-- A group starts, with those of its `CO` item, once their bindings are complete. -/
def State.tryStart (s : State) (uid : Nat) : State :=
  match s.group uid with
  | none => s
  | some g =>
    let set := s.startSet g
    if g.started || set.any (fun h => h.bindings ≠ []) then s
    else
      let r := set.foldl (fun (acc : Dev State) h =>
        match acc with
        | .ok t => t.recordScopes h
        | r => r) (.ok s)
      match r with
      | .ok t => set.foldl (fun t h => t.updGroup h.uid (fun h => { h with started := true })) t
      | .wait t => t
      | .fail t c a => t.killCtx g.ctx c 0 a []

/-! ### Pulling (R56, R439, R451) -/

/-- What R439 finds in an entry clause: the cause, reason and detail. -/
def entryCause (r : Bytes) (h : Dword) : Option (Nat × Nat × List Word) :=
  let reason := if !isHeader h then some 1 else if classReserved (classOf h) then some 2
    else if bits h 0 26 ≠ 0 || (!isEntry h && budgetOf h ≠ 0) then some 3 else none
  match reason with
  | some k => some (2, k, [])
  | none =>
    if !isEntry h then some (8, 0, [])
    else if recNG r < budgetOf h + 1 then some (4, 0, [BitVec.ofNat 32 (budgetOf h + 1), BitVec.ofNat 32 (recNG r)])
    else none

/-- The entry clause read at the first placement (R439), for a launch if it is one of those. -/
def State.checkEntry (s : State) (ctx : Nat) (launch : Option Nat) (r : Bytes) : Dev State :=
  let va := recEntry r
  match s.fetchWord ctx va with
  | .error c => s.devFault ctx 0xFFFF 2 va c
  | .ok h =>
    let s := s.fetched ctx launch [va]
    match entryCause r h with
    | none => .ok s
    | some (c, reason, det) => .ok (s.killCtx ctx c reason (if c = 2 then 0 else va) det)

/-- What placing comes to: no core is at hand, or what the attempt leaves. -/
inductive Placing where
  | no
  | yes (r : Dev State)

/-- A group put on a core: banks, then warps, in firmware mode for a context of the firmware (R337). -/
def State.putGroup (s : State) (col p0 ctx : Nat) (r : Bytes) (n : Nat) (mk : Nat → Nat → Nat → Warp)
    (fin : Group → Group) (launch gid : Nat) (args : Bytes) : Dev State :=
  match s.bindBanks col ctx r with
  | .ok t =>
    if (t.ctx ctx).map Ctx.phase ≠ (s.ctx ctx).map Ctx.phase then .ok t
    else
      let firm := ((t.ctx ctx).map Ctx.firmware).getD false
      let ws := (t.slotted col p0 mk n).map (fun w => if firm then { w with mode := .firmware } else w)
      let g := fin (Group.placed t.nextGroup ctx launch col p0 gid r args ws)
      .ok { t with groups := t.groups ++ [g], nextGroup := t.nextGroup + 1 }
  | r => r

/-- A context takes part in placement. -/
def State.places (s : State) (ctx : Nat) : Bool :=
  match s.ctx ctx with
  | some c => c.phase = .running
  | none => false

/-- Warps that a lit group needs (R63). -/
def Lit.warps (x : Lit) : Nat := (lanesTaken x.quad x.recs + 31) / 32

/-- The first lit group of a lantern that the core can hold (R451). -/
def State.litFor (s : State) (col p0 : Nat) : Option (Nat × Lit) :=
  s.contexts.findSome? (fun c =>
    if c.phase ≠ .running then none
    else (c.lits.find? (fun x => x.lan = lanternOf col && (s.startPart col p0 x.warps c.id x.record).isSome)).map (fun x => (c.id, x)))

/-- A lit group placed (R60, R63, R451). -/
def State.placeLit (s : State) (col p0 ctx : Nat) (x : Lit) : Dev State :=
  let tiles := (x.recs.filterMap QRec.tile).eraseDups
  let p0 := (s.startPart col p0 x.warps ctx x.record).getD p0
  match (if x.gid = 0 then s.checkEntry ctx none x.record else .ok s) with
  | .ok t =>
    if !t.places ctx then .ok t
    else
      match t.putGroup col p0 ctx x.record x.warps (fun w p k => Warp.ofLit w p k x)
          (fun g => { g with lit := some (x.node, x.key), pixelTiles := tiles }) 0 x.gid x.args with
      | .ok t => .ok (t.updCtx ctx (fun c => { c with
          lits := c.lits.erase x
          nodes := (List.range c.nodes.length).zip c.nodes |>.map (fun y =>
            if y.1 = x.node then { y.2 with cols := (y.2.cols ++ [col]).eraseDups } else y.2) }))
      | r => r
  | r => r

/-- The columns of one domain around a column (R56): a quad, a lantern, the device. -/
def sameDomain (dom a b : Nat) : Bool :=
  match dom with
  | 3 => a / 4 = b / 4
  | 4 => lanternOf a = lanternOf b
  | _ => true

/-- The levels of a record with a domain above a group, and the item of each that group k belongs to (R55, R56). -/
def itemsOf (r : Bytes) (k : Nat) : List (Nat × Nat) :=
  ((List.range (recLevels r)).filter (fun i => 3 ≤ lvlDom (recLvl r i))).map (fun i => (i, 32 * recW r * k / recT r i))

/-- A group of a launch may stand on a column (R56). -/
def Launch.homeOk (l : Launch) (k col : Nat) : Bool :=
  (itemsOf l.record k).all (fun x => l.homes.all (fun h =>
    !(h.1 = x.1 && h.2.1 = x.2) || sameDomain (lvlDom (recLvl l.record x.1)) h.2.2 col))

/-- The columns and levels items of a launch after group k stands on a column. -/
def Launch.settle (l : Launch) (k col : Nat) : Launch :=
  let new := (itemsOf l.record k).filter (fun x => !l.homes.any (fun h => h.1 = x.1 && h.2.1 = x.2))
  { l with
    alive := l.alive + 1, cols := if l.cols.contains col then l.cols else l.cols ++ [col]
    homes := l.homes ++ new.map (fun x => (x.1, x.2, col)) }

/-- The highest level with `CO` (R53, R56). -/
def coLevel (r : Bytes) : Option Nat := ((List.range (recLevels r)).filter (fun i => lvlCo (recLvl r i))).max?

/-- How many groups, from group k on, a pull takes: one, or the rest of a `CO` item, and the item. -/
def Launch.batch (l : Launch) : Nat × Option Nat :=
  match coLevel l.record with
  | none => (1, none)
  | some i =>
    let per := (recT l.record i + 32 * recW l.record - 1) / (32 * recW l.record)
    let item := l.next / per
    (min ((item + 1) * per) l.total - l.next, some item)

/-- The machine without what a placement has begun, where it waits for a translation: the entries of the fault record queues
stay (R486). -/
def State.waitingFor (s t : State) : State := { s with faultq := t.faultq, faultWait := t.faultWait, faultSeq := t.faultSeq }

/-- The partition at which a core begins the next group of a batch that has `k` groups on it: behind the last of them, where it
can hold one there, or where it holds the fewest warps. -/
def State.batchPart (s : State) (even : Bool) (c p0 k ctx : Nat) (r : Bytes) : Option Nat :=
  if even then s.spread c (recW r) (fun p => s.canHold c p (recW r) ctx r)
  else s.startPart c ((p0 + k * recW r) % 8) (recW r) ctx r

/-- The groups of a batch placed one after another: the first on the pulling core, each other on a core of its domain that
can hold it, at a partition that the core chooses. -/
def State.placeBatch (s : State) (uid col p0 : Nat) (even : Bool) (item : Option Nat) : Nat → Nat → Placing
  | _, 0 => .yes (.ok s)
  | i, n + 1 =>
    match s.launchOf uid with
    | none => .yes (.ok s)
    | some l =>
      let r := l.record
      let on (c : Nat) : Nat := s.groups.countP (fun g => g.col = c && g.launch = uid && g.coItem = item && g.lit.isNone)
      let at' (c : Nat) : Option Nat := s.batchPart (even && i ≠ 0) c p0 (if i = 0 then 0 else on c) l.ctx r
      let ok (c : Nat) : Bool := l.homeOk l.next c && (at' c).isSome
      let cols := if i = 0 then [col].filter ok else (List.range Config.nColumns).filter ok
      match cols[Config.placement s.fresh % cols.length]? with
      | none => .no
      | some c =>
        let k := l.next
        let t := { s with fresh := s.fresh + 1 }
        match t.putGroup c ((at' c).getD p0) l.ctx r (recW r) (fun w p q => Warp.ofLaunch w p q r k)
            (fun g => { g with coItem := item }) uid k l.args with
        | .ok t =>
          if !t.places l.ctx then .yes (.ok t)
          else (t.updLaunch uid (fun l => { l.settle k c with next := k + 1 })).placeBatch uid col p0 even item (i + 1) n
        | r => .yes r

/-- A batch placed, beginning at partition `p0` of its first core, or at another where the groups of an item do not fit so: on
cores that hold nothing else the groups stand one behind another, and no order of them fits where this one does not (R56). -/
def State.packBatch (s : State) (uid col p0 : Nat) (item : Option Nat) (n : Nat) : Placing :=
  let tries : List (Nat × Bool) :=
    if n ≤ 1 then [(p0, false)] else (List.range 8).map (fun d => ((p0 + d) % 8, false)) ++ [(p0, true)]
  (tries.findSome? (fun x => match s.placeBatch uid col x.1 x.2 item 0 n with
    | .no => none
    | y => some y)).getD .no

/-- A pull of the next groups of a launch (R439, R451), the groups of a `CO` item all at once or none (R56). -/
def State.pullLaunch (s : State) (col p0 : Nat) (l : Launch) : Placing :=
  let (n, item) := l.batch
  if l.total ≤ l.next || !s.places l.ctx then .no
  else
    match s.packBatch l.uid col p0 item n with
    | .no => .no
    | .yes r =>
      if l.checked then
        (match r with
          | .wait t => .yes (.wait (s.waitingFor t))
          | r => .yes r)
      else
        match s.checkEntry l.ctx (some l.uid) l.record with
        | .ok t =>
          if !t.places l.ctx then .yes (.ok t)
          else
            match (t.updLaunch l.uid (fun l => { l with checked := true })).packBatch l.uid col p0 item n with
            | .yes (.wait u) => .yes (.wait (s.waitingFor u))
            | x => x
        | r => .yes r

/-- Started launches in the order of R451: by the priority of their queues, the earliest started first among equals. -/
def State.pullOrder (s : State) : List Launch :=
  let prio (l : Launch) : Nat := ((s.queueOf l.qid).map Queue.prio).getD 0
  ((List.range 8).reverse.map (fun p => s.launches.filter (fun l => prio l = p))).flatten

/-- The groups that have been placed and not started are tried. -/
def State.startAll (s : State) : State :=
  (s.groups.filter (fun g => !g.started)).foldl (fun s g => s.tryStart g.uid) s

/-- GROUP_PLACEMENT (R451): the core pulls a lit group of its lantern, or else the next groups of a started launch. -/
def execGroupPlacement (col p0 : Nat) (s : State) : Host.Outcome State Fault Refusal :=
  let p0 := p0 % 8
  if Config.nColumns ≤ col then .next s
  else
    match s.litFor col p0 with
    | some (ctx, x) => done ((s.placeLit col p0 ctx x).orKill ctx).startAll
    | none =>
      let got := s.pullOrder.findSome? (fun l => match s.pullLaunch col p0 l with
        | .no => none
        | .yes r => some (l.ctx, r))
      match got with
      | some (ctx, r) => done (r.orKill ctx).startAll
      | none => done s.startAll

/-! ### The Taper (R332, R333) -/

/-- The elements of a row of a binding (R332): code, value and mark; an expansion reads its entries. -/
def bindRowElems (k : Column) (r b : Bytes) (bs streams : List Marked) : Except Nat (List (Nat × FVal × Bool)) :=
  let sfs := FSlot.ofWord (recFS r (bindSfs b))
  let n := bindCols b
  if sfs.vq then
    let gen := (k.banks.getD sfs.cbk Bank.empty).cur
    let wi := if sfs.iw then 8 else 4
    let (per, w, f) := entryShape sfs.vshp
    if (List.range n).any (fun i => gen.len ≤ packedAt bs wi i) then .error 0x20
    else
      .ok ((List.range (n * per)).map (fun j =>
        let x := (gen.entry (packedAt bs wi (j / per))).toNat / 2 ^ (w * (j % per)) % 2 ^ w
        (x, f.decode x, packedTaint bs wi (j / per))))
  else .ok (((List.range n).map (packedAt bs (etypeBits sfs.etype))).zip (rowValues sfs n bs streams))

/-- A row of a binding in its destination format (R314, R121).  DESIGN CHOICE (log entry 68): the codes of a blocked destination
are written, and its scales, for which R332 names no place, are not. -/
def bindEncode (r b : Bytes) (draw : Nat) (row : List (Nat × FVal × Bool)) : List (Nat × Bool) :=
  let sfs := FSlot.ofWord (recFS r (bindSfs b))
  let dfs := FSlot.ofWord (recFS r (bindDfs b))
  if !sfs.vq && sfs.same dfs then row.map (fun x => (x.1, x.2.2))
  else (encodedRow dfs (if dfs.rnd = 0 then 1 else dfs.rnd) draw (row.map Prod.snd)).1

/-- The rows of a binding as they are read. -/
def Unit.bindRead (u : Unit) (k : Column) (r b : Bytes) : Nat → Nat → Got (Unit × List (List (Nat × FVal × Bool)))
  | _, 0 => .ok (u, [])
  | i, n + 1 =>
    let sfs := FSlot.ofWord (recFS r (bindSfs b))
    let w := if sfs.vq then (if sfs.iw then 8 else 4) else etypeBits sfs.etype
    let src : EAddr := { sp := bindSsp b, base := bindSrc b, disp := (i * bindSrstr b : Nat) }
    let per := 16 * ((bindCols b + 127) / 128)
    let aux : EAddr := { sp := bindSsp b, base := bindAux b, disp := (i * per : Nat) }
    match u.peek src ((bindCols b * w + 7) / 8) with
    | .ok (u, bs) =>
      let st : Got (Unit × List Marked) := if sfs.blk = 0 then .ok (u, []) else u.peek aux per
      (match st with
        | .ok (u, streams) =>
          match bindRowElems k r b bs streams with
          | .error c => .bad c 1 0
          | .ok row =>
            match u.bindRead k r b (i + 1) n with
            | .ok (u, rest) => .ok (u, row :: rest)
            | e => e
        | e => e.recast)
    | e => e.recast

/-- The rows of a binding as they are written (R332). -/
def bindOut (r b : Bytes) (draw : Nat) (rows : List (List (Nat × FVal × Bool))) : List (List (Nat × Bool)) :=
  let encode (rows : List (List (Nat × FVal × Bool))) : List (List (Nat × Bool)) :=
    ((List.range rows.length).zip rows).map (fun x => bindEncode r b (draw + x.1) x.2)
  match bindXf b with
  | 2 => encode ((List.range (bindCols b)).map (fun j => rows.filterMap (fun row => row[j]?)))
  | 5 => List.replicate (bindRows b) (List.replicate (bindShape r b).2 (0, false))
  | _ => encode rows

/-- A binding runs whole (R332, R333): it reads, converts and writes its rows. -/
def Unit.runBinding (u : Unit) (k : Column) (r b : Bytes) (draw : Nat) : Got Unit :=
  let wd := etypeBits (FSlot.ofWord (recFS r (bindDfs b))).etype
  match u.bindRead k r b 0 (if bindXf b = 5 then 0 else bindRows b) with
  | .ok (u, rows) =>
    let out := bindOut r b draw rows
    let line (row : List (Nat × Bool)) : List Marked :=
      let bs := packMarked wd row
      bs ++ clean (List.replicate (bindPitch r b - bs.length) 0)
    u.poke { sp := 1, base := BitVec.ofNat 64 (bindDoff b), disp := 0 } ((out.map line).flatten)
  | e => e.recast

/-- Address and detail of a cause that a binding meets (R399): the block of 0x17, the column of 0x18, the bank of 0x20. -/
def State.bindDetail (s : State) (g : Group) (b : Bytes) (code : Nat) (va : Dword) : Dword × List Word :=
  let cols : List Nat := [bindSrc b, bindAux b].filterMap (fun base =>
    ((s.ctx g.ctx).bind (fun c => c.block? (base.setWidth 32))).bind (fun k => match k.place with
      | .vault c _ => some c
      | .gddr .. => none))
  let col := if bindSsp b = 2 then vaultCol va else (cols.find? (fun c => (s.column c).vault = .lost)).getD 0
  match code with
  | 0x17 => ((bindSrc b).setWidth 32 |>.setWidth 64, [])
  | 0x18 => (0, [BitVec.ofNat 32 col])
  | 0x20 => (0, [BitVec.ofNat 32 (FSlot.ofWord (recFS g.record (bindSfs b))).cbk])
  | _ => (va, [])

/-- The entry of a Taper access without a translation (R409). -/
def taperFault (g : Group) (va : Dword) : FaultEntry :=
  { va, ctx := g.ctx, kind := 4, acc := 0, col := g.col, wslot := 0, log := 0, idx := 0, stat := 0
    seq := 0, grp := g.uid, wid := 0, fdom := none }

/-- TAPER_BINDING_COMPLETE (R52, R333). -/
def execTaperBindingComplete (grp binding : Nat) (s : State) : Host.Outcome State Fault Refusal :=
  match s.group grp with
  | none => .next s
  | some g =>
    let b := recBinding g.record binding
    if !g.bindings.contains binding || !s.places g.ctx then .next s
    else
      let (n, s) := s.draw
      match Unit.runBinding { s, g, sent := [] } (s.column g.col) g.record b n with
      | .wait => .next s
      | .miss va => .next (s.queueFault (taperFault g va))
      | .lost c va => .next (s.killCtx g.ctx c 0 va [])
      | .bad c reason va =>
        let (a, det) := s.bindDetail g b c va
        .next (s.killCtx g.ctx c reason a det)
      | .ok u =>
        let lines := (List.range ((bindBytes g.record b + 127) / 128)).map (· + bindDoff b / 128)
        let g := { u.g.setPresent lines with bindings := u.g.bindings.filter (· ≠ binding) }
        done ((u.s.setGroup g).tryStart grp)

end Sys2Proof.Machine
end

