-- ==== Sys2Proof/Machine/Save.lean ====
section
/-! DEFINITION. Saving a context and bringing it back (R334, R379, R417-R433). -/

namespace Sys2Proof.Machine

/-! ### The save area (R423-R433) -/

/-- Bytes padded with zeros to a length, or to a multiple. -/
def padTo (n : Nat) (b : Bytes) : Bytes := b ++ List.replicate (n - b.length) 0
def padMod (n : Nat) (b : Bytes) : Bytes := b ++ List.replicate ((n - b.length % n) % n) 0

/-- One byte of a wait (R430). -/
def Wait.code : Wait → Nat
  | .none => 0
  | .bar .. => 1
  | .presence => 2
  | .token => 3
  | .waitv .. => 4
  | .coll .. => 5
  | .barColl .. => 5
  | .round _ => 5
  | .sleep .. => 6
  | .barw .. => 7
  | .fetch => 8
  | .harvest .. => 0

/-- An entry of the mask stack (R430). -/
def StackEntry.image (e : StackEntry) : Bytes :=
  dwordBytes (e.rpc.getD 0x8000000000000000#64) ++ wordBytes e.members ++ toBytes 1 e.kind ++ [0, 0, 0]

/-- A thread-state block (R430). -/
def Frame.image (f : Frame) (help : Word) : Bytes :=
  ((List.range 32).map (fun l => dwordBytes (f.pcs.getD l 0))).flatten ++ wordBytes f.live ++ wordBytes help ++
    ((List.range 7).map (fun m => wordBytes (f.masks.getD m 0))).flatten ++ wordBytes f.bundle ++ wordBytes f.ctl ++
    toBytes 4 f.fair ++ wordBytes f.parked ++ toBytes 4 f.stack.length ++ toBytes 4 (f.cur.getD 0) ++ toBytes 4 0 ++
    (List.range 32).map (fun l => BitVec.ofNat 8 (f.wait.getD l .none).code) ++
    (List.range 32).map (fun l => BitVec.ofNat 8 (f.rsl.getD l 0)) ++
    padTo 512 ((f.stack.reverse.map StackEntry.image).flatten)

/-- The runs of equal lanes of a register, from lane 0 (R433). -/
def laneRuns : List Word → List (Word × Nat)
  | [] => []
  | x :: t =>
    match laneRuns t with
    | (y, n) :: r => if x = y then (y, n + 1) :: r else (x, 1) :: (y, n) :: r
    | [] => [(x, 1)]

/-- The tag byte and the bytes of a register (R433). -/
def Reg.packed : Reg → Nat × Bytes
  | .u v => (0, wordBytes v)
  | .a b s => (1, wordBytes b ++ wordBytes s)
  | .g v =>
    let rs := laneRuns ((List.range 32).map (fun l => v.getD l 0))
    (2 + 4 * (rs.length - 1), (rs.map (fun r => wordBytes r.1)).flatten ++ padMod 4 (rs.map (fun r => BitVec.ofNat 8 (r.2 - 1))))

/-- The compressed registers (R433). -/
def packRegs (rs : List Reg) : Bytes :=
  padMod 4 (rs.map (fun r => BitVec.ofNat 8 r.packed.1)) ++ (rs.map (fun r => r.packed.2)).flatten

/-- A register read back, and the bytes after it. -/
def unpackReg (tag : Nat) (b : Bytes) : Reg × Bytes :=
  match tag % 4 with
  | 0 => (.u (fieldW b 0), b.drop 4)
  | 1 => (.a (fieldW b 0) (fieldW b 4), b.drop 8)
  | _ =>
    let k := tag / 4 + 1
    let lanes := ((List.range k).map (fun i => List.replicate (field b (4 * k + i) 1 + 1) (fieldW b (4 * i)))).flatten
    (.g (lanes.take 32), b.drop (4 * k + (k + 3) / 4 * 4))

/-- `n` registers read back from their compressed form. -/
def unpackRegs (n : Nat) (b : Bytes) : List Reg :=
  ((b.take n).foldl (fun (a : List Reg × Bytes) t =>
    let (r, rest) := unpackReg t.toNat a.2
    (a.1 ++ [r], rest)) ([], b.drop ((n + 3) / 4 * 4))).1

/-- A loop of a tile record (R432). -/
def MLoop.image (l : MLoop) : Bytes :=
  let f (b : Bool) (n : Nat) : Nat := if b then n else 0
  padTo 64 l.mapA ++ padTo 64 l.mapB ++ toBytes 1 l.op ++ toBytes 1 l.shape ++ toBytes 1 l.fc ++
    toBytes 1 (f l.zc 8 + f l.sp 4 + f l.st 2 + f l.ce 1) ++ toBytes 2 l.kc ++ toBytes 2 l.steps ++ toBytes 8 0

/-- A tile record (R432). -/
def Warp.tileImage (w : Warp) (t : Nat) : Bytes :=
  let x := w.tile t
  let ls := w.loops.filter (fun l => l.tile = t)
  ((List.range 1024).map (fun i => wordBytes (x.elems.getD i 0))).flatten ++ wordBytes x.rowMk ++ wordBytes x.colMk ++
    wordBytes (x.word (w.looping t)) ++ toBytes 4 ls.length ++ padTo 576 ((ls.map MLoop.image).flatten)

/-- A log entry (R431). -/
def Warp.logImage (w : Warp) (i : Nat) : Bytes :=
  match w.logs.getD i none with
  | none => []
  | some e =>
    ((List.range 8).map (fun k => wordBytes (w.logWord i k))).flatten ++
      (e.lanes.map (fun l => dwordBytes l.addr ++ ((List.range 14).map (fun k => wordBytes (l.data.getD k 0))).flatten)).flatten

/-- The log entries that are saved. -/
def Warp.savedLogs (w : Warp) : List Nat :=
  (List.range 8).filter (fun i => match w.logs.getD i none with | some e => e.lanes ≠ [] | none => false)

/-- The lit block of a warp (R428). -/
def Warp.litImage (w : Warp) : Bytes :=
  ((List.range 32).map (fun l => wordBytes ((w.lvl.getD 0 []).getD l 0))).flatten ++
    ((List.range 32).map (fun l =>
      ((List.range 16).map (fun k => wordBytes (((w.recs.getD l none).getD []).getD k 0))).flatten)).flatten

/-- A warp record without its size, up to its registers (R428); `parked` the cycles that the watchdog has counted (R414). -/
def Warp.saveHead (w : Warp) (lit : Bool) (parked : Nat) : Bytes :=
  let bar := (List.range 32).findSome? (fun l => match w.waitOf l with
    | .bar id ph _ => if w.live.getLsbD l then some (id, ph) else none
    | _ => none)
  let slp := (List.range 32).findSome? (fun l => match w.waitOf l with
    | .sleep n _ => if w.live.getLsbD l then some n else none
    | _ => none)
  toBytes 1 w.savedLogs.length ++ toBytes 1 ((bar.map Prod.fst).getD 0xFF) ++ toBytes 2 0 ++
    wordBytes ((bar.map Prod.snd).getD 0) ++ toBytes 4 (slp.getD 0) ++ toBytes 4 parked ++ toBytes 32 0 ++
    w.toFrame.image w.help ++ (List.range 32).map (fun l => (w.flags.getD l 0).setWidth 8) ++
    ((List.range 32).map (fun l => wordBytes (w.gens.getD l 0))).flatten ++ wordBytes w.seed ++ toBytes 12 0 ++
    (match w.hframe with
      | some f => ((List.range 16).map (fun k => wordBytes (f.trapRec.getD k 0))).flatten ++ f.image w.help
      | none => List.replicate 960 0) ++
    ((List.range w.acc).map w.tileImage).flatten ++ (if lit then w.litImage else []) ++
    (w.savedLogs.map w.logImage).flatten

/-- A mode's number (R428). -/
def Mode.code : Mode → Nat
  | .user => 0
  | .handler => 1
  | .firmware => 2

/-- A warp record (R428). -/
def Warp.saveImage (w : Warp) (lit : Bool) (parked : Nat) : Bytes :=
  let body := w.saveHead lit parked
  let regs := packRegs w.regs
  let size := (16 + body.length + regs.length + 15) / 16 * 16
  padTo size (toBytes 2 w.wid ++ toBytes 1 w.part ++ toBytes 1 w.mode.code ++ toBytes 2 w.ng ++ toBytes 1 w.nu ++
    toBytes 1 w.acc ++ toBytes 4 size ++ toBytes 4 regs.length ++ body ++ regs)

/-- A bank (R425). -/
def Bank.image (b : Bank) : Bytes :=
  let g := b.cur
  let h := if b.shv then b.shadow else Gen.empty
  let es (x : Gen) : Bytes := padTo 2048 ((x.entries.map dwordBytes).flatten)
  toBytes 2 g.len ++ toBytes 1 g.mode ++ toBytes 1 (if b.shv then 1 else 0) ++ toBytes 2 b.number ++ toBytes 2 h.len ++
    wordBytes g.lo ++ wordBytes g.hi ++ wordBytes g.rs ++ toBytes 1 h.mode ++ toBytes 3 0 ++ wordBytes h.lo ++ wordBytes h.hi ++
    wordBytes h.rs ++ toBytes 12 0 ++ es g ++ es h

/-- A bank set (R425). -/
def bankSetImage (x : Nat × List Bank) : Bytes :=
  toBytes 2 x.1 ++ toBytes 14 0 ++ ((List.range 8).map (fun b => (x.2.getD b Bank.empty).image)).flatten

/-- The words of a barrier (R426), with the cycles that the watchdog has counted. -/
def Barrier.image (b : Barrier) (counted : Nat) : Bytes :=
  wordBytes b.ph ++ toBytes 4 (b.exp + if b.auto then 2 ^ 31 else 0) ++ toBytes 4 b.arr ++
    toBytes 4 (if b.exp = 0 then 0 else counted)

/-- A completion slot (R426). -/
def CSlot.image (c : CSlot) : Bytes :=
  toBytes 2 c.seq ++ toBytes 1 c.kind ++ toBytes 1 (if c.inFlight then 1 else 0) ++ wordBytes c.low ++ wordBytes c.high ++ toBytes 4 0

/-- The merge block (R427). -/
def mergeImage (x : Option Session) : Bytes :=
  match x with
  | none => List.replicate 0xA0 0
  | some x =>
    padTo 64 x.desc ++ (List.range 16).map (fun i => BitVec.ofNat 8 ((x.streams[i]?.bind Stream.bound).getD 0xFF)) ++
      ((List.range 16).map (fun i => wordBytes (x.word (16 + i)))).flatten ++
      ([3, 0, 1, 2].map (fun i => wordBytes (x.word i))).flatten

/-- An engine record (R427). -/
def EngineOp.image (o : EngineOp) : Bytes :=
  toBytes 1 o.op ++ toBytes 1 o.slot ++ toBytes 1 o.wid ++ [0] ++ toBytes 4 o.parked.length ++ toBytes 8 0 ++
    padTo 160 (if o.desc = [] then dwordBytes o.addr ++ toBytes 4 o.arg else o.desc) ++ toBytes 80 0

/-- A parked element in the layout of R409: its entry among those of the lanterns' queues, or one still to enter. -/
def parkedImage (es : List FaultEntry) (g : Group) (o : EngineOp) (p : Parked) : Bytes :=
  let kind := if o.op = 0xD3 then 1 else 2
  let e := es.find? (fun e => e.grp = g.uid && e.wslot = o.slot && e.idx = p.index && e.kind = kind)
  dwordBytes p.va ++ toBytes 4 g.ctx ++ toBytes 1 kind ++ toBytes 1 (kind - 1) ++ toBytes 2 0 ++ toBytes 2 g.col ++
    toBytes 1 o.slot ++ [0] ++ toBytes 4 p.index ++ toBytes 4 ((e.map FaultEntry.stat).getD 0) ++
    toBytes 4 ((e.map FaultEntry.seq).getD 0)

/-- A group record (R426); `lidx` its launch table entry, `bset` its bank set. -/
def Group.saveImage (g : Group) (es : List FaultEntry) (lidx bset : Word) (now : Nat) : Bytes :=
  let warps := (g.warps.filter (fun w => !w.retired))
  let ws := (warps.map (fun w => w.saveImage g.lit.isSome (g.longestPark w now))).flatten
  let ops := (g.ops.map EngineOp.image).flatten
  let parks := (g.ops.map (fun o => (o.parked.map (parkedImage es g o)).flatten)).flatten
  let size := 0x880 + g.scrSize + ops.length + parks.length + ws.length
  let f (b : Bool) (n : Nat) : Nat := if b then n else 0
  toBytes 4 g.gid ++ wordBytes lidx ++ wordBytes bset ++ toBytes 2 g.wcount ++ toBytes 2 warps.length ++ toBytes 4 g.scrSize ++
    toBytes 4 g.ops.length ++ toBytes 4 (g.ops.map (fun o => o.parked.length)).sum ++
    toBytes 1 ((g.bindings.map (2 ^ ·)).sum) ++
    toBytes 1 (f g.coItem.isSome 1 + f g.lit.isSome 2 + f (warps.any (fun w => w.mode = .handler)) 4) ++ toBytes 2 0 ++
    toBytes 4 ((g.lit.map Prod.fst).getD 0) ++ wordBytes ((g.lit.map Prod.snd).getD 0) ++ toBytes 8 size ++ toBytes 80 0 ++
    ((List.range 16).map (fun i => wordBytes (g.gregs.getD i 0))).flatten ++
    ((List.range 16).map (fun i => (g.bar i).image (g.elapsed (fun _ => true) (g.bar i).t0 now))).flatten ++
    ((List.range 64).map (fun i => (g.ctab[i]?.map CSlot.image).getD (List.replicate 16 0))).flatten ++ mergeImage g.session ++
    (List.range 512).map (fun i => BitVec.ofNat 8 (((List.range 8).filter (fun j => !g.absent.contains (8 * i + j))).map (2 ^ ·)).sum) ++
    toBytes 32 0 ++ g.scr.read 0 g.scrSize ++ ops ++ parks ++ ws

/-- An entry of the launch table (R424). -/
def Launch.image (l : Launch) : Bytes :=
  dwordBytes l.lrec ++ toBytes 4 l.next ++ toBytes 4 l.total ++ toBytes 4 l.alive ++ toBytes 4 l.qid ++ toBytes 8 0

/-- The save area of a context (R423): its groups, bank sets and launches. -/
def State.saveArea (s : State) (c : Ctx) (gs : List Group) (banks : List (Nat × List Bank)) : Bytes :=
  let now := s.clock.toNat
  let ls := s.launches.filter (fun l => l.ctx = c.id)
  let at' (p : Nat → Bool) (n : Nat) : Word := match (List.range n).find? p with
    | some i => BitVec.ofNat 32 i
    | none => Config.unstated s.fresh
  let recs := (gs.map (fun g => g.saveImage s.faultq.flatten
    (at' (fun i => g.lit.isNone && (ls[i]?.map Launch.uid) = some g.launch) ls.length)
    (at' (fun i => recCB g.record && (banks[i]?.map Prod.fst) = some g.col) banks.length) now)).flatten
  let lt := (ls.map Launch.image).flatten
  let bs := (banks.map bankSetImage).flatten
  let boff := 256 + lt.length
  let goff := boff + bs.length
  let size := goff + recs.length
  let flags := (if c.pass.isSome then 3 else 0) + if c.halted then 4 else 0
  let head (crc : Word) : Bytes := padTo 256 (
    toBytes 4 0x5343574B ++ toBytes 2 1 ++ toBytes 2 0 ++ toBytes 8 size ++ toBytes 4 c.id ++ toBytes 4 gs.length ++
      toBytes 4 banks.length ++ toBytes 4 ls.length ++ toBytes 8 256 ++ toBytes 8 boff ++ toBytes 8 goff ++
      dwordBytes ((c.pass.map Pass.addr).getD 0) ++ toBytes 4 flags ++ wordBytes c.tseq ++ dwordBytes s.ftime ++ wordBytes crc)
  let body := lt ++ bs ++ recs
  head (crc32 (head 0 ++ body)) ++ body

/-- The key of the first byte of a context's save area. -/
def Ctx.saveKey (c : Ctx) : Nat := gddrKey (bits c.save 54 2).toNat (bits c.save 0 54).toNat

end Sys2Proof.Machine
end

