-- ==== Sys2Proof/Machine/Preempt.lean ====
section
/-! DEFINITION. Pre-emption and the scheduler: CONTEXT_SAVE, CONTEXT_SAVE_COMPLETE, resume, SCHEDULING_BOUNDARY and
MAXRT_EXCEEDED (R417-R422, R440, R449, R450). -/

namespace Sys2Proof.Machine

/-! ### The start of a save (R417) -/

/-- The two conditions of R417. -/
def State.mayBegin (s : State) (c : Ctx) : Bool :=
  s.launches.all (fun l => l.ctx ≠ c.id || recPre l.record) && s.groups.all (fun g => g.ctx ≠ c.id || recPre g.record) &&
    (match c.pass with
      | some p => p.openedAt + 240000 < s.clock.toNat
      | none => true)

/-- CONTEXT_SAVE (R417, R418): the context stops issuing; causes kept before go with it. -/
def execContextSave (ctx : Nat) (s : State) : Host.Outcome State Fault Refusal :=
  match s.ctx ctx with
  | none => .next s
  | some c =>
    match c.phase with
    | .saveRequested byHost _ =>
      if !s.mayBegin c then .next s else .next (s.beginSave ctx byHost)
    | _ => .next s

/-! ### The drains (R418) -/

/-- A flight may stand over a save: it belongs to lanes of a log entry, to an engine operation or to a loop that stops at a
step. -/
def Warp.mayStand (w : Warp) (f : Flight) : Bool :=
  f.log.isSome || (match f.kind with
    | .engine _ => true
    | .loop t => !w.loops.any (fun l => l.tile = t && l.flight = f.id && l.ce)
    | _ => false)

/-- A slot that its partition has not issued in its turn, in a warp of a context that is being saved whose other operations are
done, waits for lanes of a log entry: its PC group stops at once, at the slot (R418 step 1). -/
def State.stopHeld (before s : State) (col part : Nat) : State :=
  let at' (s : State) : Option Running := ((s.column col).parts[part]?).bind Partition.running
  match at' before, at' s with
  | some r, some r' =>
    (match s.group r.grp with
      | some g =>
        (match g.warp r.wid, (s.ctx g.ctx).map Ctx.phase with
          | some w, some (.saving ..) =>
            if r.idx = r'.idx && r.pc = r'.pc && w.logs.any Option.isSome && w.flights.all w.mayStand && w.unack = [] then
              (s.updWarp g.uid w.wid (fun w => w.stopAt r.lanes r.idx .none)).stopIssue g w
            else s
          | _, _ => s)
      | none => s)
  | _, _ => s

/-- Steps 1 to 4 are done for a group (R418). -/
def State.groupDrained (s : State) (g : Group) : Bool :=
  g.warps.all (fun w => !s.issuing g w && w.entering.isNone && w.flights.all w.mayStand && w.unack = []) &&
    g.ops.all (fun o => (o.op ≤ 0xD3 || o.op = 0xD6) && o.sent = [])

/-- The work of the raster engines is done for a save (R379). -/
def Ctx.rasterDrained (c : Ctx) : Bool :=
  c.waitRecs = [] && (match c.pass with
    | some p => p.work = [] && p.subs = []
    | none => true)

/-- The tiles of a pass written to its spill area (R379), all of them or none where one waits: RASTER tiles are spilled, CLOSED and CLASSIFYING ones keep their
state and handle. -/
def State.spillTiles (s : State) (ctx : Nat) : List Nat → Dev State
  | [] => .ok s
  | t :: rest =>
    match (s.ctx ctx).bind Ctx.pass with
    | none => .ok s
    | some p =>
      match p.tile t with
      | none => s.spillTiles ctx rest
      | some x =>
        if !x.resident then s.spillTiles ctx rest
        else
          match s.devWrite ctx 0xFFFF (tileSpillAt p.desc t) (tileImage p.desc x) with
          | .ok u =>
            let y := if x.state = .raster then { x with state := .spilled, handle := 0, image := [] } else x
            (u.setPass ctx { p.setTile y with spills := p.spills + 1 }).spillTiles ctx rest
          | r => r

/-- The open sessions of a context write their partitions out as runs (R334); one that has closed stays as it is. -/
def State.spillSessions (s : State) : List Nat → Dev State
  | [] => .ok s
  | uid :: rest =>
    match s.group uid with
    | none => s.spillSessions rest
    | some g =>
      match g.session with
      | none => s.spillSessions rest
      | some x =>
        if x.state ≠ .opened then s.spillSessions rest
        else
          match Unit.spillAll { s, g, sent := [] } x (List.range x.streams.length) with
          | .ok u x => (u.s.setGroup { u.g with session := some { x with state := .waiting } }).spillSessions rest
          | .full x _ => (s.setGroup { g with session := some { x with state := .waiting } }).spillSessions rest
          | .wait => .wait s
          | .miss va => .wait (s.queueFault (match g.ops.find? (fun o => o.op = 0xD6) with
            | some o => engineFault g o 4 1 0 va
            | none => { taperFault g va with acc := 1 }))

/-! ### The end of a save (R423) -/

/-- A group as it is kept while its context is saved: its locks go with it. -/
def Group.kept (g : Group) (k : Column) : Group :=
  { g with savedLocks := k.locks.filterMap (fun l => match l with
      | some x => if x.grp = g.uid then some x else none
      | none => none) }

/-- The bank sets of a context by column (R425). -/
def State.bankSets (s : State) (ctx : Nat) : List (Nat × List Bank) :=
  (List.range Config.nColumns).filterMap (fun c =>
    if (s.bankGroups c).any (fun g => g.ctx = ctx) then some (c, (s.column c).banks) else none)

/-- A warp whose results are written but for the lanes of its log entries (R418 step 2, R433). -/
def Warp.settled (w : Warp) : Warp :=
  w.flights.foldl (fun w f =>
    match (f.log.bind (fun i => w.logs.getD i none)) with
    | none => w
    | some e => f.dests.foldl (fun w d => match d with
      | .vec r lanes v =>
        if lanes &&& ~~~e.threads = 0 then w
        else w.setReg r (.g ((List.range 32).map (fun l => if e.threads.getLsbD l then w.rd r l else v.get l)))
      | .mask .. => w) w) w

/-- The area is written, as far as it reaches, and the context's resources are freed (R418 step 6, R423). -/
def State.writeSave (s : State) (c : Ctx) (byHost : Bool) : State :=
  let gs := (s.groups.filter (fun g => g.ctx = c.id)).map (fun g =>
    ({ g with warps := g.warps.map Warp.settled } : Group).kept (s.column g.col))
  let banks := s.bankSets c.id
  let area := (s.saveArea c gs banks).take c.saveSize
  let gone (uid : Nat) : Bool := gs.any (fun g => g.uid = uid)
  let s : State := { s with
    mem := s.mem.storeAll [(c.saveKey, area)]
    fresh := s.fresh + 1
    columns := s.columns.map (fun k => k.release c.id gone)
    groups := s.groups.filter (fun g => g.ctx ≠ c.id) }
  s.setCtx { c with phase := .saved byHost, savedGroups := gs, savedBanks := banks, savedAt := s.clock.toNat }

/-- The cause that ends a context during its save (R418). -/
def State.saveCause (s : State) (ctx : Nat) : Option (Nat × Nat × Cause) :=
  (s.groups.filter (fun g => g.ctx = ctx)).findSome? (fun g => g.warps.findSome? (fun w =>
    w.causes.head?.map (fun k => (g.uid, w.wid, k))))

/-- CONTEXT_SAVE_COMPLETE (R418, R423). -/
def execContextSaveComplete (ctx : Nat) (s : State) : Host.Outcome State Fault Refusal :=
  match s.ctx ctx with
  | none => .next s
  | some c =>
    match c.phase with
    | .saving byHost _ =>
      match s.saveCause ctx with
      | some (uid, wid, k) => .next (s.deliver uid wid k k.cap)
      | none =>
        if !(s.groups.all (fun g => g.ctx ≠ ctx || s.groupDrained g)) || !c.rasterDrained then .next s
        else
          match s.spillSessions ((s.groups.filter (fun g => g.ctx = ctx)).map Group.uid) with
          | .wait t => done t
          | .fail t k a => done (t.killCtx ctx k 0 a [])
          | .ok s =>
            match s.spillTiles ctx (((c.pass.map Pass.tiles).getD []).map STile.index) with
            | .wait t => done (s.waitingFor t)
            | .fail t k a => done (t.killCtx ctx k 0 a [])
            | .ok t =>
              match t.ctx ctx with
              | none => done t
              | some c => done (t.writeSave c byHost)
    | _ => .next s

/-! ### Resume (R421, R422) -/

/-- A waiting thread after a resume (R430): it waits on under its barrier or its sleep, and at a collective with the time it
had waited, `since` of the cycle in which it parked (R414); anything else is tried again at its slot.  DESIGN CHOICE (log entry
124): each thread goes on from its own count, the save area having one for the warp. -/
def Wait.resumed (w : Wait) (since : Wait → Nat → Nat) : Wait :=
  match w with
  | .bar i p n => .bar i p n
  | .barw i p => .barw i p
  | .sleep n k => .sleep n k
  | .barColl i t => .barColl i (since (.barColl i t) t)
  | .coll o t => .coll o (since (.coll o t) t)
  | .round t => .round (since (.round t) t)
  | _ => .none

/-- A flight whose lanes stand in a log entry, after a resume: its destinations are pending again (R418), and lanes outside the
entry hold what the save area gave them. -/
def Warp.pendingAgain (w : Warp) (f : Flight) : Flight :=
  match (f.log.bind (fun i => w.logs.getD i none)) with
  | none => f
  | some e => { f with dests := f.dests.map (fun d => match d with
      | .vec r lanes v =>
        if lanes &&& ~~~e.threads = 0 then d
        else .vec r lanes (.g ((List.range 32).map (fun l => if e.threads.getLsbD l then v.get l else w.rd r l)))
      | .mask .. => d) }

/-- A warp back on a core, with registers as the save area holds them. -/
def Warp.resumed (w : Warp) (part slot : Nat) (since : Wait → Nat → Nat) (regs : List Reg) : Warp :=
  let w : Warp := { w with
    part, slot, regs, wait := w.wait.map (fun x => x.resumed since), causes := w.stash ++ w.causes, stash := []
    hframe := w.hframe.map (fun f => { f with wait := f.wait.map (fun x => x.resumed since) }) }
  { w with flights := w.flights.map w.pendingAgain }

/-- A stopped engine operation issued again from its start (R334). -/
def EngineOp.again (o : EngineOp) (now : Nat) : EngineOp :=
  if o.op ≤ 0xD3 then
    { o with written := [], parked := [], refused := [], got := 0, det := 0, err := 0, cause := 0, start := now, result := none, sent := [] }
  else o

/-- The registers of each warp of the group records of an area, from an offset on (R426, R428, R433). -/
def areaRegs (area : Bytes) : Nat → List Group → List (List (List Reg))
  | _, [] => []
  | off, g :: t =>
    let ops := field area (off + 0x14) 4
    let parks := field area (off + 0x18) 4
    let warps := g.warps.filter (fun w => !w.retired)
    let start := off + 0x880 + g.scrSize + 256 * ops + 32 * parks
    let one := (warps.foldl (fun (a : List (List Reg) × Nat) w =>
      let size := field area (a.2 + 8) 4
      let head := (16 + (w.saveHead g.lit.isSome 0).length)
      (a.1 ++ [unpackRegs w.regs.length ((area.drop (a.2 + head)).take (size - head))], a.2 + size)) ([], start)).1
    one :: areaRegs area (off + field area (off + 0x28) 8) t

/-- A group back on a column: its watchdogs go on from the counts saved (R414). -/
def Group.resumed (g : Group) (col p0 savedAt now : Nat) (ws : List Warp) : Group :=
  let since (t : Nat) : Nat := now - g.elapsed (fun _ => true) t savedAt
  { g with
    col, p0, warps := ws, pauses := []
    bars := g.bars.map (fun b => { b with t0 := since b.t0 })
    regrp := g.regrp.map (fun r => { r with since := since r.since })
    ops := g.ops.map (fun o => o.again now)
    absent := (g.absent ++ (g.ops.map EngineOp.cleared).flatten).eraseDups, savedLocks := [] }

/-- The column takes the locks and the session of a group that comes back (R308, R334): its operations are issued again now, in
the order in which they were. -/
def Column.regain (k : Column) (g : Group) (now : Nat) : Column :=
  let k := (g.savedLocks.mergeSort (fun a b => a.start ≤ b.start)).foldl (fun (k : Column) l =>
    match k.locks.findIdx? Option.isNone with
    | some i => { k with locks := k.locks.set i (some { l with start := now }) }
    | none => k) k
  match g.session with
  | some x => if x.state = .waiting then { k with mergeWait := k.mergeWait ++ [g.uid] } else k
  | none => k

/-- The core of a bank set: an empty one takes the set, the core that has taken it takes more of its groups (R421). -/
def State.bankPlace (s : State) (moved : List (Nat × Nat)) (g : Group) (col : Nat) : Bool :=
  !recCB g.record ||
    (match moved.find? (fun m => m.1 = g.col) with
      | some m => m.2 = col
      | none => (s.bankGroups col).isEmpty && !moved.any (fun m => m.2 = col))

/-- The operations of a group of the class of an opcode (R306). -/
def Group.opsLike (g : Group) (op : Nat) : Nat := g.ops.countP (fun o => engineLimit o.op = engineLimit op)

/-- The groups of a context placed one after another (R421), where a core has room for their stopped operations too (R306, R334);
none when a group finds no core. -/
def State.putBack (s : State) (c : Ctx) (moved : List (Nat × Nat)) : List (Group × List (List Reg)) → Option State
  | [] => some s
  | (g, regs) :: t =>
    let live := g.warps.filter (fun w => !w.retired)
    let n := (live.map (fun w => w.wid + 1)).foldl max 0
    let home (col : Nat) : Bool := match s.launchOf g.launch with
      | some l => g.lit.isSome || l.homeOk g.gid col
      | none => true
    let place (col : Nat) : Option Nat :=
      if home col && s.bankPlace moved g col && (s.column col).locks.countP Option.isNone ≥ g.savedLocks.length &&
          [0xD0, 0xD3].all (fun op => !s.engineShort col op (g.opsLike op)) then
        let on := s.groups.countP (fun h => h.col = col && h.ctx = c.id)
        let p0 := on * n % 8
        if s.hasRoom col p0 n g.record then some p0 else s.spread col n (fun p0 => s.hasRoom col p0 n g.record)
      else none
    let spots := (List.range Config.nColumns).filterMap (fun col => (place col).map (fun p => (col, p)))
    match spots[Config.placement s.fresh % spots.length]? with
    | none => none
    | some (col, p0) =>
      let now := s.clock.toNat
      let put (w : Warp) (i : Nat) (ws : List Warp) : Warp :=
        let part := (p0 + w.wid) % 8
        let used := (s.partWarpsOf col part).map Warp.slot ++ (ws.filter (fun x => x.part = part)).map Warp.slot
        w.resumed part (((List.range Config.nSlots).find? (fun k => !used.contains k)).getD 0)
          (fun x t => now - g.elapsed (fun i => i = w.wid || x.regroups) t c.savedAt) (regs.getD i w.regs)
      let ws := (((List.range live.length).zip live).foldl (fun ws x => ws ++ [put x.2 x.1 ws]) []) ++ g.warps.filter Warp.retired
      let h := (g.resumed col p0 c.savedAt now ws).phases
      let first := recCB g.record && !moved.any (fun m => m.1 = g.col)
      let s : State := { s with groups := s.groups ++ [h], fresh := s.fresh + 1 }
      let s := s.updColumn col (fun k =>
        let k := k.regain g now
        if first then { k with
            banks := ((c.savedBanks.find? (fun b => b.1 = g.col)).map Prod.snd).getD k.banks
            bankOwner := some (c.id, recCbpre g.record, recCbmask g.record) }
        else k)
      let s := s.updLaunch g.launch (fun l =>
        if g.lit.isSome then l
        else
          let r := l.settle g.gid col
          { r with alive := l.alive })
      s.putBack c (if first then (g.col, col) :: moved else moved) t

/-- The tiles of a saved pass come back under their handles (R379). -/
def State.reloadSaved (s : State) (ctx : Nat) : List Nat → Dev State
  | [] => .ok s
  | t :: rest =>
    match (s.ctx ctx).bind Ctx.pass with
    | none => .ok s
    | some p =>
      match p.tile t with
      | none => s.reloadSaved ctx rest
      | some x =>
        if !x.resident then s.reloadSaved ctx rest
        else
          match s.reloadTile ctx p x x.state x.handle with
          | .ok u => u.reloadSaved ctx rest
          | r => r

/-- The bank sets keep generation numbers apart from those of the core that takes them (R192). -/
def renumber (base : Nat) (bs : List Bank) : List Bank :=
  (List.range bs.length).zip bs |>.map (fun x =>
    { x.2 with cur := { x.2.cur with uid := base + 2 * x.1 }, shadow := { x.2.shadow with uid := base + 2 * x.1 + 1 } })

/-- A saved context resumes, if R421 can be met (R422). -/
def State.resume (s : State) (c : Ctx) : Option (Dev State) :=
  let area := (s.mem.read c.saveKey c.saveSize)
  let whole := field area 8 8 ≤ c.saveSize
  let regs := if whole then areaRegs area (field area 0x30 8) c.savedGroups else []
  let clear : State := { s with launches := s.launches.map (fun l => if l.ctx = c.id then { l with homes := [] } else l) }
  match clear.putBack c [] ((List.range c.savedGroups.length).zip c.savedGroups |>.map (fun x => (x.2, regs.getD x.1 []))) with
  | none => none
  | some t =>
    let top := (t.columns.map Column.nextGen).foldl max 0
    let mine := (t.groups.filter (fun g => g.ctx = c.id && recCB g.record)).map Group.col
    let t : State := { t with columns := (List.range t.columns.length).zip t.columns |>.map (fun x =>
      if mine.contains x.1 then { x.2 with banks := renumber top x.2.banks, nextGen := top + 16 } else x.2) }
    let t := t.updCtx c.id (fun c => { c with
      phase := .running, savedGroups := [], savedBanks := [], resumedAt := s.clock.toNat, halted := false
      pass := c.pass.map (fun p => { p with openedAt := p.openedAt + (s.clock.toNat - c.savedAt) }) })
    some (t.reloadSaved c.id (((c.pass.map Pass.tiles).getD []).map STile.index))

/-! ### The scheduler (R440, R449, R450) -/

/-- A queue is pending (R449). -/
def Queue.isPending (q : Queue) : Bool := q.wptr ≠ q.rptr && !q.stopped

/-- A launch of the queue runs. -/
def State.launching (s : State) (q : Queue) : Bool := s.launches.any (fun l => l.qid = q.qid)

/-- Nothing of a context runs or stands in a queue of the distributor: no clause of it is fetched. -/
def State.fetchIdle (s : State) (ctx : Nat) : Bool :=
  s.launches.all (fun l => l.ctx ≠ ctx) && s.groups.all (fun g => g.ctx ≠ ctx) &&
    (match s.ctx ctx with | some c => c.lits = [] && c.bins.all (fun b => b.recs = []) && c.savedGroups = [] | none => true)

/-- `WPTR` of a mapped or woken queue is read (R449 item 1), and the queue is pending where commands stand in it; a header that
waits leaves its queue not pending.  Commands found while nothing of the context runs are launches submitted: they see code as
it stands (R81). -/
def State.readWptr (s : State) (q : Queue) : State :=
  if !(q.mapped || s.wakes.contains q.header || s.wakeAll) || s.clock = 0 then
    s.updQueue q.qid (fun q => { q with pending := q.isPending })
  else
    match s.devRead q.ctx 0xFFFF (q.header + 0x0C) 4 with
    | .ok b =>
      let t := (s.accessed q.ctx (q.header + 0x0C) 4).updQueue q.qid (fun q =>
        let q := { q with wptr := fieldW b 0 }
        { q with pending := q.isPending })
      if fieldW b 0 ≠ q.wptr && s.fetchIdle q.ctx then t.updCtx q.ctx (fun c => { c with oldCode := some s.mem }) else t
    | .wait t => t.updQueue q.qid (fun q => { q with pending := false })
    | .fail t c a => t.killCtx q.ctx c 0 a []

/-- The headers whose reads wait, of queues that are mapped or were woken: they are read again at the next boundary (R486). -/
def State.stillWoken (s : State) : List Dword :=
  (s.queues.filter (fun q => (q.mapped || s.wakes.contains q.header || s.wakeAll) &&
    (match s.devRead q.ctx 0xFFFF (q.header + 0x0C) 4 with | .wait _ => true | _ => false))).map Queue.header

/-- The context of a queue exists and has not ended. -/
def State.alive (s : State) (ctx : Nat) : Bool :=
  match s.ctx ctx with
  | some c => !c.phase.over
  | none => false

/-- Items 2 and 3 of R449 for one queue. -/
def State.unmapQueue (s : State) (q : Queue) : State :=
  let off (s : State) : State := s.updQueue q.qid (fun q => { q with mapped := false, unmappedAt := s.clock.toNat })
  let ended := q.sliceLeft ≤ 1
  let rival := s.queues.any (fun r => r.qid ≠ q.qid && !r.mapped && r.pending && !r.stopped && q.prio ≤ r.prio)
  if !q.mapped then s
  else if !(q.pending && !q.stopped) && !s.launching q then off s
  else if ended && rival then off s
  else s.updQueue q.qid (fun q => { q with sliceLeft := q.sliceLeft - 1 })

/-- Pending unmapped queues in the order of item 4 of R449. -/
def State.mapOrder (s : State) : List Queue :=
  let ps := s.queues.filter (fun q => !q.mapped && q.pending && !q.stopped)
  ((List.range 8).reverse.map (fun p =>
    (ps.filter (fun q => q.prio = p)).mergeSort (fun a b => a.unmappedAt ≤ b.unmappedAt))).flatten

/-- Item 4 of R449. -/
def State.mapQueues (s : State) : State :=
  let free := Config.hwSlots - s.queues.countP Queue.mapped
  ((s.mapOrder).take free).foldl (fun s q => s.updQueue q.qid (fun q => { q with mapped := true, sliceLeft := q.slice })) s

/-- The priority of a context (R450): the highest among its pending queues; 0 without one. -/
def State.prioOf (s : State) (ctx : Nat) : Nat :=
  ((s.queues.filter (fun q => q.ctx = ctx && q.pending && !q.stopped)).map Queue.prio).foldl max 0

/-- Work that the distributor has still to place: groups of a launch, or a lit group of a context. -/
inductive Unplaced where
  | launch (l : Launch)
  | lit (ctx : Nat) (x : Lit)

/-- The context whose work it is. -/
def Unplaced.owner : Unplaced → Nat
  | .launch l => l.ctx
  | .lit c _ => c

/-- The core could take it now. -/
def Unplaced.fits (x : Unplaced) (s : State) (col : Nat) : Bool :=
  match x with
  | .launch l => (match s.pullLaunch col 0 l with | .no => false | .yes _ => true)
  | .lit ctx x => x.lan = lanternOf col && (s.startPart col 0 x.warps ctx x.record).isSome

/-- Groups claimable and unplaced, since the start of the preceding slot where `old`, with their priorities (R450). -/
def State.unplaced (s : State) (old : Bool) : List (Nat × Unplaced) :=
  let long (t : Nat) : Bool := !old || t + Config.boundaryCycles ≤ s.clock.toNat
  ((s.launches.filter (fun l => l.next < l.total && s.places l.ctx && (match l.claimableSince with | some t => long t | none => !old))).map
    (fun l => (((s.queueOf l.qid).map Queue.prio).getD 0, Unplaced.launch l))) ++
  ((s.contexts.filter (fun c => c.phase = .running)).map (fun c =>
    (c.lits.filter (fun x => long x.litAt)).map (fun x => (s.prioOf c.id, Unplaced.lit c.id x)))).flatten

/-- A save is requested or in progress. -/
def CtxPhase.saves : CtxPhase → Bool
  | .saveRequested .. => true
  | .saving .. => true
  | _ => false

/-- The contexts of lower priority that hold the cores which some unplaced work of priority `p` needs: it fits nowhere now, and
fits a core of theirs once their groups are away (R450). -/
def State.holders (s : State) (p : Nat) (x : Unplaced) : List Ctx :=
  let cs := s.contexts.filter (fun c => c.phase = .running && s.prioOf c.id < p)
  let away : State := { s with groups := s.groups.filter (fun g => !cs.any (fun c => c.id = g.ctx)) }
  let held := (s.groups.map Group.col).eraseDups
  if (List.range Config.nColumns).any (x.fits s) then []
  else
    let cores := held.filter (x.fits away)
    cs.filter (fun c => s.groups.any (fun g => g.ctx = c.id && cores.contains g.col))

/-- R450: the save of the context of lowest priority that holds cores which starving work needs is requested, of the one resumed
longest ago among equals. -/
def State.requestSave (s : State) : State :=
  if s.contexts.any (fun c => c.phase.saves) then s
  else
    let cs := ((s.unplaced true).map (fun x => s.holders x.1 x.2)).flatten
    let pick := cs.foldl (fun (b : Option Ctx) c => match b with
      | none => some c
      | some x =>
        if s.prioOf c.id < s.prioOf x.id || (s.prioOf c.id = s.prioOf x.id && c.resumedAt < x.resumedAt) then some c else b) none
    match pick with
    | none => s
    | some c => s.setCtx { c with phase := .saveRequested false s.clock.toNat }

/-- A saved context resumes where it can (R421, R422); a wait for a translation leaves it saved. -/
def State.tryResume (s : State) (c : Ctx) : State :=
  match s.resume c with
  | none => s
  | some (.ok t) => t
  | some (.wait t) => s.waitingFor t
  | some (.fail _ k a) => s.killCtx c.id k 0 a []

/-- The saved contexts resume whose priority is the highest among those of contexts that wait for cores (R450), each if its
groups find them; a context saved by the host waits for CTXRUN. -/
def State.resumeNext (s : State) : State :=
  let waiting := s.contexts.filter (fun c => c.phase = .saved false)
  let top := (waiting.map (fun c => s.prioOf c.id) ++ (s.unplaced false).map (fun x => s.prioOf x.2.owner)).foldl max 0
  (waiting.filter (fun c => s.prioOf c.id = top)).foldl State.tryResume s

/-- The run-time counts of launches with a placed group (R440). -/
def State.countRuntime (s : State) : State :=
  { s with launches := s.launches.map (fun l =>
      if s.groups.any (fun g => g.launch = l.uid && g.lit.isNone) then { l with runtime := l.runtime + 1 } else l) }

/-- Launches whose groups wait from this boundary on (R450). -/
def State.noteClaimable (s : State) : State :=
  { s with launches := s.launches.map (fun l =>
      if l.next < l.total then (if l.claimableSince.isSome then l else { l with claimableSince := some s.clock.toNat })
      else { l with claimableSince := none }) }

/-- SCHEDULING_BOUNDARY (R440, R449, R450), once for each multiple of 76,800 cycles. -/
def execSchedulingBoundary (s : State) : Host.Outcome State Fault Refusal :=
  let now := s.clock.toNat
  let last := s.lastBoundary.toNat
  if now / Config.boundaryCycles = last / Config.boundaryCycles || s.phase ≠ .ready then .next s
  else
    let t := s.settle
    let s := t.queues.foldl State.readWptr t
    let s : State := { s with wakes := t.stillWoken, wakeAll := false, lastBoundary := s.clock }
    let s := s.queues.foldl State.unmapQueue s
    let s := s.mapQueues
    done (s.countRuntime.noteClaimable.requestSave.resumeNext)

/-- MAXRT_EXCEEDED (R440). -/
def execMaxrtExceeded (launch : Nat) (s : State) : Host.Outcome State Fault Refusal :=
  match s.launchOf launch with
  | none => .next s
  | some l =>
    let limit := field l.record 0x18 4
    if limit = 0 || l.runtime ≤ limit then .next s
    else .next (s.killCtx l.ctx 0x51 0 0 [0xFFFF0001#32])

end Sys2Proof.Machine
end

