-- ==== Sys2Proof/Machine/Pelonar.lean ====
section
/-! DEFINITION. The Pelonar command set (R474-R485). -/

namespace Sys2Proof.Machine

/-! ### Serving a command (R462, R473, R474) -/

/-- The codes of R475. -/
def pelonarCodes : List Nat :=
  [ 0x0001, 0x0002, 0x0003, 0x0010, 0x0011, 0x0012, 0x0013, 0x0014, 0x0020, 0x0021, 0x0022, 0x0030, 0x0031, 0x0032, 0x0033
  , 0x0040, 0x0041, 0x0050, 0x0051, 0x0060, 0x0061, 0x0070, 0x0071 ]

/-- What a command comes to: its status and results, or it goes on. -/
inductive Served where
  | over (s : State) (status : Nat) (results : Bytes)
  | busy (s : State)

/-- The command in service completes. -/
def State.endCommand (s : State) (cmd : Bytes) (status : Nat) (results : Bytes) : State :=
  ({ s with serving := none, begun := false, mbst := s.mbst &&& 6 } : State).respond cmd status results

/-- A byte of a command that its arguments do not use is not 0 (R474). -/
def strayBytes (cmd : Bytes) (uses : List (Nat × Nat)) : Bool :=
  !zeroField cmd 2 2 ||
    ((cmd.drop 8).take 248).zipIdx.any (fun x => x.1 ≠ 0 && !uses.any (fun u => u.1 ≤ x.2 + 8 && x.2 + 8 < u.1 + u.2))

/-- One step of a command of some code, if it is the one in service.  An unknown code is answered by whatever step meets
it; while a start runs, and after one has halted, only the commands that `during` admits are served. -/
def State.serve (s : State) (code : Nat) (mine : Bytes → Bool) (uses : List (Nat × Nat)) (during : Bool)
    (run : State → Bytes → Served) : State :=
  match s.serving with
  | none => s
  | some cmd =>
    if !pelonarCodes.contains (field cmd 0 2) then s.endCommand cmd 1 []
    else if field cmd 0 2 ≠ code || !mine cmd then s
    else if s.phase ≠ .ready && !during then s.endCommand cmd 4 []
    else if strayBytes cmd uses then s.endCommand cmd 2 []
    else
      match run s cmd with
      | .over t status results => t.endCommand cmd status results
      | .busy t => t

/-- Any command of the code. -/
def anyCmd (_ : Bytes) : Bool := true

/-- A byte of the command selects the step; a value that neither step has belongs to the first (`first`). -/
def byteIs (off v : Nat) (first : Bool) (cmd : Bytes) : Bool :=
  field cmd off 1 = v || (first && 1 < field cmd off 1)

/-- The context that a command names at byte 8. -/
def State.cmdCtx (s : State) (cmd : Bytes) : Option Ctx := s.ctx (field cmd 8 4)

/-- Bytes of host memory. -/
def State.hostRead (s : State) (va : Dword) (n : Nat) : Bytes := s.mem.read (hostKey va.toNat) n
def State.hostWrite (s : State) (va : Dword) (b : Bytes) : State := { s with mem := s.mem.storeAll [(hostKey va.toNat, b)] }

/-! ### The module (R475, R476) -/

/-- The start state, the failing step. -/
def StartPhase.codes : StartPhase → Nat × Nat
  | .ready => (1, 0)
  | .halted k => (2, k)
  | _ => (0, 0)

/-- The switch state of the id (R476): an id that its module has left is not trained. -/
def SwitchState.code : SwitchState → Nat
  | .joined => 0
  | .departing => 1
  | .drained => 2
  | .absent => 0xFF
  | .joining => 4
  | .untrained => 0xFF

/-- STATUS. -/
def execStatus (s : State) : Host.Outcome State Fault Refusal :=
  .next (s.serve 0x01 anyCmd [] true (fun s _ =>
    let (st, step) := s.phase.codes
    .over s 0 (toBytes 1 st ++ toBytes 1 step ++ toBytes 1 ((if s.fallback then 1 else 0) + (if s.holdover then 2 else 0)) ++ [0] ++
      wordBytes s.gen ++ toBytes 1 s.devid ++ toBytes 1 s.switch.code)))

/-- The start that a RESET asks for (R473): every context is terminated, those too whose clauses still issue, and the mailbox
serves while it runs. -/
def State.reset' (s : State) (cmd : Bytes) (start : State → State) : Served :=
  let t := s.killWhere (fun _ => true) 0x51 [0xFFFF0004#32]
  let t := t.contexts.foldl (fun (t : State) c => match c.phase with
    | .ending rec cap _ => t.endCtx c.id rec cap
    | _ => t) t
  .busy (start { t with resetCmd := some cmd, serving := none, begun := false, mbst := t.mbst &&& 6 })

/-- RESET with mode 0 (R471, R473); a start that runs refuses it, a halted one does not. -/
def execResetCold (report : StartReport) (s : State) : Host.Outcome State Fault Refusal :=
  let halted := match s.phase with | .halted _ => true | _ => false
  done (s.serve 0x02 (byteIs 8 0 true) [(8, 1)] halted (fun s cmd =>
    if field cmd 8 1 ≠ 0 then .over s 2 [] else s.reset' cmd (fun s => s.coldStart report)))

/-- RESET with mode 1 (R472, R473). -/
def execResetWarm (report : StartReport) (s : State) : Host.Outcome State Fault Refusal :=
  let halted := match s.phase with | .halted _ => true | _ => false
  done (s.serve 0x02 (byteIs 8 1 false) [(8, 1)] halted (fun s cmd => s.reset' cmd (fun s => s.warmStart report)))

/-- READDT. -/
def execReaddt (s : State) : Host.Outcome State Fault Refusal :=
  .next (s.serve 0x03 anyCmd [(8, 8)] false (fun s cmd =>
    let off := field cmd 8 4
    let n := field cmd 0x0C 4
    if n = 0 || 240 < n || 3264 < off + n then .over s 2 [] else .over s 0 ((s.discovery.drop off).take n)))

/-! ### Contexts (R475, R478) -/

/-- Grants of a creation block (R478). -/
def blockGrants (b : Bytes) : List (Nat × Nat) := (List.range Config.nColumns).map (fun c => (field b (0x30 + 8 * c) 4, field b (0x34 + 8 * c) 4))

/-- A creation block, or the entries of its backing map, break R478. -/
def creationBad (b : Bytes) (map : List (Dword × Nat × Nat)) : Bool :=
  (fieldD b 0).toNat % 4096 ≠ 0 || 4095 < field b 0x10 2 || !zeroField b 0x12 2 || field b 0x14 4 % 16384 ≠ 0 ||
    field b 0x18 8 % 16384 ≠ 0 || 4096 < field b 0x28 4 || !zeroField b 0x2C 4 ||
    (blockGrants b).any (fun g => g.1 % 65536 ≠ 0 || g.2 % 65536 ≠ 0 || g.2 < g.1) ||
    map.any (fun m => m.1.toNat % 65536 ≠ 0 || m.2.1 % 65536 ≠ 0 || 8 ≤ m.2.2)

/-- The first free places from an index on, as many as are needed. -/
def takePlaces (place : Nat → BlockPlace) (free : Nat → Bool) : Nat → Nat → Nat → List BlockPlace
  | 0, _, _ => []
  | _, _, 0 => []
  | fuel + 1, i, need + 1 =>
    if free i then place i :: takePlaces place free fuel (i + 1) need else takePlaces place free fuel (i + 1) (need + 1)

/-- The i-th block of the vaults, and whether no grant and no other area covers it (R478). -/
def vaultPlace (i : Nat) : BlockPlace := .vault (i / 1024) (i % 1024 * 16384)
def State.vaultFree (s : State) (grants : List (Nat × Nat)) (i : Nat) : Bool :=
  let col := i / 1024
  let lo := i % 1024 * 16384
  let covers (gs : List (Nat × Nat)) : Bool := let (b, l) := gs.getD col (0, 0); b < lo + 16384 && lo < l
  lo + 16384 ≤ (s.column col).vcap && (s.column col).vault ≠ .lost && !covers grants &&
    s.contexts.all (fun c => c.phase.over || (!covers c.grants && !c.bsAreas.contains (vaultPlace i)))

/-- The i-th block of the GDDR 7 memories, and whether nothing of the firmware's knowledge lies there (R476, R478), nor the save
area of the context that is made. -/
def gddrPlace (i : Nat) : BlockPlace := .gddr (i / (Config.gddrBytes / 16384)) (i % (Config.gddrBytes / 16384) * 16384)
def State.gddrFree (s : State) (save : Dword) (size i : Nat) : Bool :=
  let lan := i / (Config.gddrBytes / 16384)
  let lo := i % (Config.gddrBytes / 16384) * 16384
  let page := lo / 65536 * 65536
  !(s.pools.getD lan []).contains (BitVec.ofNat 64 page) && !s.inTrees lan page && !savedOn save size lan page &&
    s.contexts.all (fun c => !c.ownsPage lan page || (c.phase.over && !c.bsAreas.contains (gddrPlace i)))

/-- The areas of a block store (R478); none when too few bytes remain. -/
def State.blockAreas (s : State) (grants : List (Nat × Nat)) (save : Dword) (size vault pool : Nat) : Option (List BlockPlace) :=
  let v := takePlaces vaultPlace (s.vaultFree grants) (1024 * Config.nColumns) 0 (vault / 16384)
  let g := takePlaces gddrPlace (s.gddrFree save size) (Config.nLanterns * (Config.gddrBytes / 16384)) 0 (pool / 16384)
  if v.length = vault / 16384 && g.length = pool / 16384 then some (v ++ g) else none

/-- A new context (R475 CTXNEW, R478, R484). -/
def Ctx.create (id : Nat) (b : Bytes) (map : List (Dword × Nat × Nat)) (areas : List BlockPlace) : Ctx :=
  { id, block := b, phase := .running, fdom := field b 0x10 2, save := fieldD b 0, saveSize := field b 8 8
    bsVault := field b 0x14 4, bsPool := field b 0x18 8, bmap := map, grants := blockGrants b, roots := [], nodes := []
    signals := [], bins := [], lits := [], waitRecs := [], pass := none, debugger := false, halted := false, tseq := 0
    diag := none, meas := sha256 b, nmeas := 0, names := [], storages := [], bsAreas := areas, nextStorage := 1
    savedGroups := [], savedBanks := [], savedAt := 0, resumedAt := 0, firmware := false, oldCode := none }

/-- CTXNEW. -/
def execCtxnew (s : State) : Host.Outcome State Fault Refusal :=
  .next (s.serve 0x10 anyCmd [(8, 8)] false (fun s cmd =>
    let at' := fieldD cmd 8
    let b := s.hostRead at' 0x630
    let n := field b 0x28 4
    let mapBytes := if 4096 < n then [] else s.hostRead (fieldD b 0x20) (16 * n)
    let map := (List.range (mapBytes.length / 16)).map (fun i =>
      (fieldD mapBytes (16 * i), field mapBytes (16 * i + 8) 4, field mapBytes (16 * i + 12) 4))
    if s.switch ≠ .joined then .over s 4 []
    else if at'.toNat % 64 ≠ 0 || creationBad b map then .over s 2 []
    else
      match s.blockAreas (blockGrants b) (fieldD b 0) (field b 8 8) (field b 0x14 4) (field b 0x18 8) with
      | none => .over s 3 []
      | some areas =>
        let id := s.nextCtx
        .over { s with contexts := s.contexts ++ [Ctx.create id b map areas], nextCtx := id + 1 } 0 (toBytes 4 id)))

/-- CTXEND: done when the context has ended (R407). -/
def execCtxend (s : State) : Host.Outcome State Fault Refusal :=
  done (s.serve 0x11 anyCmd [(8, 8)] false (fun s cmd =>
    match s.cmdCtx cmd with
    | none => .over s 2 []
    | some c =>
      if s.begun then (if c.phase = .terminated then .over s 0 [] else .busy s)
      else if c.phase.over then .over s 4 []
      else
        let t := s.killCtx c.id 0x51 0 0 [fieldW cmd 0x0C]
        if (t.ctx c.id).map Ctx.phase = some .terminated then .over t 0 [] else .busy { t with begun := true }))

/-- CTXSAVE: done when the save area is written. -/
def execCtxsave (s : State) : Host.Outcome State Fault Refusal :=
  .next (s.serve 0x12 anyCmd [(8, 4)] false (fun s cmd =>
    match s.cmdCtx cmd with
    | none => .over s 2 []
    | some c =>
      if s.begun then
        (match c.phase with
          | .saved _ => .over s 0 []
          | .terminated => .over s 4 []
          | .ending .. => .over s 4 []
          | _ => .busy s)
      else
        match c.phase with
        | .running => .busy { s.setCtx { c with phase := .saveRequested true s.clock.toNat } with begun := true }
        | _ => .over s 4 []))

/-- CTXRUN. -/
def execCtxrun (s : State) : Host.Outcome State Fault Refusal :=
  .next (s.serve 0x13 anyCmd [(8, 4)] false (fun s cmd =>
    match s.cmdCtx cmd with
    | none => .over s 2 []
    | some c =>
      match c.phase with
      | .saved _ => .over (s.setCtx { c with phase := .saved false }) 0 []
      | _ => .over s 4 []))

/-- DIAGRD. -/
def execDiagrd (s : State) : Host.Outcome State Fault Refusal :=
  .next (s.serve 0x14 anyCmd [(8, 16)] false (fun s cmd =>
    match s.cmdCtx cmd with
    | none => .over s 2 []
    | some c =>
      match c.diag with
      | none => .over s 0 (toBytes 4 0)
      | some d =>
        if field cmd 0x0C 4 < d.length then .over s 3 (toBytes 4 d.length)
        else .over (s.hostWrite (fieldD cmd 0x10) d) 0 (toBytes 4 d.length)))

/-! ### Queues (R441, R442, R446) -/

/-- A queue header breaks R441 or R442. -/
def headerBad (at' : Dword) (h : Bytes) : Bool :=
  let cap := field h 8 4
  at'.toNat % 64 ≠ 0 || (fieldD h 0).toNat % 64 ≠ 0 || !((List.range 17).any (fun i => cap = 2 ^ (i + 4))) || 7 < field h 0x14 1 ||
    field h 0x15 1 = 0 || !zeroField h 0x16 2 || !zeroField h 0x20 32 || cap < (fieldW h 0x0C - fieldW h 0x10).toNat

/-- QNEW; a header without a translation holds the command up (R486). -/
def execQnew (s : State) : Host.Outcome State Fault Refusal :=
  done (s.serve 0x20 anyCmd [(8, 4), (0x10, 8)] false (fun s cmd =>
    let at' := fieldD cmd 0x10
    match s.cmdCtx cmd with
    | none => .over s 2 []
    | some c =>
      if c.phase.over then .over s 4 []
      else
        match s.devRead c.id 0xFFFF at' 64 with
        | .wait t => .busy t
        | .fail t k a => .over (t.killCtx c.id k 0 a []) 2 []
        | .ok h =>
          let s := s.accessed c.id at' 64
          if headerBad at' h then .over s 2 []
          else
            match s.devWrite c.id 0xFFFF (at' + 0x1C) (toBytes 4 c.id) with
            | .wait t => .busy t
            | .fail t k a => .over (t.killCtx c.id k 0 a []) 2 []
            | .ok t =>
              let q : Queue :=
                { qid := t.nextQueue, ctx := c.id, header := at', ring := fieldD h 0, cap := field h 8 4, wptr := fieldW h 0x0C
                  rptr := fieldW h 0x10, prio := field h 0x14 1, slice := field h 0x15 1, stat := 0, mapped := false
                  pending := fieldW h 0x0C ≠ fieldW h 0x10, sliceLeft := 0, unmappedAt := t.clock.toNat, startPtr := fieldW h 0x10, cmds := []
                  waited := [], headerDue := false }
              .over { t with queues := t.queues ++ [q], nextQueue := t.nextQueue + 1 } 0 (toBytes 4 q.qid)))

/-- QRESTART (R446). -/
def execQrestart (s : State) : Host.Outcome State Fault Refusal :=
  done (s.serve 0x21 anyCmd [(8, 4)] false (fun s cmd =>
    match s.queueOf (field cmd 8 4) with
    | none => .over s 2 []
    | some q =>
      .over ((s.updQueue q.qid (fun q => { q with stat := q.stat &&& 0x7FFFFFFF#32, headerDue := true })).syncHeader q.qid) 0 []))

/-- QFREE. -/
def execQfree (s : State) : Host.Outcome State Fault Refusal :=
  .next (s.serve 0x22 anyCmd [(8, 4)] false (fun s cmd =>
    match s.queueOf (field cmd 8 4) with
    | none => .over s 2 []
    | some q =>
      if s.launching q then .over s 4 [] else .over { s with queues := s.queues.filter (fun r => r.qid ≠ q.qid) } 0 []))

/-! ### Page tables and faults (R479, R480) -/

/-- MAP. -/
def execMapLeaf (s : State) : Host.Outcome State Fault Refusal :=
  done (s.serve 0x30 anyCmd [(8, 4), (0x10, 16)] false (fun s cmd =>
    match s.cmdCtx cmd with
    | none => .over s 2 []
    | some c =>
      if leafRefused (fieldD cmd 0x10) (fieldD cmd 0x18) then .over s 2 []
      else
        match s.install c (fieldD cmd 0x10) (fieldD cmd 0x18) with
        | none => .over s 3 []
        | some t => .over t.settleAll 0 []))

/-- UNMAP. -/
def execUnmapLeaf (s : State) : Host.Outcome State Fault Refusal :=
  .next (s.serve 0x31 anyCmd [(8, 4), (0x10, 8)] false (fun s cmd =>
    match s.cmdCtx cmd with
    | none => .over s 2 []
    | some c =>
      if bits (fieldD cmd 0x10) 56 8 ≠ 0 then .over s 2 []
      else
        let (b, t) := s.uninstall c (fieldD cmd 0x10)
        .over t 0 (toBytes 1 b)))

/-- POOL. -/
def execPool (s : State) : Host.Outcome State Fault Refusal :=
  .next (s.serve 0x32 anyCmd [(8, 1), (0x0C, 12)] false (fun s cmd =>
    let lan := field cmd 8 1
    let n := field cmd 0x0C 4
    if Config.nLanterns ≤ lan || n = 0 || 65536 < n then .over s 2 []
    else
      let list := s.hostRead (fieldD cmd 0x10) (8 * n)
      match s.poolPages lan [] ((List.range n).map (fun i => fieldD list (8 * i))) with
      | none => .over s 2 (toBytes 4 (s.pools.getD lan []).length)
      | some ps =>
        let pool := s.pools.getD lan [] ++ ps
        .over { s with pools := s.pools.set lan pool } 0 (toBytes 4 pool.length)))

/-- The forwarded entry that a FAULTRSP names (R480). -/
def State.forwarded (s : State) (cmd : Bytes) : Option FaultEntry :=
  (s.faultq.getD (field cmd 8 1) []).find? (fun e => e.seq = field cmd 0x0C 4 && e.stat = 2)

/-- FAULTRSP with action map: the address is the entry's 64 KiB region (R409, R480). -/
def execFaultrspMap (s : State) : Host.Outcome State Fault Refusal :=
  done (s.serve 0x33 (byteIs 0x10 0 true) [(8, 1), (0x0C, 5), (0x18, 8)] false (fun s cmd =>
    let leaf := fieldD cmd 0x18
    match s.forwarded cmd with
    | none => .over s 2 []
    | some e =>
      let va := e.va &&& ~~~0xFFFF#64
      match s.ctx e.ctx with
      | none => .over s 2 []
      | some c =>
        if field cmd 0x10 1 ≠ 0 || leafRefused va leaf then .over s 2 []
        else
          match s.install c va leaf with
          | none => .over s 3 []
          | some t => .over ((t.setStat (field cmd 8 1) e.seq 1).replayEntry (field cmd 8 1) { e with stat := 1 }) 0 []))

/-- FAULTRSP with action refuse. -/
def execFaultrspRefuse (s : State) : Host.Outcome State Fault Refusal :=
  done (s.serve 0x33 (byteIs 0x10 1 false) [(8, 1), (0x0C, 5), (0x18, 8)] false (fun s cmd =>
    match s.forwarded cmd with
    | none => .over s 2 []
    | some e => if fieldD cmd 0x18 ≠ 0 then .over s 2 [] else .over (s.refuseEntry (field cmd 8 1) { e with stat := 3 }) 0 []))

/-! ### Displays and poses (R464, R470, R477) -/

/-- A mode block breaks R477. -/
def modeBad (b : Bytes) : Bool :=
  let hact := field b 0x00 2
  let vact := field b 0x02 2
  let pixels := field b 0x04 2 * field b 0x06 2
  let pclk := field b 0x10 4
  let period := field b 0x18 8
  let got := period * pclk
  let want := pixels * 1000000
  let bpc := field b 0x14 1
  let dsc := (fieldW b 0x15).getLsbD 0
  hact = 0 || 16383 < hact || vact = 0 || 16383 < vact || field b 0x04 2 ≤ hact || field b 0x06 2 ≤ vact ||
    !(bpc = 8 || bpc = 10) || 8 ≤ field b 0x15 1 || (!dsc && field b 0x16 2 ≠ 0) || field b 0x28 4 < 100000 ||
    period < field b 0x28 4 || !zeroField b 0x2C 4 || !zeroField b 0x40 64 || field b 0x30 8 % 16 ≠ 0 || field b 0x38 8 % 64 ≠ 0 ||
    pclk = 0 || want < 200 * ((got : Int) - want).natAbs

/-- The link cannot carry a mode (R477). -/
def modeWide (b : Bytes) : Bool :=
  let bits16 := if (fieldW b 0x15).getLsbD 0 then field b 0x16 2 else 48 * field b 0x14 1
  16 * Config.linkRate < field b 0x10 4 * bits16

/-- An output assigned to a context, or released (R464, R469): commits that stand are let go; the last frame latched stays
until a commit of the new context is valid, and retire records that stand are still written. -/
def State.assign (s : State) (i ctx : Nat) (mode : Bytes) : State :=
  let o := s.outputs.getD i Output.reset
  let t := o.commits.foldl State.endCommit s
  let fresh : Output := { Output.reset with ctx, mode, last := o.last, vigilHold := o.vigilHold, dropped := o.dropped, retires := o.retires }
  let now := s.ftime.toNat
  let k := if ctx = 0 || fresh.period = 0 || now + fresh.lead < fresh.phase then 0 else (now + fresh.lead - fresh.phase) / fresh.period + 1
  { t with outputs := t.outputs.set i { fresh with next := k } }

/-- DISPSET. -/
def execDispset (s : State) : Host.Outcome State Fault Refusal :=
  .next (s.serve 0x40 anyCmd [(8, 1), (0x0C, 12)] false (fun s cmd =>
    let i := field cmd 8 1
    let ctx := field cmd 0x0C 4
    let at' := fieldD cmd 0x10
    let b := s.hostRead at' 128
    if 3 < i then .over s 2 []
    else if ctx = 0 then .over (s.assign i 0 []) 0 []
    else
      match s.ctx ctx with
      | none => .over s 2 []
      | some c =>
        if c.phase.over then .over s 4 []
        else if at'.toNat % 64 ≠ 0 || modeBad b then .over s 2 []
        else if modeWide b then .over s 3 []
        else .over (s.assign i ctx b) 0 []))

/-- POSE: the pose goes to the switch, which broadcasts it. -/
def execPose (s : State) : Host.Outcome State Fault Refusal :=
  .next (s.serve 0x41 anyCmd [(8, 28)] false (fun s cmd =>
    let p : Pose := { qw := fieldW cmd 8, qx := fieldW cmd 0x0C, qy := fieldW cmd 0x10, qz := fieldW cmd 0x14
                      time := fieldD cmd 0x18, seq := fieldW cmd 0x20 }
    .over (s.draw.2.sendFlit 0 (s.newFlit 4 s.devid 0 0 0 0 [] [] (some p))) 0 []))

/-- DEPART (R459): contexts that the host has saved stay saved, every other one is terminated; done at DRAINED. -/
def execDepart (s : State) : Host.Outcome State Fault Refusal :=
  done (s.serve 0x50 anyCmd [] false (fun s _ =>
    if s.begun then .busy s
    else if s.switch ≠ .joined then .over s 4 []
    else
      let kept (c : Ctx) : Bool := match c.phase with
        | .saved true => true
        | .saving true _ => true
        | .saveRequested true _ => true
        | _ => false
      let t := s.killWhere (fun c => !kept c) 0x51 [0xFFFF0002#32]
      .busy { t with switch := .departing, begun := true, outputs := t.outputs.map (fun o => { o with vigilHold := true }) }))

/-! ### The event log, debuggers and save areas (R406, R423, R482) -/

/-- EVLOG: the events from a number on, oldest first; the next number is the one after the last event copied. -/
def execEvlog (s : State) : Host.Outcome State Fault Refusal :=
  .next (s.serve 0x51 anyCmd [(8, 16)] false (fun s cmd =>
    let n := field cmd 0x0C 4
    if n = 0 || 256 < n then .over s 2 []
    else
      let oldest := s.nextEvent - s.events.length
      let from' := max (field cmd 8 4) oldest
      let es := (s.events.drop (from' - oldest)).take n
      let next := if es = [] then s.nextEvent else from' + es.length
      .over (s.hostWrite (fieldD cmd 0x10) es.flatten) 0 (toBytes 4 next ++ toBytes 4 es.length)))

/-- DBGATT for a context. -/
def State.debug (s : State) (cmd : Bytes) (on : Bool) : Served :=
  match s.cmdCtx cmd with
  | none => .over s 2 []
  | some c => if c.phase.over then .over s 4 [] else .over (s.setCtx { c with debugger := on }) 0 []

/-- DBGATT with 1. -/
def execDbgattAttach (s : State) : Host.Outcome State Fault Refusal :=
  .next (s.serve 0x60 (byteIs 0x0C 1 false) [(8, 5)] false (fun s cmd => s.debug cmd true))

/-- DBGATT with 0. -/
def execDbgattDetach (s : State) : Host.Outcome State Fault Refusal :=
  .next (s.serve 0x60 (byteIs 0x0C 0 true) [(8, 5)] false (fun s cmd =>
    if field cmd 0x0C 1 ≠ 0 then .over s 2 [] else s.debug cmd false))

/-- The range of a SAVERW: its context, key and length, or a status. -/
def State.saveRange (s : State) (cmd : Bytes) : Except Nat (Ctx × Nat × Nat) :=
  let off := field cmd 0x10 8
  let n := field cmd 0x18 8
  match s.cmdCtx cmd with
  | none => .error 2
  | some c =>
    match c.phase with
    | .saved _ =>
      if off % 16 ≠ 0 || n % 16 ≠ 0 || n = 0 || 2 ^ 24 < n || c.saveSize < off + n then .error 2 else .ok (c, c.saveKey + off, n)
    | _ => .error 4

/-- `CRC` of a save area computed again (R423, R475). -/
def State.sealArea (s : State) (c : Ctx) : State :=
  let n := min (field (s.mem.read c.saveKey 16) 8 8) c.saveSize
  let area := s.mem.read c.saveKey n
  let crc := crc32 (area.take 0x50 ++ toBytes 4 0 ++ area.drop 0x54)
  { s with mem := s.mem.storeAll [(c.saveKey + 0x50, wordBytes crc)] }

/-- SAVERW with direction 0. -/
def execSaverwToHost (s : State) : Host.Outcome State Fault Refusal :=
  .next (s.serve 0x61 (byteIs 0x0C 0 true) [(8, 5), (0x10, 24)] false (fun s cmd =>
    match s.saveRange cmd with
    | .error k => .over s k []
    | .ok (_, key, n) =>
      if field cmd 0x0C 1 ≠ 0 then .over s 2 [] else .over (s.hostWrite (fieldD cmd 0x20) (s.mem.read key n)) 0 []))

/-- SAVERW with direction 1. -/
def execSaverwToSaveArea (s : State) : Host.Outcome State Fault Refusal :=
  .next (s.serve 0x61 (byteIs 0x0C 1 false) [(8, 5), (0x10, 24)] false (fun s cmd =>
    match s.saveRange cmd with
    | .error k => .over s k []
    | .ok (c, key, n) =>
      let t : State := { s with mem := s.mem.storeAll [(key, s.hostRead (fieldD cmd 0x20) n)] }
      .over (t.sealArea c) 0 []))

/-! ### Identity and attestation (R483-R485) -/

/-- The three fields of the 48 secret fuse bytes (R483). -/
def secretField (off : Nat) : Bytes := (List.range 16).map (fun i => Config.fuseSecret (off + i))
def skSeed : Bytes := secretField 0
def skPrf : Bytes := secretField 16
def pkSeed : Bytes := secretField 32

/-- The public key. -/
def publicKey : Bytes := pkSeed ++ slhRoot slh128s skSeed pkSeed

/-- The serial number, 8 bytes. -/
def serialBytes : Bytes := padTo 8 (Config.serial.take 8)

/-- The ROM digest and the fuse digest (R484). -/
def romDigest : Bytes := sha256 Config.romImage
def fuseDigest : Bytes := sha256 Config.fuseRest

/-- GETID. -/
def execGetid (s : State) : Host.Outcome State Fault Refusal :=
  .next (s.serve 0x70 anyCmd [] false (fun s _ => .over s 0 (publicKey ++ serialBytes ++ romDigest)))

/-- The signed bytes of a report (R485). -/
def State.reportBody (s : State) (ctx : Nat) (nonce : Bytes) (c : Option Ctx) : Bytes :=
  toBytes 4 0x5241574B ++ toBytes 2 1 ++ toBytes 2 0 ++ wordBytes s.gen ++ toBytes 4 s.devid ++ serialBytes ++ nonce ++ publicKey ++
    romDigest ++ fuseDigest ++ toBytes 4 ctx ++ toBytes 4 ((c.map Ctx.nmeas).getD 0) ++
    ((c.map Ctx.meas).getD (List.replicate 32 0))

/-- ATTEST. -/
def execAttest (s : State) : Host.Outcome State Fault Refusal :=
  .next (s.serve 0x71 anyCmd [(8, 4), (0x10, 40)] false (fun s cmd =>
    let id := field cmd 8 4
    let c := s.cmdCtx cmd
    if id ≠ 0xFFFFFFFF && c.isNone then .over s 2 []
    else
      let body := s.reportBody id ((cmd.drop 0x10).take 32) c
      let sig := slhSign slh128s skSeed skPrf pkSeed (slhRoot slh128s skSeed pkSeed) body
      .over (s.hostWrite (fieldD cmd 0x30) (body ++ sig)) 0 (toBytes 4 8048)))

end Sys2Proof.Machine
end

