-- ==== Sys2Proof/Machine/Dispatch.lean ====
section
/-! DEFINITION. The dispatch: one arm for each constructor of `Instr`, each a direct call of its meaning. -/

namespace Sys2Proof.Machine

open Sys2Proof

def exec (i : Instr) (s : State) : Host.Outcome State Fault Refusal :=
  match i with
  | .clauseStart a0 a1 => Sys2Proof.Machine.execClauseStart a0 a1 s
  | .fairnessPeriod a0 a1 => Sys2Proof.Machine.execFairnessPeriod a0 a1 s
  | .resultWritten a0 a1 a2 => Sys2Proof.Machine.execResultWritten a0 a1 a2 s
  | .storeCompletion a0 a1 a2 => Sys2Proof.Machine.execStoreCompletion a0 a1 a2 s
  | .trapDelivery a0 a1 => Sys2Proof.Machine.execTrapDelivery a0 a1 s
  | .handlerEntry a0 a1 => Sys2Proof.Machine.execHandlerEntry a0 a1 s
  | .groupPlacement a0 a1 => Sys2Proof.Machine.execGroupPlacement a0 a1 s
  | .taperBindingComplete a0 a1 => Sys2Proof.Machine.execTaperBindingComplete a0 a1 s
  | .warpRetire a0 a1 => Sys2Proof.Machine.execWarpRetire a0 a1 s
  | .triangleSetup a0 => Sys2Proof.Machine.execTriangleSetup a0 s
  | .tileRasterise a0 a1 => Sys2Proof.Machine.execTileRasterise a0 a1 s
  | .passCloseEffect a0 => Sys2Proof.Machine.execPassCloseEffect a0 s
  | .classify a0 a1 => Sys2Proof.Machine.execClassify a0 a1 s
  | .binTimerLapse a0 a1 a2 a3 => Sys2Proof.Machine.execBinTimerLapse a0 a1 a2 a3 s
  | .recordFits a0 a1 => Sys2Proof.Machine.execRecordFits a0 a1 s
  | .barrierTimeout a0 a1 => Sys2Proof.Machine.execBarrierTimeout a0 a1 s
  | .collectiveTimeout a0 a1 => Sys2Proof.Machine.execCollectiveTimeout a0 a1 s
  | .faultQueueRoom a0 => Sys2Proof.Machine.execFaultQueueRoom a0 s
  | .faultService a0 => Sys2Proof.Machine.execFaultService a0 s
  | .drtAccWriteback a0 a1 => Sys2Proof.Machine.execDrtAccWriteback a0 a1 s
  | .engineLineWritten a0 a1 a2 => Sys2Proof.Machine.execEngineLineWritten a0 a1 a2 s
  | .engineOperationComplete a0 a1 => Sys2Proof.Machine.execEngineOperationComplete a0 a1 s
  | .mergeSessionOpen a0 => Sys2Proof.Machine.execMergeSessionOpen a0 s
  | .loopStep a0 a1 a2 => Sys2Proof.Machine.execLoopStep a0 a1 a2 s
  | .cbloadComplete a0 a1 a2 => Sys2Proof.Machine.execCbloadComplete a0 a1 a2 s
  | .waitvWake a0 a1 a2 => Sys2Proof.Machine.execWaitvWake a0 a1 a2 s
  | .sleepExpiry a0 a1 a2 => Sys2Proof.Machine.execSleepExpiry a0 a1 a2 s
  | .waittokSatisfied a0 => Sys2Proof.Machine.execWaittokSatisfied a0 s
  | .contextSave a0 => Sys2Proof.Machine.execContextSave a0 s
  | .contextSaveComplete a0 => Sys2Proof.Machine.execContextSaveComplete a0 s
  | .maxrtExceeded a0 => Sys2Proof.Machine.execMaxrtExceeded a0 s
  | .launch a0 => Sys2Proof.Machine.execLaunch a0 s
  | .waittok a0 => Sys2Proof.Machine.execWaittok a0 s
  | .signal a0 => Sys2Proof.Machine.execSignal a0 s
  | .nodes a0 => Sys2Proof.Machine.execNodes a0 s
  | .passopen a0 => Sys2Proof.Machine.execPassopen a0 s
  | .passclose a0 => Sys2Proof.Machine.execPassclose a0 s
  | .drain a0 => Sys2Proof.Machine.execDrain a0 s
  | .requestFlit a0 a1 => Sys2Proof.Machine.execRequestFlit a0 a1 s
  | .portRetrain a0 => Sys2Proof.Machine.execPortRetrain a0 s
  | .responseFlit a0 a1 => Sys2Proof.Machine.execResponseFlit a0 a1 s
  | .fabricAcknowledgementTimeout a0 a1 => Sys2Proof.Machine.execFabricAcknowledgementTimeout a0 a1 s
  | .beacon a0 a1 => Sys2Proof.Machine.execBeacon a0 a1 s
  | .poseFlit a0 a1 => Sys2Proof.Machine.execPoseFlit a0 a1 s
  | .frameLatch a0 => Sys2Proof.Machine.execFrameLatch a0 s
  | .frameDeadline a0 => Sys2Proof.Machine.execFrameDeadline a0 s
  | .frameStart a0 => Sys2Proof.Machine.execFrameStart a0 s
  | .frameRetire a0 => Sys2Proof.Machine.execFrameRetire a0 s
  | .monitorSample a0 => Sys2Proof.Machine.execMonitorSample a0 s
  | .l2ShutdownWindowEnd a0 => Sys2Proof.Machine.execL2ShutdownWindowEnd a0 s
  | .railTrip a0 a1 => Sys2Proof.Machine.execRailTrip a0 a1 s
  | .railRecovery a0 a1 => Sys2Proof.Machine.execRailRecovery a0 a1 s
  | .coldStart a0 => Sys2Proof.Machine.execColdStart a0 s
  | .mbstWrite a0 => Sys2Proof.Machine.execMbstWrite a0 s
  | .qwake a0 => Sys2Proof.Machine.execQwake a0 s
  | .qwstWrite a0 => Sys2Proof.Machine.execQwstWrite a0 s
  | .irqcWrite a0 => Sys2Proof.Machine.execIrqcWrite a0 s
  | .bar0Write a0 a1 => Sys2Proof.Machine.execBar0Write a0 a1 s
  | .resetCold a0 => Sys2Proof.Machine.execResetCold a0 s
  | .resetWarm a0 => Sys2Proof.Machine.execResetWarm a0 s
  | .iadd a0 => Sys2Proof.Machine.execIadd a0 s
  | .isub a0 => Sys2Proof.Machine.execIsub a0 s
  | .imul a0 => Sys2Proof.Machine.execImul a0 s
  | .imulh a0 => Sys2Proof.Machine.execImulh a0 s
  | .imad a0 => Sys2Proof.Machine.execImad a0 s
  | .imadw a0 => Sys2Proof.Machine.execImadw a0 s
  | .iaddc a0 => Sys2Proof.Machine.execIaddc a0 s
  | .isubb a0 => Sys2Proof.Machine.execIsubb a0 s
  | .imin a0 => Sys2Proof.Machine.execImin a0 s
  | .imax a0 => Sys2Proof.Machine.execImax a0 s
  | .iabs a0 => Sys2Proof.Machine.execIabs a0 s
  | .isad a0 => Sys2Proof.Machine.execIsad a0 s
  | .iclamp a0 => Sys2Proof.Machine.execIclamp a0 s
  | .idot2 a0 => Sys2Proof.Machine.execIdot2 a0 s
  | .idot4 a0 => Sys2Proof.Machine.execIdot4 a0 s
  | .icmp a0 => Sys2Proof.Machine.execIcmp a0 s
  | .andB a0 => Sys2Proof.Machine.execAndB a0 s
  | .orB a0 => Sys2Proof.Machine.execOrB a0 s
  | .xorB a0 => Sys2Proof.Machine.execXorB a0 s
  | .andn a0 => Sys2Proof.Machine.execAndn a0 s
  | .lop3 a0 => Sys2Proof.Machine.execLop3 a0 s
  | .shl a0 => Sys2Proof.Machine.execShl a0 s
  | .shr a0 => Sys2Proof.Machine.execShr a0 s
  | .sar a0 => Sys2Proof.Machine.execSar a0 s
  | .rot a0 => Sys2Proof.Machine.execRot a0 s
  | .fshf a0 => Sys2Proof.Machine.execFshf a0 s
  | .bfe a0 => Sys2Proof.Machine.execBfe a0 s
  | .bfi a0 => Sys2Proof.Machine.execBfi a0 s
  | .brev a0 => Sys2Proof.Machine.execBrev a0 s
  | .popc a0 => Sys2Proof.Machine.execPopc a0 s
  | .clz a0 => Sys2Proof.Machine.execClz a0 s
  | .ctz a0 => Sys2Proof.Machine.execCtz a0 s
  | .mov a0 => Sys2Proof.Machine.execMov a0 s
  | .movl a0 => Sys2Proof.Machine.execMovl a0 s
  | .sel a0 => Sys2Proof.Machine.execSel a0 s
  | .prmt a0 => Sys2Proof.Machine.execPrmt a0 s
  | .sext a0 => Sys2Proof.Machine.execSext a0 s
  | .mkaff a0 => Sys2Proof.Machine.execMkaff a0 s
  | .mkgen a0 => Sys2Proof.Machine.execMkgen a0 s
  | .shape a0 => Sys2Proof.Machine.execShape a0 s
  | .laneid a0 => Sys2Proof.Machine.execLaneid a0 s
  | .mskop a0 => Sys2Proof.Machine.execMskop a0 s
  | .mskmov a0 => Sys2Proof.Machine.execMskmov a0 s
  | .mskmovLane a0 => Sys2Proof.Machine.execMskmovLane a0 s
  | .mskmovWord a0 => Sys2Proof.Machine.execMskmovWord a0 s
  | .fadd a0 => Sys2Proof.Machine.execFadd a0 s
  | .fsub a0 => Sys2Proof.Machine.execFsub a0 s
  | .fmul a0 => Sys2Proof.Machine.execFmul a0 s
  | .ffma a0 => Sys2Proof.Machine.execFfma a0 s
  | .fmin a0 => Sys2Proof.Machine.execFmin a0 s
  | .fmax a0 => Sys2Proof.Machine.execFmax a0 s
  | .fminm a0 => Sys2Proof.Machine.execFminm a0 s
  | .fmaxm a0 => Sys2Proof.Machine.execFmaxm a0 s
  | .fcmp a0 => Sys2Proof.Machine.execFcmp a0 s
  | .frnd a0 => Sys2Proof.Machine.execFrnd a0 s
  | .ffrac a0 => Sys2Proof.Machine.execFfrac a0 s
  | .fclass a0 => Sys2Proof.Machine.execFclass a0 s
  | .fldexp a0 => Sys2Proof.Machine.execFldexp a0 s
  | .fexpo a0 => Sys2Proof.Machine.execFexpo a0 s
  | .fmant a0 => Sys2Proof.Machine.execFmant a0 s
  | .fdot2 a0 => Sys2Proof.Machine.execFdot2 a0 s
  | .fdot4 a0 => Sys2Proof.Machine.execFdot4 a0 s
  | .fcpys a0 => Sys2Proof.Machine.execFcpys a0 s
  | .fmed3 a0 => Sys2Proof.Machine.execFmed3 a0 s
  | .cvt a0 => Sys2Proof.Machine.execCvt a0 s
  | .cvtpk a0 => Sys2Proof.Machine.execCvtpk a0 s
  | .cvtup a0 => Sys2Proof.Machine.execCvtup a0 s
  | .qblk a0 => Sys2Proof.Machine.execQblk a0 s
  | .dqblk a0 => Sys2Proof.Machine.execDqblk a0 s
  | .rcp a0 => Sys2Proof.Machine.execRcp a0 s
  | .rsq a0 => Sys2Proof.Machine.execRsq a0 s
  | .sqrt a0 => Sys2Proof.Machine.execSqrt a0 s
  | .exp2 a0 => Sys2Proof.Machine.execExp2 a0 s
  | .log2 a0 => Sys2Proof.Machine.execLog2 a0 s
  | .sinpi a0 => Sys2Proof.Machine.execSinpi a0 s
  | .cospi a0 => Sys2Proof.Machine.execCospi a0 s
  | .tanh a0 => Sys2Proof.Machine.execTanh a0 s
  | .sigm a0 => Sys2Proof.Machine.execSigm a0 s
  | .tbl a0 => Sys2Proof.Machine.execTbl a0 s
  | .tbli a0 => Sys2Proof.Machine.execTbli a0 s
  | .divf a0 => Sys2Proof.Machine.execDivf a0 s
  | .shfl a0 => Sys2Proof.Machine.execShfl a0 s
  | .rdfirst a0 => Sys2Proof.Machine.execRdfirst a0 s
  | .rdlane a0 => Sys2Proof.Machine.execRdlane a0 s
  | .wrlane a0 => Sys2Proof.Machine.execWrlane a0 s
  | .vote a0 => Sys2Proof.Machine.execVote a0 s
  | .matchKey a0 => Sys2Proof.Machine.execMatchKey a0 s
  | .compact a0 => Sys2Proof.Machine.execCompact a0 s
  | .expand a0 => Sys2Proof.Machine.execExpand a0 s
  | .reduce a0 => Sys2Proof.Machine.execReduce a0 s
  | .scan a0 => Sys2Proof.Machine.execScan a0 s
  | .sortk a0 => Sys2Proof.Machine.execSortk a0 s
  | .ifCond a0 => Sys2Proof.Machine.execIfCond a0 s
  | .elseJoin a0 => Sys2Proof.Machine.execElseJoin a0 s
  | .endif a0 => Sys2Proof.Machine.execEndif a0 s
  | .loop a0 => Sys2Proof.Machine.execLoop a0 s
  | .endloop a0 => Sys2Proof.Machine.execEndloop a0 s
  | .brk a0 => Sys2Proof.Machine.execBrk a0 s
  | .cont a0 => Sys2Proof.Machine.execCont a0 s
  | .jmp a0 => Sys2Proof.Machine.execJmp a0 s
  | .jmpu a0 => Sys2Proof.Machine.execJmpu a0 s
  | .call a0 => Sys2Proof.Machine.execCall a0 s
  | .calli a0 => Sys2Proof.Machine.execCalli a0 s
  | .ret a0 => Sys2Proof.Machine.execRet a0 s
  | .exit a0 => Sys2Proof.Machine.execExit a0 s
  | .setbnd a0 => Sys2Proof.Machine.execSetbnd a0 s
  | .nop a0 => Sys2Proof.Machine.execNop a0 s
  | .ld a0 => Sys2Proof.Machine.execLd a0 s
  | .st a0 => Sys2Proof.Machine.execSt a0 s
  | .ldu a0 => Sys2Proof.Machine.execLdu a0 s
  | .ldq a0 => Sys2Proof.Machine.execLdq a0 s
  | .stq a0 => Sys2Proof.Machine.execStq a0 s
  | .atom a0 => Sys2Proof.Machine.execAtom a0 s
  | .cas a0 => Sys2Proof.Machine.execCas a0 s
  | .atomu a0 => Sys2Proof.Machine.execAtomu a0 s
  | .fence a0 => Sys2Proof.Machine.execFence a0 s
  | .waitv a0 => Sys2Proof.Machine.execWaitv a0 s
  | .bsalloc a0 => Sys2Proof.Machine.execBsalloc a0 s
  | .bsfree a0 => Sys2Proof.Machine.execBsfree a0 s
  | .bsshare a0 => Sys2Proof.Machine.execBsshare a0 s
  | .bslook a0 => Sys2Proof.Machine.execBslook a0 s
  | .tex a0 => Sys2Proof.Machine.execTex a0 s
  | .texg a0 => Sys2Proof.Machine.execTexg a0 s
  | .rayq a0 => Sys2Proof.Machine.execRayq a0 s
  | .rayb a0 => Sys2Proof.Machine.execRayb a0 s
  | .attr a0 => Sys2Proof.Machine.execAttr a0 s
  | .mma a0 => Sys2Proof.Machine.execMma a0 s
  | .mmas a0 => Sys2Proof.Machine.execMmas a0 s
  | .mloop a0 => Sys2Proof.Machine.execMloop a0 s
  | .mloops a0 => Sys2Proof.Machine.execMloops a0 s
  | .accz a0 => Sys2Proof.Machine.execAccz a0 s
  | .accld a0 => Sys2Proof.Machine.execAccld a0 s
  | .accst a0 => Sys2Proof.Machine.execAccst a0 s
  | .accdrain a0 => Sys2Proof.Machine.execAccdrain a0 s
  | .mapchk a0 => Sys2Proof.Machine.execMapchk a0 s
  | .fragxGet a0 => Sys2Proof.Machine.execFragxGet a0 s
  | .fragxPut a0 => Sys2Proof.Machine.execFragxPut a0 s
  | .fragxStat a0 => Sys2Proof.Machine.execFragxStat a0 s
  | .cpy a0 => Sys2Proof.Machine.execCpy a0 s
  | .cpyx a0 => Sys2Proof.Machine.execCpyx a0 s
  | .pfl2 a0 => Sys2Proof.Machine.execPfl2 a0 s
  | .gathr a0 => Sys2Proof.Machine.execGathr a0 s
  | .scatb a0 => Sys2Proof.Machine.execScatb a0 s
  | .binrpl a0 => Sys2Proof.Machine.execBinrpl a0 s
  | .mrgo a0 => Sys2Proof.Machine.execMrgo a0 s
  | .mrgp a0 => Sys2Proof.Machine.execMrgp a0 s
  | .mrgc a0 => Sys2Proof.Machine.execMrgc a0 s
  | .mrgs a0 => Sys2Proof.Machine.execMrgs a0 s
  | .tokw a0 => Sys2Proof.Machine.execTokw a0 s
  | .tokq a0 => Sys2Proof.Machine.execTokq a0 s
  | .cancel a0 => Sys2Proof.Machine.execCancel a0 s
  | .bar a0 => Sys2Proof.Machine.execBar a0 s
  | .bara a0 => Sys2Proof.Machine.execBara a0 s
  | .barw a0 => Sys2Proof.Machine.execBarw a0 s
  | .spawn a0 => Sys2Proof.Machine.execSpawn a0 s
  | .emit a0 => Sys2Proof.Machine.execEmit a0 s
  | .claim a0 => Sys2Proof.Machine.execClaim a0 s
  | .regrp a0 => Sys2Proof.Machine.execRegrp a0 s
  | .cbload a0 => Sys2Proof.Machine.execCbload a0 s
  | .cbcommit a0 => Sys2Proof.Machine.execCbcommit a0 s
  | .gwr a0 => Sys2Proof.Machine.execGwr a0 s
  | .gatom a0 => Sys2Proof.Machine.execGatom a0 s
  | .qsig a0 => Sys2Proof.Machine.execQsig a0 s
  | .sleep a0 => Sys2Proof.Machine.execSleep a0 s
  | .framec a0 => Sys2Proof.Machine.execFramec a0 s
  | .trap a0 => Sys2Proof.Machine.execTrap a0 s
  | .rte a0 => Sys2Proof.Machine.execRte a0 s
  | .rdsr a0 => Sys2Proof.Machine.execRdsr a0 s
  | .wrsrCtl a0 => Sys2Proof.Machine.execWrsrCtl a0 s
  | .wrsrFlags a0 => Sys2Proof.Machine.execWrsrFlags a0 s
  | .wrsrSeed a0 => Sys2Proof.Machine.execWrsrSeed a0 s
  | .clk a0 => Sys2Proof.Machine.execClk a0 s
  | .bkpt a0 => Sys2Proof.Machine.execBkpt a0 s
  | .rply a0 => Sys2Proof.Machine.execRply a0 s
  | .harvest a0 => Sys2Proof.Machine.execHarvest a0 s
  | .diag a0 => Sys2Proof.Machine.execDiag a0 s
  | .flgClr a0 => Sys2Proof.Machine.execFlgClr a0 s
  | .flgTest a0 => Sys2Proof.Machine.execFlgTest a0 s
  | .blockMove a0 a1 a2 => Sys2Proof.Machine.execBlockMove a0 a1 a2 s
  | .idleFlit a0 a1 => Sys2Proof.Machine.execIdleFlit a0 a1 s
  | .harvestEntriesWritten a0 a1 a2 => Sys2Proof.Machine.execHarvestEntriesWritten a0 a1 a2 s
  | .schedulingBoundary => Sys2Proof.Machine.execSchedulingBoundary s
  | .holdover => Sys2Proof.Machine.execHoldover s
  | .drained => Sys2Proof.Machine.execDrained s
  | .startHoldover => Sys2Proof.Machine.execStartHoldover s
  | .status => Sys2Proof.Machine.execStatus s
  | .readdt => Sys2Proof.Machine.execReaddt s
  | .ctxnew => Sys2Proof.Machine.execCtxnew s
  | .ctxend => Sys2Proof.Machine.execCtxend s
  | .ctxsave => Sys2Proof.Machine.execCtxsave s
  | .ctxrun => Sys2Proof.Machine.execCtxrun s
  | .diagrd => Sys2Proof.Machine.execDiagrd s
  | .qnew => Sys2Proof.Machine.execQnew s
  | .qrestart => Sys2Proof.Machine.execQrestart s
  | .qfree => Sys2Proof.Machine.execQfree s
  | .mapLeaf => Sys2Proof.Machine.execMapLeaf s
  | .unmapLeaf => Sys2Proof.Machine.execUnmapLeaf s
  | .pool => Sys2Proof.Machine.execPool s
  | .faultrspMap => Sys2Proof.Machine.execFaultrspMap s
  | .faultrspRefuse => Sys2Proof.Machine.execFaultrspRefuse s
  | .dispset => Sys2Proof.Machine.execDispset s
  | .pose => Sys2Proof.Machine.execPose s
  | .depart => Sys2Proof.Machine.execDepart s
  | .evlog => Sys2Proof.Machine.execEvlog s
  | .dbgattAttach => Sys2Proof.Machine.execDbgattAttach s
  | .dbgattDetach => Sys2Proof.Machine.execDbgattDetach s
  | .saverwToHost => Sys2Proof.Machine.execSaverwToHost s
  | .saverwToSaveArea => Sys2Proof.Machine.execSaverwToSaveArea s
  | .getid => Sys2Proof.Machine.execGetid s
  | .attest => Sys2Proof.Machine.execAttest s

end Sys2Proof.Machine
end

