-- ==== Sys2Proof/Machine/Moves.lean ====
section
/-! DEFINITION. What moves next: the slot that a partition has fetched, the passing of time, and the moves that are open
to the machine when its environment names none. -/

namespace Sys2Proof.Machine

/-- The instruction at which a partition stands (R42): the slot after a prefix, if one stands there (R90). -/
def State.slotInstr (s : State) : Option Instr :=
  match cx s with
  | none => none
  | some c =>
    match decodeSlot (c.run.words.getD c.slot 0) with
    | .ok i => some i
    | .error _ => none

/-! ### One cycle -/

/-- Fabric time after a cycle of 5/6 ns (R5, R29, R30): at half rate while the time of the switch is behind. -/
def State.tickTime (s : State) : State :=
  let go (t : Dword) (rem add : Nat) : Dword × Nat := (t + BitVec.ofNat 64 ((rem + add) / 12), (rem + add) % 12)
  match s.ftimeSlow with
  | none =>
    let (t, r) := go s.ftime s.ftimeRem 10
    { s with clock := s.clock + 1, ftime := t, ftimeRem := r }
  | some (x, xr) =>
    let (t, r) := go s.ftime s.ftimeRem 5
    let (x, xr) := go x xr 10
    { s with clock := s.clock + 1, ftime := t, ftimeRem := r, ftimeSlow := if t ≤ x then none else some (x, xr) }

/-- The wait of a thread after a cycle (R353). -/
def Wait.tick : Wait → Wait
  | .sleep n k => .sleep (n - 1) k
  | w => w

/-- A warp after a cycle: sleeping threads count down (R353), and the fairness count rises while two or more PC groups are
eligible (R48).  DESIGN CHOICE (log entry 91): during a long clause or stall the count grows past 2^17 - 1, the most that the 17
bits of R48 hold; nothing reads it but the comparison with the period. -/
def Warp.tick (w : Warp) : Warp :=
  if w.live = 0 then w
  else
    let first := lowest w.live
    let alone := w.parked = 0 && w.wait.all (· = .none) && w.groupOf first = w.live
    if alone then w
    else { w with wait := w.wait.map Wait.tick, fair := if 2 ≤ w.readyGroups.length then w.fair + 1 else w.fair }

/-- The groups of a context that issues after a cycle. -/
def State.tickGroups (s : State) : State :=
  { s with groups := s.groups.map (fun g => if g.started then { g with warps := g.warps.map Warp.tick } else g) }

/-- An access goes to a vault column in retention, where it parks (R231). -/
def State.inRetention (s : State) (ctx sp : Nat) (write : Bool) (j : Job) : Bool :=
  match s.locate ctx sp j.name j.addr write with
  | .ok (.key k) => (match keyColumn k with | some v => (s.column v).vault = .retention | none => false)
  | _ => false

/-- The warp of the clause that a partition issues, where its slot is an access that parks on a vault column in retention
(R231). -/
def State.retained (s : State) (col part : Nat) : Option (Nat × Nat) :=
  (cx { s with issuer := (col, part) }).bind (fun c =>
    let word := c.run.words.getD c.slot 0
    let m := MFields.ofWord word
    let o := mopOf (opOf word) m
    let js := if opOf word < 0xA0 || 0xA9 < opOf word || opOf word = 0xA8 then []
      else if opOf word = 0xA9 then [(c.waitOp m).job] else c.jobs o (c.once o)
    if js.any (s.inRetention c.g.ctx m.sp.toNat (o.kind ≠ .load)) then some (c.g.uid, c.w.wid) else none)

/-- A warp some thread of which is parked on WAITV whose read parks on a vault column in retention. -/
def State.waitRetained (s : State) (g : Group) (w : Warp) : Bool :=
  (lanesOf w.live).any (fun l => match w.waitOf l with
    | .waitv x => s.inRetention g.ctx x.fields.sp.toNat false x.job
    | _ => false)

/-- A group after a cycle that some of its warps spent parked. -/
def Group.pause (g : Group) (now : Nat) (wids : List Nat) : Group :=
  if wids = [] then g
  else
    match g.pauses with
    | x :: t =>
      if x.wids = wids && x.first + x.len = now then { g with pauses := { x with len := x.len + 1 } :: t }
      else { g with pauses := { wids, first := now, len := 1 } :: g.pauses }
    | [] => { g with pauses := [{ wids, first := now, len := 1 }] }

/-- The cycle that passes is one that warps parked on a column in retention do not count (R231). -/
def State.tickPauses (s : State) : State :=
  if s.columns.all (fun k => k.vault ≠ .retention) then s
  else
    let held := ((List.range Config.nColumns).map (fun col => (List.range 8).filterMap (s.retained col))).flatten
    { s with groups := s.groups.map (fun g => g.pause s.clock.toNat
        ((g.warps.filter (fun w => held.contains (g.uid, w.wid) || s.waitRetained g w)).map Warp.wid)) }

/-- The flits of the last step have left the ports. -/
def State.tickPorts (s : State) : State := { s with ports := s.ports.map (fun p => { p with sent := [] }) }

/-- One main-clock cycle of 5/6 ns passes (R29). -/
def State.passTime (s : State) : State := s.tickPauses.tickTime.tickGroups.tickPorts

/-- Writes of the device and of ended contexts that nobody has acknowledged for 2^22 cycles are awaited no longer: those of a context
that lives end it (R243, R486), the others raise nothing more (R407). -/
def State.expire (s : State) : State :=
  let late (o : Owed) : Bool := o.since + 2 ^ 22 ≤ s.clock.toNat
  (s.owed.filter late).foldl (fun s o =>
    if ((s.ctx o.ctx).map (fun c => c.phase.over)).getD true then s else s.killCtx o.ctx 0x50 0 o.addr [])
    { s with owed := s.owed.filter (fun o => !late o) }

/-- The bins that meet R63 light: it is evaluated in every cycle. -/
def State.lightDue (s : State) : State := s.contexts.foldl (fun s c => s.lightAll 4096 c.id) s

/-- What every cycle brings: contexts of which nothing is left to issue or perform are over (R407), time passes, and bins light. -/
def State.tick (s : State) : State := s.endCtxs.expire.passTime.lightDue

/-! ### An instruction put where a partition issues next -/

/-- A header that announces one slot, of a class that admits it (R78, R80). -/
def fetchHeader (slot : Dword) : Dword :=
  let cls : BitVec 4 := match formatOf (opOf slot) with
    | some .m => 1
    | some .x => 2
    | some .e => 4
    | some .s => 5
    | _ => 0
  put 0x5A#8 56 ||| put cls 52 ||| put (BitVec.ofBool (isControl slot)) 35

/-- A launch record with 64 general registers, 16 compact registers, one warp of one thread and one tile. -/
def fetchRecord : Bytes :=
  List.replicate 8 0 ++ [1, 0, 0, 0, 64, 0, 16, 1, 0, 0, 0, 0, 1] ++ List.replicate (256 - 21) 0

/-- The group whose warp issues a slot on partition 0 of column 0: one thread, in the mode that the slot needs (R106). -/
def fetchGroup (uid : Nat) (slot : Dword) : Group :=
  let w := Warp.fresh 0 0 0 fetchRecord 1
  { Group.placed uid 0 0 0 0 0 fetchRecord []
      [{ w with mode := (match privNeeded (opOf slot) with | 0 => .user | 1 => .handler | _ => .firmware), cur := some 0 }] with
    started := true }

/-- The clause of one slot. -/
def fetchRunning (uid : Nat) (slot : Dword) : Running :=
  { grp := uid, wid := 0, pc := 0, header := fetchHeader slot, words := [slot], idx := 0, lanes := 1 }

/-- The machine with a slot at which partition 0 of column 0 stands. -/
def State.placeSlot (s : State) (slot : Dword) : State :=
  let r := fetchRunning s.nextGroup slot
  { s.updColumn 0 (fun k => { k with
      parts := k.parts.set 0 { k.parts.getD 0 { running := none, lastSlot := 15 } with running := some r } }) with
    groups := s.groups ++ [fetchGroup s.nextGroup slot], nextGroup := s.nextGroup + 1, agenda := .issue 0 0 :: s.agenda }

/-- The machine with a slot in place of the one at which the issuing partition stands. -/
def Cx.replaceSlot (c : Cx) (slot : Dword) : State :=
  let s := c.commit (some { c.run with words := c.run.words.set c.slot slot })
  { s with agenda := .issue c.col c.part :: s.agenda }

/-! ### Open moves -/

/-- The moves of a warp's own operations. -/
def warpMoves (g : Group) (w : Warp) : List Instr :=
  [.trapDelivery g.uid w.wid, .handlerEntry g.uid w.wid, .fairnessPeriod g.uid w.wid, .warpRetire g.uid w.wid
  , .collectiveTimeout g.uid w.wid, .fabricAcknowledgementTimeout g.uid w.wid] ++
  (w.flights.map (fun f => [Instr.resultWritten g.uid w.wid f.id, .storeCompletion g.uid w.wid f.id,
    .cbloadComplete g.uid w.wid f.id])).flatten ++
  (List.range w.tiles.length).map (fun t => .loopStep g.uid w.wid t) ++
  ((List.range 32).map (fun l => match w.waitOf l with
    | .waitv .. => [Instr.waitvWake g.uid w.wid l]
    | .sleep .. => [.sleepExpiry g.uid w.wid l]
    | .harvest .. => [.harvestEntriesWritten g.uid w.wid l]
    | _ => [])).flatten

/-- The moves of a group. -/
def groupMoves (g : Group) : List Instr :=
  (g.warps.map (warpMoves g)).flatten ++ g.bindings.map (.taperBindingComplete g.uid) ++
  (List.range g.bars.length).map (.barrierTimeout g.uid) ++ [.mergeSessionOpen g.uid] ++
  (g.ops.map (fun o => Instr.engineOperationComplete g.uid o.slot ::
    (o.cleared.filter (fun l => !o.written.contains l)).map (.engineLineWritten g.uid o.slot))).flatten

/-- The moves of a context; where a block may move to is among them. -/
def ctxMoves (c : Ctx) : List Instr :=
  [.triangleSetup c.id, .passCloseEffect c.id, .contextSave c.id, .contextSaveComplete c.id] ++
  (match c.pass with
    | some p => (List.range p.work.length).map (.tileRasterise c.id) ++ p.tiles.map (fun t => .classify c.id t.index)
    | none => []) ++
  c.bins.map (fun b => .binTimerLapse c.id b.node b.key b.lan) ++ c.waitRecs.map (fun r => .recordFits c.id r.node) ++
  (c.storages.map (fun b => (c.bsAreas.filter (fun p => !c.storages.any (fun x => x.place = p))).map
    (.blockMove c.id b.id))).flatten

/-- The moves of a column. -/
def columnMoves (s : State) (col : Nat) : List Turn :=
  let c := s.column col
  ((List.range 8).map (fun p => match (c.parts[p]?).bind Partition.running with
    | some _ => Turn.issue col p
    | none => .event (.clauseStart col p))) ++ [.event (.l2ShutdownWindowEnd col)]

/-- The moves of a queue. -/
def queueMoves (q : Queue) : List Instr :=
  [.launch q.qid, .waittok q.qid, .waittokSatisfied q.qid, .signal q.qid, .nodes q.qid, .passopen q.qid,
    .passclose q.qid, .drain q.qid]

/-- The steps of the mailbox, while a command is in service. -/
def mailboxMoves (s : State) : List Instr :=
  if s.serving.isNone then []
  else
    [ .status, .readdt, .ctxnew, .ctxend, .ctxsave, .ctxrun, .diagrd, .qnew, .qrestart, .qfree, .mapLeaf, .unmapLeaf, .pool
    , .faultrspMap, .faultrspRefuse, .dispset, .pose, .depart, .evlog, .dbgattAttach, .dbgattDetach, .saverwToHost
    , .saverwToSaveArea, .getid, .attest, .resetCold (Config.startReport s.fresh), .resetWarm (Config.startReport s.fresh) ]

/-- The moves of the columns that may be open: nine of each, at the same places always. -/
def coreMoves (s : State) : List Turn := ((List.range Config.nColumns).map (columnMoves s)).flatten

/-- The other moves of the machine's own that may be open. -/
def otherMoves (s : State) : List Turn :=
  ((s.groups.map groupMoves).flatten ++ (s.contexts.map ctxMoves).flatten ++
    s.launches.map (fun l => Instr.maxrtExceeded l.uid) ++ (s.queues.map queueMoves).flatten ++
    ((List.range Config.nLanterns).map (fun l => [Instr.faultService l, .faultQueueRoom l])).flatten ++
    s.tlb.map (fun t => Instr.drtAccWriteback t.ctx t.va) ++
    ((List.range 4).map (fun o => [Instr.frameLatch o, .frameDeadline o, .frameStart o, .frameRetire o])).flatten ++
    ((List.range 8).map (fun p =>
      (List.range Config.nColumns).map (fun c => Instr.groupPlacement c p))).flatten ++
    (List.range Config.nPorts).map Instr.portRetrain ++ mailboxMoves s ++
    [Instr.schedulingBoundary, .holdover, .drained, .startHoldover, .monitorSample (Config.readings s.fresh)]).map Turn.event

/-- Every move of the machine's own that may be open; one whose condition does not hold changes nothing. -/
def moves (s : State) : List Turn :=
  if s.phase = .off then [.event (.coldStart (Config.startReport s.fresh))] else coreMoves s ++ otherMoves s

/-- A move as it stands open now: a partition that has a clause issues its slot, and one that has none looks for a clause. -/
def State.asOpen (s : State) (t : Turn) : Turn :=
  match t with
  | .issue c p => if (((s.column c).parts[p]?).bind Partition.running).isSome then t else .event (.clauseStart c p)
  | .event (.clauseStart c p) => if (((s.column c).parts[p]?).bind Partition.running).isSome then .issue c p else t
  | _ => t

/-- The move of a machine whose agenda is empty, and the moves that have still to come in its round.  In every second cycle
`Config.pick` chooses one.  In the others the moves that were open when the round began come one after the other, and then a new
round begins: no move that stays open is passed over for more than two rounds (R76). -/
def State.ownTurn (s : State) : Turn × List Turn :=
  if s.phase = .off || s.clock.toNat % 2 = 1 then
    ((moves s).getD (Config.pick s.fresh % (moves s).length) (.event .schedulingBoundary), s.round)
  else
    match (if s.round = [] then moves s else s.round) with
    | t :: rest => (s.asOpen t, rest)
    | [] => (.event .schedulingBoundary, [])

/-- The next move: the first of the agenda; without one, a move of the machine's own. -/
def State.nextTurn (s : State) : Turn × State :=
  match s.agenda with
  | t :: rest => (t, { s with agenda := rest })
  | [] => (s.ownTurn.1, { s with round := s.ownTurn.2, fresh := s.fresh + 1 })

end Sys2Proof.Machine
end

