-- ==== Sys2Proof/Machine/Step.lean ====
section
/-! DEFINITION. The step: one move of the machine, in one main-clock cycle. -/

namespace Sys2Proof.Machine

/-- The move of a turn: a partition issues the instruction at which it stands, a step of the table comes about, or the
host writes its own memory. -/
def act (t : Turn) (s : State) : Host.Outcome State Fault Refusal :=
  match t with
  | .issue col part =>
    let s := { s with issuer := (col, part) }
    match s.slotInstr with
    | some i =>
      match exec i s with
      | .next t => .next (s.stopHeld t col part)
      | o => o
    | none => .next s
  | .event i => exec i s
  | .hostWrite a bs => .next { s with mem := s.mem.storeAll [(hostKey a, bs)] }
  | .bitError g key => .next (s.bitError g key)

/-- One step. -/
def step (s : State) : Host.Outcome State Fault Refusal :=
  let (t, s) := s.nextTurn
  act t s.tick

/-- The machine with an instruction where the next step fetches its next one: in place of the slot at which a partition
stands; where none stands at one, in a clause of its own on partition 0 of column 0. -/
def State.withFetchWord (s : State) (nbits w : Nat) : State :=
  let slot : Dword := BitVec.ofNat 64 (w % 2 ^ nbits)
  match cx s with
  | some c => c.replaceSlot slot
  | none => s.placeSlot slot

end Sys2Proof.Machine
end

