-- ==== Sys2Proof/Safety.lean ====
section
/-! DEFINITION. What counts as a safe state and a safe run, and the terms in which statements speak of an issued slot. -/

namespace Sys2Proof.Machine

/-! ### Safe states and runs -/

/-- Every memory has its canonical form: the machine's, and the scratchpads of the groups on cores and of those saved. -/
def State.memWf (s : State) : Bool :=
  s.mem.wf && s.groups.all (fun g => g.scr.wf) && s.contexts.all (fun c => c.savedGroups.all (fun g => g.scr.wf))

/-- A run that reaches a state in some number of steps without a fault or a refusal. -/
inductive Reaches : State → State → Prop where
  | refl (s : State) : Reaches s s
  | step {s t u : State} : Sys2Proof.Machine.step s = .next t → Reaches t u → Reaches s u

/-- A state from which no run stops with a fault or a refusal. -/
def State.Safe (s : State) : Prop :=
  ∀ t, Reaches s t → ∃ u, Sys2Proof.Machine.step t = .next u

/-! ### An issued slot -/

/-- No check of a format V slot fails at issue, and nothing holds it (R72, R80, R88, R98, R99, R438). -/
def Cx.admits (c : Cx) (op : Nat) (v : VFields) (d : VDesc) (more : List RegUse) : Bool :=
  (c.vChecks op v (c.uses v d ++ more) (maskUses op v d)).isNone

/-- A result with a tag may go to a register: it is neither compact nor written in a clause of class 6, or the result is
compact, and written whole (R80, R104, R105). -/
def Cx.fits (c : Cx) (r tag : Nat) : Bool :=
  !(c.w.compact r || c.uniform) || (tag ≠ 2 && c.full && c.zeroed = 0)

/-- The registers of a destination. -/
def destRegs (u : Use) (r : Nat) : List Nat :=
  match u with
  | .reg => [r]
  | .pair => [r, r + 1]
  | _ => []

/-- A destination may take a result with a tag. -/
def Cx.fitsDest (c : Cx) (u : Use) (r tag : Nat) : Bool := (destRegs u r).all (fun q => c.fits q tag)

/-- The warp `w`, which a slot has left, once RESULT_WRITTEN has brought the results that the slot put on their way. -/
def Cx.landed (c : Cx) (w : Warp) : Warp := (w.flights.drop c.w.flights.length).foldl Warp.takeResult w

/-- A slot completes by its own effect: the next state is that of the slot's end (R79, R97) with its warp changed to one
that satisfies `P` once its results are there. -/
def Cx.Gives (c : Cx) (o : Host.Outcome State Fault Refusal) (y : Bool) (P : Warp → Prop) : Prop :=
  ∃ w : Warp, o = .next (({ c with w := w } : Cx).finish y) ∧ P (c.landed w)

/-- A warp still owes the acknowledgements that it owed at issue, but for any of the slot's own operation (R243). -/
def Cx.Owes (c : Cx) (w : Warp) : Prop :=
  (∀ a ∈ w.unack, a ∈ c.w.unack) ∧ ∀ a ∈ c.w.unack, a.flight ≠ some c.w.nextFlight → a ∈ w.unack

/-- A warp is as it was at issue but for the given registers and mask registers, the flags, generators, results on their
way and causes after issue. -/
def Cx.Keeps (c : Cx) (w : Warp) (regs masks : List Nat) : Prop :=
  (∀ r, r ∉ regs → w.reg r = c.w.reg r) ∧ (∀ m, m ∉ masks → w.mask m = c.w.mask m) ∧ c.Owes w ∧
    { w with regs := c.w.regs, masks := c.w.masks, flags := c.w.flags, gens := c.w.gens, flights := c.w.flights,
             nextFlight := c.w.nextFlight, counters := c.w.counters, causes := c.w.causes, yields := c.w.yields,
             unack := c.w.unack } = c.w

/-- Flags, generators and causes are as at issue. -/
def Cx.Calm (c : Cx) (w : Warp) : Prop :=
  w.causes = c.w.causes ∧ ∀ l < 32, w.flagOf l = c.w.flagOf l ∧ w.gens.getD l 0 = c.w.gens.getD l 0

/-- A destination (a register, or a pair as 64 bits) after the slot (R91, R104): `P` of the value in each live lane, 0 in
the lanes that `MZ` zeroes, and the old value in the warp's other threads. -/
def Cx.Writes (c : Cx) (w : Warp) (u : Use) (r : Nat) (P : Nat → Dword → Prop) : Prop :=
  ∀ l < 32,
    (c.live.getLsbD l = true → P l (w.operand u r l)) ∧
    (c.live.getLsbD l = false → c.zeroed.getLsbD l = true → w.operand u r l = 0) ∧
    (c.live.getLsbD l = false → c.zeroed.getLsbD l = false → c.w.live.getLsbD l = true →
      w.operand u r l = c.w.operand u r l)

/-- A mask register after a slot that gives a bit in each live lane (R102, R147); m0 stays the live mask. -/
def Cx.WritesMask (c : Cx) (w : Warp) (m : Nat) (P : Nat → Bool) : Prop :=
  if m = 0 then w.mask 0 = c.w.mask 0
  else ∀ l < 32, (w.mask m).getLsbD l =
    if c.live.getLsbD l then P l else if c.zeroed.getLsbD l then false else (c.w.mask m).getLsbD l

/-- The generator state from which a lane's first draw is taken: that of the lane, or on the uniform unit that of the
lowest lane of the PC group (R103, R129). -/
def Cx.genFor (c : Cx) (tag l : Nat) : Word := c.w.gens.getD (if tag = 0 then lowest c.run.lanes else l) 0

/-- A lane's flags after a slot that raised `fs` in it (R132): sticky. -/
def Cx.FlagsAre (c : Cx) (w : Warp) (fs : Nat → BitVec 5) : Prop :=
  ∀ l < 32, w.flagOf l = c.w.flagOf l ||| (if c.live.getLsbD l then fs l else 0)

/-- A slot starts an operation that completes later (R98, R99): it ends with one more flight, which holds the counter `k`
and satisfies `P`; the rest of the warp is as at issue. -/
def Cx.Starts (c : Cx) (o : Host.Outcome State Fault Refusal) (y : Bool) (k : Nat) (P : Flight → Prop) : Prop :=
  ∃ (w : Warp) (f : Flight), o = .next (({ c with w := w } : Cx).finish y) ∧ w.flights = c.w.flights ++ [f] ∧
    f.id = c.w.nextFlight ∧ f.counter = some k ∧ w.counter k = c.w.counter k + 1 ∧
    (∀ j, j ≠ k → w.counter j = c.w.counter j) ∧
    { w with flights := c.w.flights, nextFlight := c.w.nextFlight, counters := c.w.counters } = c.w ∧ P f

/-! ### An issued access -/

/-- The same for a slot that reaches beyond its warp: machine, group and warp as the slot leaves them. -/
def Cx.GivesIn (c : Cx) (o : Host.Outcome State Fault Refusal) (y : Bool) (P : State → Group → Warp → Prop) : Prop :=
  ∃ (s' : State) (g' : Group) (w : Warp),
    o = .next (({ c with s := s', g := g', w := w } : Cx).finish y) ∧ P s' g' (c.landed w)

/-- A warp keeps its registers, masks, flags and thread state after an access; what it may still owe to others (R243) and
what is on its way may have changed. -/
def Cx.KeepsOf (c : Cx) (w : Warp) (regs : List Nat) : Prop :=
  (∀ r, r ∉ regs → w.reg r = c.w.reg r) ∧ (∀ m, w.mask m = c.w.mask m) ∧ c.Calm w ∧
    { w with regs := c.w.regs, masks := c.w.masks, flags := c.w.flags, gens := c.w.gens, flights := c.w.flights,
             nextFlight := c.w.nextFlight, counters := c.w.counters, yields := c.w.yields, unack := c.w.unack } = c.w

/-- A machine after an access: as it was but for memory, the bits gathered for pages (R222), dirty lines (R233), free
values and tags of writes. -/
def State.KeepsBut (s s' : State) : Prop :=
  { s' with mem := s.mem, tlb := s.tlb, columns := s.columns, nextTag := s.nextTag, fresh := s.fresh } = s ∧
    s'.columns.map (fun k => { k with dirty := [] }) = s.columns.map (fun k => { k with dirty := [] })

/-- A format M access that nothing holds, whose checks at issue all pass, and that finds its lines present and its vault and
slice at work, and no earlier access that it must follow (R72, R98, R99, R218, R220-R227, R231, R233, R236, R241, R243, R270). -/
def Cx.accessReady (c : Cx) (o : MOp) : Bool :=
  let single := c.once o
  let load := o.kind = .load
  let js := c.jobs o single
  !(c.held o.uses [] (some o.counter)) && !c.w.logFull && !c.w.owesAcquire c.live && (c.w.badReg o.uses).isNone &&
    (!o.returns || (List.range o.regs).all (fun i => c.fits (o.m.d.toNat + i) (if single && load then 0 else 2))) &&
    (c.issueFault o.sp o.bytes (!load) js).isNone &&
    !(load && o.sp = 1 && js.any (fun j => c.g.missing j.addr.toNat o.bytes)) && !c.parked o.sp (!load) js &&
    c.w.unack.length + c.counted o js ≤ 4095 && !(!load && o.m.ord.getLsbD 1 && c.w.releaseHeld c.live) &&
    !js.any (fun j => c.w.meets o (if single then c.live else laneBit j.lane) j.addr)

/-- The site of an access in this module's memory; none where it is a peer's, does not translate, or meets a cause. -/
def Cx.siteOf (c : Cx) (o : MOp) (j : Job) : Option Site :=
  match c.s.locate c.g.ctx o.sp j.name j.addr (o.kind ≠ .load) with
  | .ok (.peer _) => none
  | .ok (.key k) => if absentKey k then none else some (.key k)
  | .ok x => some x
  | .error _ => none

/-- The byte at an address after some stores in order: that of the last one that covers it. -/
def lastByte (ws : List (Nat × Bytes)) (a : Nat) (old : Byte) : Byte :=
  match ws.reverse.find? (fun w => w.1 ≤ a && a < w.1 + w.2.length) with
  | some w => w.2.getD (a - w.1) 0
  | none => old

end Sys2Proof.Machine
end

