-- ==== Sys2Proof/WellFormed.lean ====
section
/-! DEFINITION. Well-formed instructions: those whose own word decodes (R106), prefix and class apart.  A step of the
device has no encoding and is well-formed. -/

namespace Sys2Proof

/-- No check of R106 fails on the instruction's fields. -/
def Instr.wf (i : Instr) : Bool :=
  match i.check with
  | some r => r.isNone
  | none => true

end Sys2Proof
end

