-- ==== Sys2Proof/Certificates/Slice0/Obligations.lean ====
section
/-! DEFINITION. The statements for the provers, each with the rule of spec/ that it formalises, and the tables of opcodes and
formulas in which they speak. -/

open Sys2Proof Sys2Proof.Machine

/-- No frame that a translation of the machine names is absent from its GDDR 7 (R37), and no stop has been met. -/
def FramesPresent (s : State) : Prop :=
  s.stop = none ∧ ∀ ctx lan off acc k, s.translate ctx lan off acc = .ok k → absentKey k = false

/-! ### A slot's end, and the step -/

/-- The end of a slot that transfers no control (R79, R97) leaves the rest of the machine as it is: every byte of memory,
every other column, group and warp.  The PC group stands at the next slot of its clause, joined there by its threads that
stand at that slot and wait for nothing (R42, R45), or, after the last one, at the header behind the clause, and the
partition is then free.
Where it rests on the model's own choices, log entries 34, 87 name them. -/
def Obligations.SlotEndMovesOn : Prop :=
  ∀ (s t : State) (c : Cx) (w : Warp) (y : Bool),
    cx s = some c → w.wid = c.w.wid → t = ({ c with w := w } : Cx).finish y →
    { t with groups := s.groups, columns := s.columns } = s ∧
    (∀ uid, uid ≠ c.g.uid → t.group uid = s.group uid) ∧
    (∀ col, col ≠ c.col → t.column col = s.column col) ∧
    { t.column c.col with parts := (s.column c.col).parts } = s.column c.col ∧
    (∀ p, p ≠ c.part → (t.column c.col).parts[p]? = (s.column c.col).parts[p]?) ∧
    ∃ (g' : Group) (w' : Warp) (p : Partition),
      t.group c.g.uid = some g' ∧ { g' with warps := c.g.warps } = c.g ∧
      (∀ wid, wid ≠ c.w.wid → g'.warp wid = c.g.warp wid) ∧ g'.warp c.w.wid = some w' ∧
      { w' with pcs := w.pcs, rsl := w.rsl, came := w.came, wait := w.wait, yields := w.yields } = w ∧
      (t.column c.col).parts[c.part]? = some p ∧
      (∀ l < 32, c.run.lanes.getLsbD l = false → w'.pcOf l = w.pcOf l ∧ w'.waitOf l = w.waitOf l ∧ w'.rslOf l = w.rslOf l) ∧
      (if c.slot + 1 < c.run.words.length then
        p.running = some { c.run with idx := c.slot + 1, lanes := ({ c with w := w } : Cx).joined (c.slot + 1) } ∧ w'.pcs = w.pcs ∧ w'.rsl = w.rsl ∧ w'.wait = w.wait
      else
        p.running = none ∧ ∀ l < 32, c.run.lanes.getLsbD l = true →
          w'.pcOf l = codeAddr (c.run.pc + BitVec.ofNat 64 (8 * (c.run.words.length + 1))) ∧ w'.waitOf l = .none ∧ w'.rslOf l = 0)

/-- A step whose agenda names a partition runs exactly the instruction that the slot decodes to at which the partition
stands, after one cycle has passed; a partition that stands at none does nothing else in that cycle.  While a context is
being saved, a slot that stays held by a log entry then stops its PC group there (R418).
Where it rests on the model's own choices, log entries 5, 6, 102 name them. -/
def Obligations.StepRunsDecodedSlot : Prop :=
  ∀ (s : State) (col part : Nat) (rest : List Turn),
    s.agenda = .issue col part :: rest →
    let u : State := { ({ s with agenda := rest } : State).tick with issuer := (col, part) }
    (∀ (c : Cx) (i : Instr), cx u = some c → decodeSlot (c.run.words.getD c.slot 0) = .ok i →
      (∀ t, exec i u = .next t → step s = .next (u.stopHeld t col part) ∧
        ((∀ x ∈ t.contexts, ∀ h n, x.phase ≠ .saving h n) → step s = .next t)) ∧
      ((∀ t, exec i u ≠ .next t) → step s = exec i u)) ∧
    (cx u = none → step s = .next u)

/-- What can come about in a cycle beside time: a context comes to its end, a write of the device is awaited no longer, a bin
lights. -/
def calm (s : State) : Prop :=
  (∀ x ∈ s.contexts, ∀ r k n, x.phase ≠ .ending r k n) ∧ (∀ o ∈ s.owed, s.clock.toNat < o.since + 2 ^ 22)
def dark (s : State) : Prop :=
  ∀ x ∈ s.contexts, x.lights = true → ∀ b ∈ x.bins, x.lightable s.clock.toNat b = false

/-- A step whose agenda names a step of the device runs exactly that step, after one cycle has passed (R29, R30: 5/6 ns a
cycle, and no other part of the machine moves but the counts of the warps and groups, and the flits that have left the ports).
Before it, a context that was ending and of which nothing is left to issue or to perform has come to its end (R407), and writes
that nobody has acknowledged are awaited no longer (R243); after it, the bins that meet R63 light, which is evaluated in every
cycle.  Where it rests on the model's own choices, log entry 5 names them. -/
def StepRunsNamedEvent : Prop :=
  ∀ (s : State) (i : Instr) (rest : List Turn),
    s.agenda = .event i :: rest →
    step s = exec i ({ s with agenda := rest } : State).tick ∧
    let b := s.endCtxs.expire
    let m := b.passTime
    (calm s → b = s) ∧ s.tick = m.lightDue ∧ (dark m → s.tick = m) ∧ m.clock = b.clock + 1 ∧
    { m with clock := b.clock, ftime := b.ftime, ftimeRem := b.ftimeRem, ftimeSlow := b.ftimeSlow, groups := b.groups
             ports := b.ports } = b ∧
    m.ports = b.ports.map (fun p => { p with sent := [] }) ∧
    (b.ftimeSlow = none → b.ftimeRem < 12 →
      12 * m.ftime.toNat + m.ftimeRem = (12 * b.ftime.toNat + b.ftimeRem + 10) % (12 * 2 ^ 64))

/-- A word placed where the machine fetches next is the instruction that the next step runs, while no context comes to an end and
no bin lights in its cycle. -/
def FetchedWordRuns : Prop :=
  ∀ (s : State) (w : Nat) (i : Instr),
    decodeTableWord 64 w = some i → (∀ g ∈ s.groups, g.uid ≠ s.nextGroup) → 0 < s.columns.length →
    0 < (s.column 0).parts.length → cx s = none → calm s → dark { s with clock := s.clock + 1 } →
    ∃ u : State, (∀ t, exec i u = .next t → step (s.withFetchWord 64 w) = .next (u.stopHeld t 0 0)) ∧
      ((∀ t, exec i u ≠ .next t) → step (s.withFetchWord 64 w) = exec i u) ∧ u.issuer = (0, 0) ∧
      (cx u).map (fun c => c.run.words.getD c.slot 0) = some (BitVec.ofNat 64 w)
/-! ### Format V: what the slot writes -/

/-- An integer reduced to `n` bits, read as signed or unsigned (R4, R150). -/
def wrapInt (sg : Bool) (n : Nat) (x : Int) : Int := intOf sg n (x % (2 ^ n : Nat)).toNat

/-- The instructions of R150 that work element by element: opcode, fields, and the exact formula on elements of a width. -/
def elementOp : Instr → Option (Nat × VFields × (Nat → Int → Int → Int → Int))
  | .iadd v => some (0x00, v, fun _ a b _ => a + b)
  | .isub v => some (0x01, v, fun _ a b _ => a - b)
  | .imul v => some (0x02, v, fun _ a b _ => a * b)
  | .imulh v => some (0x03, v, fun n a b _ => (a * b) / (2 ^ n : Nat))
  | .imad v => some (0x04, v, fun _ a b c => a * b + c)
  | .imin v => some (0x08, v, fun _ a b _ => if a ≤ b then a else b)
  | .imax v => some (0x09, v, fun _ a b _ => if a ≤ b then b else a)
  | .iabs v => some (0x0A, v, fun _ a _ _ => (a.natAbs : Int))
  | .iclamp v => some (0x0C, v, fun _ a b c => min (max a b) c)
  | _ => none

/-- The instructions of R150 and R153 that give one sum: opcode, fields, width and signedness of the result, whether `SAT`
clamps it, and its exact value. -/
def sumOp : Instr → Option (Nat × VFields × Nat × Bool × Bool × (VIn → Int))
  | .imadw v =>
    let sg := elemSigned v.ty.toNat
    some (0x05, v, 64, sg, false, fun x => elemOf sg 64 x.c 0 + elemOf sg 32 x.a 0 * elemOf sg 32 x.b 0)
  | .isad v =>
    let ty := v.ty.toNat
    let el := elemOf (elemSigned ty) (elemBits ty)
    some (0x0B, v, 32, false, false, fun x =>
      elemOf false 32 x.c 0 + ((List.range (elemCount ty)).map (fun e => ((el x.a e - el x.b e).natAbs : Int))).sum)
  | .idot2 v => dot 0x0D v
  | .idot4 v => dot 0x0E v
  | _ => none
where
  /-- IDOT2 and IDOT4: with `SUB` 1 the elements of B have the other signedness (R153). -/
  dot (op : Nat) (v : VFields) : Option (Nat × VFields × Nat × Bool × Bool × (VIn → Int)) :=
    let ty := v.ty.toNat
    let n := elemBits ty
    let sa := elemSigned ty
    let sb := if v.sub = 1 then !sa else sa
    some (op, v, 32, sa || sb, true, fun x =>
      elemOf (sa || sb) 32 x.c 0 + ((List.range (elemCount ty)).map (fun e => elemOf sa n x.a e * elemOf sb n x.b e)).sum)

/-- IADDC and ISUBB (R152): opcode, fields, and the exact sum or difference with the carry or borrow that comes in. -/
def carryOp : Instr → Option (Nat × VFields × (Nat → Nat → Nat → Int))
  | .iaddc v => some (0x06, v, fun a b k => (a : Int) + b + k)
  | .isubb v => some (0x07, v, fun a b k => (a : Int) - b - k)
  | _ => none

/-- The instructions that give a bit of a mask register in each lane: opcode, fields, the bit and the flags. -/
def testOp : Instr → Option (Nat × VFields × (VIn → Bool) × (VIn → Flags))
  | .icmp v =>
    let ty := v.ty.toNat
    let el (x : Dword) : Int := elemOf (elemSigned ty) (elemBits ty) x 0
    some (0x0F, v, fun x => match v.sub.toNat with
      | 0 => el x.a = el x.b
      | 1 => el x.a ≠ el x.b
      | 2 => el x.a < el x.b
      | 3 => el x.a ≤ el x.b
      | 4 => el x.b < el x.a
      | _ => el x.b ≤ el x.a, fun _ => 0)
  | .fcmp v =>
    let f := fmtOf v.ty.toNat
    let order (x : VIn) : Option Int := FVal.cmp (f.decode (modA v f x.a 0)) (f.decode (modB v f x.b 0))
    some (0x48, v, fun x => match order x with
      | some o => (match v.sub.toNat with
        | 0 => o = 0
        | 1 => o ≠ 0
        | 2 => o < 0
        | 3 => o ≤ 0
        | 4 => 0 < o
        | 5 => 0 ≤ o
        | 6 => true
        | _ => false)
      | none => v.sub = 1 || v.sub = 7,
      fun x => if (order x).isNone && 2 ≤ v.sub.toNat && v.sub.toNat ≤ 5 then flagNV else 0)
  | .mskmovLane v => if v.sub = 1 then some (0x2A, v, fun x => x.a ≠ 0, fun _ => 0) else none
  | _ => none

/-- The instructions of R155, R156 and R159 that choose each bit of their result: opcode, fields, and bit `k`. -/
def bitOp : Instr → Option (Nat × VFields × (VIn → Nat → Bool))
  | .andB v => some (0x10, v, fun x k => x.a.getLsbD k && x.b.getLsbD k)
  | .orB v => some (0x11, v, fun x k => x.a.getLsbD k || x.b.getLsbD k)
  | .xorB v => some (0x12, v, fun x k => x.a.getLsbD k != x.b.getLsbD k)
  | .andn v => some (0x13, v, fun x k => x.a.getLsbD k && !x.b.getLsbD k)
  | .lop3 v => some (0x14, v, fun x k =>
      v.c.getLsbD (4 * (x.e.getLsbD k).toNat + 2 * (x.a.getLsbD k).toNat + (x.b.getLsbD k).toNat))
  | .bfe v => some (0x1A, v, fun x k => match bitField x.b with
      | none => false
      | some (p, n) => if k < n then x.a.getLsbD (p + k) else v.sub = 1 && x.a.getLsbD (p + n - 1))
  | .bfi v => some (0x1B, v, fun x k => match bitField x.b with
      | none => x.c.getLsbD k
      | some (p, n) => if p ≤ k ∧ k < p + n then x.a.getLsbD (k - p) else x.c.getLsbD k)
  | .brev v => some (0x1C, v, fun x k => x.a.getLsbD ((if v.ty = 6 then 64 else 32) - 1 - k))
  | _ => none

/-- Shifts, rotations, counts and sign extension (R157, R158, R160, R164): opcode, fields, and the result as a number. -/
def numberOp : Instr → Option (Nat × VFields × (VIn → Nat))
  | .shl v => some (0x15, v, fun x => x.a.toNat * 2 ^ (x.b.toNat % wide v) % 2 ^ wide v)
  | .shr v => some (0x16, v, fun x => x.a.toNat / 2 ^ (x.b.toNat % wide v))
  | .sar v => some (0x17, v, fun x =>
      ((intOf true (wide v) x.a.toNat / (2 ^ (x.b.toNat % wide v) : Nat)) % (2 ^ wide v : Nat)).toNat)
  | .rot v => some (0x18, v, fun x =>
      let y : BitVec (wide v) := BitVec.ofNat _ x.a.toNat
      (if v.sub = 0 then y.rotateLeft (x.b.toNat % wide v) else y.rotateRight (x.b.toNat % wide v)).toNat)
  | .fshf v => some (0x19, v, fun x =>
      let y := x.b.toNat * 2 ^ 32 + x.a.toNat
      let n := x.c.toNat % 32
      if v.sub = 0 then y / 2 ^ n % 2 ^ 32 else y * 2 ^ n / 2 ^ 32 % 2 ^ 32)
  | .popc v => some (0x1D, v, fun x => (List.range (wide v)).countP (fun k => x.a.getLsbD k))
  | .clz v => some (0x1E, v, fun x => if x.a = 0 then wide v else wide v - 1 - Nat.log2 x.a.toNat)
  | .ctz v => some (0x1F, v, fun x => ((List.range (wide v)).find? (fun k => x.a.getLsbD k)).getD (wide v))
  | .sext v => some (0x24, v, fun x =>
      let n := x.b.toNat % 32 + 1
      if v.sub = 0 then (intOf true n x.a.toNat % (2 ^ 32 : Nat)).toNat else x.a.toNat % 2 ^ n)
  | _ => none
where
  /-- The operand width of `.b32` and `.b64`. -/
  wide (v : VFields) : Nat := if v.ty = 6 then 64 else 32

/-- Moves and selections (R161-R163): opcode, fields, the tag of the result's first or second register, and its value. -/
def moveOp : Instr → Option (Nat × VFields × (Cx → VDesc → Nat → Nat) × (Cx → VIn → Dword))
  | .mov v => some (0x20, v, fun c d k =>
      if c.masked then 2
      else if d.d = .pair ∧ v.bk = 0 then (c.w.reg (v.b.toNat + k)).tag else c.tagB v (d.b = .pair), fun _ x => x.b)
  | .movl v => some (0x21, v, fun c d _ => c.ruleTag 0x21 v d, fun _ x =>
      let half (y : Dword) (k : Nat) : BitVec 16 := y.extractLsb' k 16
      ((if v.sub = 0 then half x.d 16 ++ half x.b 0 else half x.b 0 ++ half x.d 0 : Word)).setWidth 64)
  | .sel v => some (0x22, v, fun c d k =>
      let m := c.w.mask v.sub.toNat
      if c.masked then 2
      else if (lanesOf c.live).all (fun l => m.getLsbD l) then (c.w.reg (v.a.toNat + k)).tag
      else if (lanesOf c.live).all (fun l => !m.getLsbD l) then
        (if d.d = .pair ∧ v.bk = 0 then (c.w.reg (v.b.toNat + k)).tag else c.tagB v (d.b = .pair))
      else 2, fun c x => if (c.w.mask v.sub.toNat).getLsbD x.lane then x.a else x.b)
  | .prmt v => some (0x23, v, fun c d _ => c.ruleTag 0x23 v d, fun _ x =>
      let byte (k : Nat) : Nat := (x.b.toNat * 2 ^ 32 + x.a.toNat) / 2 ^ (8 * k) % 256
      let code (j : Nat) : Nat := x.c.toNat / 16 ^ j % 16
      let rec' (j prev : Nat) : Nat :=
        if code j < 8 then byte (code j)
        else if code j = 9 then 255
        else if code j = 10 then prev
        else if code j = 11 then (if 128 ≤ prev then 255 else 0)
        else 0
      let b0 := if v.sub = 0 then rec' 0 0 else byte (x.c.toNat % 8)
      let b1 := if v.sub = 0 then rec' 1 b0 else byte ((x.c.toNat % 8 + 1) % 8)
      let b2 := if v.sub = 0 then rec' 2 b1 else byte ((x.c.toNat % 8 + 2) % 8)
      let b3 := if v.sub = 0 then rec' 3 b2 else byte ((x.c.toNat % 8 + 3) % 8)
      BitVec.ofNat 64 (b0 + b1 * 2 ^ 8 + b2 * 2 ^ 16 + b3 * 2 ^ 24))
  | _ => none

/-- Instructions that give the rounded elements of R143 and R144: opcode, fields, width of a result element, how many, and
the element that sources and a 16-bit draw give. -/
def floatOp : Instr → Option (Nat × VFields × Nat × Nat × (Cx → VIn → Nat → Nat → Res))
  | .fadd v => elems 0x40 v (fun c f a b _ r => c.roundTo f (FVal.sum c.rdn [f.decode a, f.decode b]) r)
  | .fsub v => elems 0x41 v (fun c f a b _ r => c.roundTo f (FVal.sum c.rdn [f.decode a, (f.decode b).neg]) r)
  | .fmul v => elems 0x42 v (fun c f a b _ r => c.roundTo f (FVal.mul (f.decode a) (f.decode b)) r)
  | .ffma v => elems 0x43 v (fun c f a b k r =>
      c.roundTo f (sumOf c.rdn [FVal.mul (f.decode a) (f.decode b), (f.decode k, 0)]) r)
  | .fmin v => elems 0x44 v (fun _ f a b _ _ => Res.of (pick f false FVal.below a b))
  | .fmax v => elems 0x45 v (fun _ f a b _ _ => Res.of (pick f false (fun x y => FVal.below y x) a b))
  | .fminm v => elems 0x46 v (fun _ f a b _ _ => Res.of (pick f true FVal.below a b))
  | .fmaxm v => elems 0x47 v (fun _ f a b _ _ => Res.of (pick f true (fun x y => FVal.below y x) a b))
  | .frnd v => elems 0x49 v (fun c f a _ _ r => frndElem f c.mode a r)
  | .ffrac v => elems 0x4A v (fun _ f a _ _ _ => ffracElem f a)
  | .fclass v =>
    let f := fmtOf v.ty.toNat
    some (0x4B, v, 16, fcount v.ty.toNat, fun _ x e _ => Res.of (2 ^ (match f.decode (modA v f x.a e) with
      | .nan => 8
      | .inf s => if s then 0 else 7
      | .fin s m _ =>
        if m = 0 then (if s then 3 else 4)
        else if modA v f x.a e % 2 ^ (f.width - 1) < 2 ^ f.mbits then (if s then 2 else 5)
        else (if s then 1 else 6))))
  | .fldexp v =>
    let f := fmtOf v.ty.toNat
    let n := if fcount v.ty.toNat = 2 then 16 else 32
    some (0x4C, v, f.width, fcount v.ty.toNat, fun c x e r => match f.decode (modA v f x.a e) with
      | .nan => Res.of f.nanCode
      | .inf _ => Res.of (modA v f x.a e)
      | .fin sg m k =>
        if m = 0 then Res.of (modA v f x.a e) else c.roundTo f (.fin sg m (k + elemOf true n x.b e), 0) r)
  | .fexpo v =>
    let f := fmtOf v.ty.toNat
    let n := if fcount v.ty.toNat = 2 then 16 else 32
    some (0x4D, v, n, fcount v.ty.toNat, fun _ x e _ => fexpoElem f n (modA v f x.a e))
  | .fmant v => elems 0x4E v (fun _ f a _ _ _ => fmantElem f a)
  | .fdot2 v => dot 0x4F v
  | .fdot4 v => dot 0x50 v
  | .fcpys v => elems 0x51 v (fun _ f a b _ _ =>
      let top := 2 ^ (f.width - 1)
      let sign : Bool := match v.sub.toNat with
        | 0 => top ≤ b
        | 1 => !decide (top ≤ b)
        | _ => decide (top ≤ a) != decide (top ≤ b)
      Res.of (if f.decode a = .nan then f.nanCode else a % top + if sign then top else 0))
  | .fmed3 v => elems 0x52 v (fun _ f a b k _ =>
      let lo := pick f false FVal.below
      let hi := pick f false (fun x y => FVal.below y x)
      Res.of (hi (lo a b) (lo (hi a b) k)))
  | .cvt v => some (0x53, v, 64, 1, fun c x _ r =>
      cvtElem v.sub.toNat (v.mod.getLsbD 1) (v.mod.getLsbD 3) c.mode c.sat x.a r)
  | .cvtup v => some (0x55, v, 64, 1, fun _ x _ _ =>
      let (f, pos) := upForm v.sub.toNat
      Res.of (Fmt.f32.round 1 false (f.decode (f.modify (v.mod.getLsbD 1) (v.mod.getLsbD 3)
        (x.a.toNat / 2 ^ pos % 2 ^ f.width))) 0).code)
  | .rcp v => special 0x60 v
  | .rsq v => special 0x61 v
  | .sqrt v => special 0x62 v
  | .exp2 v => special 0x63 v
  | .log2 v => special 0x64 v
  | .sinpi v => special 0x65 v
  | .cospi v => special 0x66 v
  | .tanh v => special 0x67 v
  | .sigm v => special 0x68 v
  | .divf v => elems 0x6B v (fun c f a b _ r => divf f c.mode c.sat a b r)
  | _ => none
where
  /-- Elements of the instruction's own type, from the codes of A and B after `MOD` and of C. -/
  elems (op : Nat) (v : VFields) (g : Cx → Fmt → Nat → Nat → Nat → Nat → Res) :
      Option (Nat × VFields × Nat × Nat × (Cx → VIn → Nat → Nat → Res)) :=
    let f := fmtOf v.ty.toNat
    some (op, v, f.width, fcount v.ty.toNat, fun c x e r => g c f (modA v f x.a e) (modB v f x.b e) (codeOf f x.c e) r)
  /-- FDOT2 and FDOT4: one rounding of the exact sum of the products and C (R172). -/
  dot (op : Nat) (v : VFields) : Option (Nat × VFields × Nat × Nat × (Cx → VIn → Nat → Nat → Res)) :=
    let f := fmtOf v.ty.toNat
    some (op, v, 64, 1, fun c x _ r => c.roundTo Fmt.f32 (sumOf c.rdn
      ((Fmt.f32.decode (codeOf Fmt.f32 x.c 0), 0) ::
        (List.range (if op = 0x4F then 2 else 4)).map (fun e =>
          FVal.mul (f.decode (modA v f x.a e)) (f.decode (modB v f x.b e))))) r)
  /-- A special function (R187, R188). -/
  special (op : Nat) (v : VFields) : Option (Nat × VFields × Nat × Nat × (Cx → VIn → Nat → Nat → Res)) :=
    elems op v (fun c f a _ _ r => sfu op f c.mode c.sat a r (Config.sfuError op (widened f a)))
  /-- Minimum and maximum (R173): `less x y` chooses the first; a NaN loses, or wins where `prop`. -/
  pick (f : Fmt) (prop : Bool) (less : FVal → FVal → Bool) (a b : Nat) : Nat :=
    match f.decode a, f.decode b with
    | .nan, .nan => f.nanCode
    | .nan, _ => if prop then f.nanCode else b
    | _, .nan => if prop then f.nanCode else a
    | x, y => if less x y then a else b

/-- IADD, ISUB, IMUL, IMULH, IMAD, IMIN, IMAX, IABS and ICLAMP complete with every element of the result the exact formula of
R150 on the source elements, reduced modulo 2^n or clamped under `SAT`; nothing else of the warp changes. -/
def Obligations.IntegerElementResults : Prop :=
  ∀ (s : State) (c : Cx) (i : Instr) (op : Nat) (v : VFields) (d : VDesc) (f : Nat → Int → Int → Int → Int),
    cx s = some c → elementOp i = some (op, v, f) → vDesc op v.ty.toNat v.sub.toNat = some d →
    c.admits op v d [] = true → c.fitsDest d.d v.d.toNat (c.ruleTag op v d) = true →
    c.Gives (exec i s) v.y (fun w =>
      c.Keeps w (destRegs d.d v.d.toNat) [] ∧ c.Calm w ∧
      c.Writes w d.d v.d.toNat (fun l r =>
        let x := c.sources op v d l
        let n := elemBits v.ty.toNat
        let sg := elemSigned v.ty.toNat
        ∀ e < elemCount v.ty.toNat,
          let y := f n (elemOf sg n x.a e) (elemOf sg n x.b e) (elemOf sg n x.c e)
          elemOf sg n r e = if c.sat then clampInt sg n y else wrapInt sg n y))

/-- IMADW, ISAD, IDOT2 and IDOT4 complete with the exact sum of R150 and R153, reduced to the result's width or clamped
under `SAT`; nothing else of the warp changes. -/
def IntegerSumResults : Prop :=
  ∀ (s : State) (c : Cx) (i : Instr) (op : Nat) (v : VFields) (d : VDesc) (n : Nat) (sg sat : Bool) (f : VIn → Int),
    cx s = some c → sumOp i = some (op, v, n, sg, sat, f) → vDesc op v.ty.toNat v.sub.toNat = some d →
    c.admits op v d [] = true → c.fitsDest d.d v.d.toNat (c.ruleTag op v d) = true →
    c.Gives (exec i s) v.y (fun w =>
      c.Keeps w (destRegs d.d v.d.toNat) [] ∧ c.Calm w ∧
      c.Writes w d.d v.d.toNat (fun l r =>
        let y := f (c.sources op v d l)
        intOf sg n r.toNat = if sat && c.sat then clampInt sg n y else wrapInt sg n y))

/-- IADDC and ISUBB complete with the low 32 bits of a + b + k or a - b - k, k the bit of the incoming mask register (0 for
m0), and with the carry or borrow in the outgoing mask register unless that is m0; nothing else of the warp changes. -/
def CarryResults : Prop :=
  ∀ (s : State) (c : Cx) (i : Instr) (op : Nat) (v : VFields) (d : VDesc) (f : Nat → Nat → Nat → Int),
    cx s = some c → carryOp i = some (op, v, f) → vDesc op v.ty.toNat v.sub.toNat = some d →
    c.admits op v d [] = true →
    (∀ r ∈ destRegs d.d v.d.toNat, c.fits r (if v.c.toNat % 8 = 0 ∧ c.masked = false then c.ruleTag op v d else 2) = true) →
    c.Gives (exec i s) v.y (fun w =>
      let kin (l : Nat) : Nat := if v.c.toNat % 8 ≠ 0 ∧ (c.w.mask (v.c.toNat % 8)).getLsbD l = true then 1 else 0
      let y (l : Nat) : Int :=
        let x := c.sources op v d l
        f (x.a.toNat % 2 ^ 32) (x.b.toNat % 2 ^ 32) (kin l)
      c.Keeps w (destRegs d.d v.d.toNat) [v.c.toNat / 8 % 8] ∧ c.Calm w ∧
      c.Writes w d.d v.d.toNat (fun l r => (r.toNat : Int) = y l % (2 ^ 32 : Nat)) ∧
      c.WritesMask w (v.c.toNat / 8 % 8) (fun l => y l < 0 || (2 ^ 32 : Nat) ≤ y l))

/-- ICMP, FCMP and MSKMOV `.lane` complete with the tested bit of every live lane in the mask register (m0 is left alone);
FCMP raises NV where an ordered condition meets a NaN; no general register changes. -/
def Obligations.TestResults : Prop :=
  ∀ (s : State) (c : Cx) (i : Instr) (op : Nat) (v : VFields) (d : VDesc) (p : VIn → Bool) (fl : VIn → Flags),
    cx s = some c → testOp i = some (op, v, p, fl) → vDesc op v.ty.toNat v.sub.toNat = some d →
    c.admits op v d [] = true →
    (∀ l < 32, c.live.getLsbD l = true → v.q = false → fl (c.sources op v d l) &&& c.w.trapEnables = 0) →
    c.Gives (exec i s) v.y (fun w =>
      c.Keeps w [] [v.d.toNat] ∧ w.causes = c.w.causes ∧
      c.FlagsAre w (fun l => if v.q then 0 else fl (c.sources op v d l)) ∧
      c.WritesMask w v.d.toNat (fun l => p (c.sources op v d l)))

/-- AND, OR, XOR, ANDN, LOP3, BFE, BFI and BREV complete with every bit of the result as R155, R156 and R159 give it;
nothing else of the warp changes. -/
def BitResults : Prop :=
  ∀ (s : State) (c : Cx) (i : Instr) (op : Nat) (v : VFields) (d : VDesc) (f : VIn → Nat → Bool),
    cx s = some c → bitOp i = some (op, v, f) → vDesc op v.ty.toNat v.sub.toNat = some d →
    c.admits op v d [] = true → c.fitsDest d.d v.d.toNat (c.ruleTag op v d) = true →
    c.Gives (exec i s) v.y (fun w =>
      c.Keeps w (destRegs d.d v.d.toNat) [] ∧ c.Calm w ∧
      c.Writes w d.d v.d.toNat (fun l r =>
        ∀ k < 64, r.getLsbD k = (decide (k < if v.ty = 6 then 64 else 32) && f (c.sources op v d l) k)))

/-- SHL, SHR, SAR, ROT, FSHF, POPC, CLZ, CTZ and SEXT complete with the number of R157, R158, R160 and R164; nothing else of
the warp changes. -/
def ShiftCountResults : Prop :=
  ∀ (s : State) (c : Cx) (i : Instr) (op : Nat) (v : VFields) (d : VDesc) (f : VIn → Nat),
    cx s = some c → numberOp i = some (op, v, f) → vDesc op v.ty.toNat v.sub.toNat = some d →
    c.admits op v d [] = true → c.fitsDest d.d v.d.toNat (c.ruleTag op v d) = true →
    c.Gives (exec i s) v.y (fun w =>
      c.Keeps w (destRegs d.d v.d.toNat) [] ∧ c.Calm w ∧
      c.Writes w d.d v.d.toNat (fun l r => r.toNat = f (c.sources op v d l)))

/-- MOV, MOVL, SEL and PRMT complete with the value of R161 to R163, and under no prefix mask a full write keeps the tag that
those rules give; nothing else of the warp changes. -/
def MoveResults : Prop :=
  ∀ (s : State) (c : Cx) (i : Instr) (op : Nat) (v : VFields) (d : VDesc) (tag : Cx → VDesc → Nat → Nat)
    (f : Cx → VIn → Dword),
    cx s = some c → moveOp i = some (op, v, tag, f) → vDesc op v.ty.toNat v.sub.toNat = some d →
    c.admits op v d [] = true → (∀ r ∈ destRegs d.d v.d.toNat, c.fits r (tag c d (r - v.d.toNat)) = true) →
    c.Gives (exec i s) v.y (fun w =>
      c.Keeps w (destRegs d.d v.d.toNat) [] ∧ c.Calm w ∧
      c.Writes w d.d v.d.toNat (fun l r => r = f c (c.sources op v d l)) ∧
      (c.full = true → c.zeroed = 0 →
        ∀ r ∈ destRegs d.d v.d.toNat, (w.reg r).tag = tag c d (r - v.d.toNat)))

/-- MKAFF, MKGEN, SHAPE and LANEID complete with the values and tags of R165 to R167; nothing else of the warp changes.
MKAFF asks for sources that count as U. -/
def ShapeResults : Prop :=
  ∀ (s : State) (c : Cx) (v : VFields) (op : Nat) (d : VDesc),
    cx s = some c → vDesc op v.ty.toNat v.sub.toNat = some d → c.admits op v d [] = true →
    let ends (i : Instr) (tag : Nat) (f : Nat → Word) : Prop :=
      c.fits v.d.toNat (if c.masked then 2 else tag) = true →
      c.Gives (exec i s) v.y (fun w =>
        c.Keeps w [v.d.toNat] [] ∧ c.Calm w ∧
        c.Writes w .reg v.d.toNat (fun l r => r = (f l).setWidth 64) ∧
        (c.full = true → c.zeroed = 0 → c.masked = false → (w.reg v.d.toNat).tag = tag))
    (op = 0x25 → (c.w.reg v.a.toNat).tag = 0 → c.tagB v false = 0 →
      ends (.mkaff v) 1 (fun l =>
        let x := c.sources op v d l
        x.a.setWidth 32 + BitVec.ofNat 32 l * x.b.setWidth 32)) ∧
    (op = 0x26 → ends (.mkgen v) 2 (fun l => c.w.rd v.a.toNat l)) ∧
    (op = 0x27 → ends (.shape v) 0 (fun _ => match c.w.reg v.a.toNat, v.sub.toNat with
      | .u _, 0 => 0
      | .a _ _, 0 => 1
      | .g _, 0 => 2
      | .u x, 1 => x
      | .a b _, 1 => b
      | .a _ st, _ => st
      | _, _ => 0)) ∧
    (op = 0x28 → ends (.laneid v) (if v.sub = 0 then 1 else if v.sub = 3 then 0 else 2) (fun l =>
      BitVec.ofNat 32 (match v.sub.toNat with
        | 0 => l
        | 1 => l % c.w.width
        | 2 => l / c.w.width
        | _ => c.w.width)))

/-- MSKOP, MSKMOV and MSKMOV `.word` complete: a whole mask register computed from masks or taken from a register of tag U
(m0 is left alone), or a register with the bits of a mask in every live lane, of tag U (R168, R169). -/
def MaskMoveResults : Prop :=
  ∀ (s : State) (c : Cx) (v : VFields) (op : Nat) (d : VDesc),
    cx s = some c → vDesc op v.ty.toNat v.sub.toNat = some d → c.admits op v d [] = true →
    let whole (i : Instr) (x : Word) : Prop := c.Gives (exec i s) v.y (fun w =>
      c.Keeps w [] [v.d.toNat] ∧ c.Calm w ∧ w.mask v.d.toNat = if v.d = 0 then c.w.mask 0 else x)
    (op = 0x29 →
      let a := c.w.mask v.a.toNat
      let b := c.w.mask v.b.toNat
      whole (.mskop v) (match v.sub.toNat with
        | 0 => a &&& b
        | 1 => a ||| b
        | 2 => a ^^^ b
        | 3 => a &&& ~~~b
        | 4 => ~~~a
        | _ => a)) ∧
    (op = 0x2A → v.sub = 2 → ∀ x, c.w.reg v.a.toNat = .u x → whole (.mskmovWord v) x) ∧
    (op = 0x2A → v.sub = 0 → c.fits v.d.toNat (if c.masked then 2 else 0) = true →
      c.Gives (exec (.mskmov v) s) v.y (fun w =>
        c.Keeps w [v.d.toNat] [] ∧ c.Calm w ∧
        c.Writes w .reg v.d.toNat (fun _ r => r = (c.w.mask v.a.toNat).setWidth 64)))

/-- The flags that a floating-point result raises in a lane; none with `Q` (R89). -/
def raisedBy (c : Cx) (v : VFields) (width n tag : Nat) (g : VIn → Nat → Nat → Res) (op : Nat) (d : VDesc) (l : Nat) : LOut :=
  let o := runElems width (g (c.sources op v d l)) (List.range n) (c.genFor tag l) (LOut.of 0)
  if v.q then { o with flags := 0 } else o

/-- The floating-point, conversion and special-function instructions complete: each element of the result is the rounding of
its exact value, in ascending order with the lane's draws, its flags stick unless `Q` is set, and the generators advance by
the draws taken.  For the approximate functions the choice inside R188's bound is `Config.sfuError`'s. -/
def FloatResults : Prop :=
  ∀ (s : State) (c : Cx) (i : Instr) (op : Nat) (v : VFields) (d : VDesc) (width n : Nat)
    (g : Cx → VIn → Nat → Nat → Res),
    cx s = some c → floatOp i = some (op, v, width, n, g) → vDesc op v.ty.toNat v.sub.toNat = some d →
    c.admits op v d [] = true → c.fitsDest d.d v.d.toNat (c.ruleTag op v d) = true →
    let tag := c.ruleTag op v d
    let o := raisedBy c v width n tag (g c) op d
    (∀ l < 32, c.live.getLsbD l = true → (o l).flags &&& c.w.trapEnables = 0) →
    c.Gives (exec i s) v.y (fun w =>
      c.Keeps w (destRegs d.d v.d.toNat) [] ∧ w.causes = c.w.causes ∧ c.FlagsAre w (fun l => (o l).flags) ∧
      c.Writes w d.d v.d.toNat (fun l r => r = if d.d = .pair then (o l).val else ((o l).val.setWidth 32).setWidth 64) ∧
      (∀ l < 32, w.gens.getD l 0 =
        advanceGen (if tag = 0 then (if c.run.lanes.getLsbD l then (o (lowest c.live)).draws else 0)
          else if c.live.getLsbD l then (o l).draws else 0) (c.w.gens.getD l 0)))

/-- CVTPK completes: the two roundings stand side by side at the place that `SUB` names and the other bits of D are kept
(R181); TBL and TBLI complete with the interpolation of R195 in the bank's current generation. -/
def PackTableResults : Prop :=
  ∀ (s : State) (c : Cx) (v : VFields) (op : Nat) (d : VDesc),
    cx s = some c → vDesc op v.ty.toNat v.sub.toNat = some d → c.admits op v d [] = true →
    c.fits v.d.toNat (c.ruleTag op v d) = true →
    (op = 0x54 →
      let (f, w0, pos) := packForm v.sub.toNat
      let o := raisedBy c v w0 2 (c.ruleTag op v d) (fun x e r => f.narrow c.mode c.sat
        (Fmt.f32.decode (if e = 0 then modA v Fmt.f32 x.a 0 else modB v Fmt.f32 x.b 0)) r) op d
      (∀ l < 32, c.live.getLsbD l = true → (o l).flags &&& c.w.trapEnables = 0) →
      c.Gives (exec (.cvtpk v) s) v.y (fun w =>
        c.Keeps w [v.d.toNat] [] ∧ w.causes = c.w.causes ∧ c.FlagsAre w (fun l => (o l).flags) ∧
        c.Writes w .reg v.d.toNat (fun l r => ∀ k < 32, r.getLsbD k =
          if pos ≤ k ∧ k < pos + 2 * w0 then (o l).val.getLsbD (k - pos) else (c.w.rd v.d.toNat l).getLsbD k))) ∧
    ((op = 0x69 ∨ op = 0x6A) → c.noBanks = false → (c.bank (v.sub.toNat % 8)).cur.mode = 1 →
      let f := fmtOf v.ty.toNat
      let value (x : VIn) (e : Nat) : Nat :=
        let y := tableValue (c.bank (v.sub.toNat % 8)).cur (op = 0x6A) (v.sub.toNat / 8) (f.decode (modA v f x.a e))
        if f = Fmt.f32 then y.toNat else (f.narrow 1 false (f32 y) 0).code
      c.Gives (exec (if op = 0x69 then .tbl v else .tbli v) s) v.y (fun w =>
        c.Keeps w [v.d.toNat] [] ∧ c.Calm w ∧
        c.Writes w .reg v.d.toNat (fun l r => r = ((raisedBy c v f.width (fcount v.ty.toNat) (c.ruleTag op v d)
          (fun x e _ => Res.of (value x e)) op d l).val.setWidth 32).setWidth 64)))
/-! ### Blocks and lanes -/

/-- QBLK and DQBLK complete under a format slot that R183 admits: QBLK gives each lane its codes and its bundle's scale word,
DQBLK each lane the rounded values of its codes (R184, R185); nothing else of the warp changes.
Where it rests on the model's own choices, log entry 92 names them. -/
def Obligations.BlockConversionResults : Prop :=
  ∀ (s : State) (c : Cx) (v : VFields) (op : Nat) (d : VDesc) (f : FSlot) (e : Nat),
    cx s = some c → vDesc op v.ty.toNat v.sub.toNat = some d → c.admits op v d [] = true →
    blockSlot (recFS c.g.record (v.sub.toNat % 8)) c.w.width = .ok (f, e) →
    let fmt := (elemFmt f.etype).getD Fmt.e2m1
    let cw := etypeBits f.etype
    (op = 0x56 →
      c.w.busy [(0, v.d.toNat, 2), (1, v.a.toNat, e)] [] = false →
      c.w.badReg [(0, v.d.toNat, 2), (1, v.a.toNat, e)] = none →
      c.fits v.d.toNat 2 = true → c.fits (v.d.toNat + 1) 2 = true →
      let src (l j : Nat) : FVal :=
        if c.live.getLsbD l then Fmt.f32.decode (modA v Fmt.f32 ((c.w.rd (v.a.toNat + j) l).setWidth 64) 0)
        else .fin false 0 0
      let first (l : Nat) : Nat := l / c.w.width * c.w.width
      let block (l : Nat) : List FVal :=
        ((List.range c.w.width).map (fun k => (List.range e).map (src (first l + k)))).flatten
      let scale (l : Nat) : Nat := blockScale fmt (block l)
      let nine (l : Nat) : Nat := blockNine f.nine (scale l) (block l)
      let o (l : Nat) : LOut := encodeLane cw (fun j r =>
        encodeElem fmt f.nine (c.slotMode f) (c.sat || f.sat) (scale l) (nine l) (src l j) r) e (c.w.gens.getD l 0)
      (∀ l < 32, c.live.getLsbD l = true → v.q = false → (o l).flags &&& c.w.trapEnables = 0) →
      c.Gives (exec (.qblk v) s) v.y (fun w =>
        c.Keeps w [v.d.toNat, v.d.toNat + 1] [] ∧ c.FlagsAre w (fun l => if v.q then 0 else (o l).flags) ∧
        c.Writes w .reg v.d.toNat (fun l r => r = ((o l).val.setWidth 32).setWidth 64) ∧
        c.Writes w .reg (v.d.toNat + 1) (fun l r => r = (BitVec.ofNat 32 (scale l + 256 * nine l)).setWidth 64))) ∧
    (op = 0x57 →
      c.w.busy [(0, v.d.toNat, e), (1, v.a.toNat, 1)] [] = false →
      c.w.badReg [(0, v.d.toNat, e), (1, v.a.toNat, 1)] = none →
      let tag := c.ruleTag op v d
      (∀ j < e, c.fits (v.d.toNat + j) tag = true) →
      let o (l : Nat) : List Word × Flags × Nat :=
        let x := c.sources op v d l
        decodeLane (fun j r => Fmt.f32.round c.mode c.sat
          (blockValue fmt (x.b.toNat % 256) (if f.nine then x.b.toNat / 256 % 16 else 0)
            (x.a.toNat / 2 ^ (cw * j) % 2 ^ cw)) r) (List.range e) (c.genFor tag l)
      (∀ l < 32, c.live.getLsbD l = true → v.q = false → (o l).2.1 &&& c.w.trapEnables = 0) →
      c.Gives (exec (.dqblk v) s) v.y (fun w =>
        c.Keeps w ((List.range e).map (v.d.toNat + ·)) [] ∧ c.FlagsAre w (fun l => if v.q then 0 else (o l).2.1) ∧
        ∀ j < e, c.Writes w .reg (v.d.toNat + j) (fun l r => r = ((o l).1.getD j 0).setWidth 64)))

/-- The lanes of `live` in the bundle of lane `l`, ascending (R196). -/
def bundleOf (c : Cx) (l : Nat) : List Nat := (lanesOf c.live).filter (fun k => k / c.w.width = l / c.w.width)

/-- SHFL, RDFIRST, RDLANE and WRLANE complete: each live lane takes the source of the lane that R198 and R199 name; SHFL
says in a mask register whether that lane was live. -/
def LaneMoveResults : Prop :=
  ∀ (s : State) (c : Cx) (v : VFields) (op : Nat) (d : VDesc),
    cx s = some c → vDesc op v.ty.toNat v.sub.toNat = some d → c.admits op v d [] = true →
    let n := c.w.width
    let first (l : Nat) : Nat := l / n * n
    let a (l : Nat) : Dword := c.w.operand d.a v.a.toNat l
    let ends (i : Instr) (tag : Nat) (masks : List Nat) (f : Nat → Dword) (more : Warp → Prop) : Prop :=
      c.fitsDest d.d v.d.toNat (if c.masked then 2 else tag) = true →
      c.Gives (exec i s) v.y (fun w => c.Keeps w (destRegs d.d v.d.toNat) masks ∧ c.Calm w ∧
        c.Writes w d.d v.d.toNat (fun l r => r = f l) ∧ more w)
    (op = 0x80 →
      let b (l : Nat) : Nat := (c.srcB 0x80 v false l).toNat % 2 ^ 32
      let from' (l : Nat) : Nat := first l + (match v.sub.toNat % 4 with
        | 0 => b l
        | 1 => l - first l + b l
        | 2 => (n - 1 - (l - first l)) ^^^ b l
        | _ => (l - first l) ^^^ b l) % n
      ends (.shfl v) (if c.w.tagOperand d.a v.a.toNat = 0 then 0 else 2) [v.sub.toNat / 4]
        (fun l => a (if c.live.getLsbD (from' l) then from' l else l))
        (fun w => c.WritesMask w (v.sub.toNat / 4) (fun l => c.live.getLsbD (from' l)))) ∧
    (op = 0x81 → ends (.rdfirst v) 0 [] (fun _ => a (lowest c.live)) (fun _ => True)) ∧
    (op = 0x82 → c.tagB v false = 0 →
      ends (.rdlane v) (if n = 32 then 0 else 2) []
        (fun l => a (first l + (c.srcB 0x82 v false (lowest c.live)).toNat % 2 ^ 32 % n)) (fun _ => True)) ∧
    (op = 0x83 → c.tagB v false = 0 →
      ends (.wrlane v) 2 []
        (fun l => if l = first l + (c.srcB 0x83 v false (lowest c.live)).toNat % 2 ^ 32 % n
          then a ((bundleOf c l).headD l) else c.w.operand d.d v.d.toNat l) (fun _ => True))

/-- VOTE and MATCH complete: the predicate over the active lanes of each lane's bundle, as bit, mask, count or first lane
(R200), and the mask of the lanes with an equal key (R201). -/
def VoteMatchResults : Prop :=
  ∀ (s : State) (c : Cx) (v : VFields) (op : Nat) (d : VDesc),
    cx s = some c → vDesc op v.ty.toNat v.sub.toNat = some d → c.admits op v d [] = true →
    let n := c.w.width
    let key (l : Nat) : Word :=
      if 8 ≤ v.sub.toNat then (if (c.w.mask v.a.toNat).getLsbD l then 1 else 0) else c.w.rd v.a.toNat l
    let yes (l : Nat) : List Nat := (bundleOf c l).filter (fun k => key k ≠ 0)
    (op = 0x84 → v.sub.toNat % 8 < 4 →
      c.Gives (exec (.vote v) s) v.y (fun w => c.Keeps w [] [v.d.toNat] ∧ c.Calm w ∧
        c.WritesMask w v.d.toNat (fun l => match v.sub.toNat % 8 with
          | 0 => (bundleOf c l).any (fun k => key k ≠ 0)
          | 1 => (bundleOf c l).all (fun k => key k ≠ 0)
          | 2 => (bundleOf c l).all (fun k => key k = 0)
          | _ => (bundleOf c l).all (fun k => key k = key l)))) ∧
    (op = 0x84 → 4 ≤ v.sub.toNat % 8 → v.sub.toNat % 8 ≤ 6 →
      c.fits v.d.toNat (if c.masked ∨ n ≠ 32 then 2 else 0) = true →
      c.Gives (exec (.vote v) s) v.y (fun w => c.Keeps w [v.d.toNat] [] ∧ c.Calm w ∧
        c.Writes w .reg v.d.toNat (fun l r => match v.sub.toNat % 8 with
          | 4 => ∀ k < 64, r.getLsbD k = (yes l).contains k
          | 5 => r.toNat = (yes l).length
          | _ => r.toNat = ((yes l).map (fun k => k - l / n * n)).headD n))) ∧
    (op = 0x85 → c.fits v.d.toNat 2 = true →
      c.Gives (exec (.matchKey v) s) v.y (fun w => c.Keeps w [v.d.toNat] [] ∧ c.Calm w ∧
        c.Writes w .reg v.d.toNat (fun l r => ∀ k < 64, r.getLsbD k = ((bundleOf c l).contains k &&
          c.w.operand d.a v.a.toNat k = c.w.operand d.a v.a.toNat l))))

/-- COMPACT and EXPAND complete once every live thread of the warp stands at them: COMPACT packs the values of the active
lanes into the first lanes and writes their number, EXPAND gives the k-th active lane the value of lane k (R202).
Where it rests on the model's own choices, log entries 35, 95 name them. -/
def Obligations.CompactExpandResults : Prop :=
  ∀ (s : State) (c c' : Cx) (v : VFields) (op : Nat) (d : VDesc),
    cx s = some c → c.gather = .ok c' → vDesc op v.ty.toNat v.sub.toNat = some d →
    let act := lanesOf c'.live
    (op = 0x86 → c'.admits op v d [(3, v.c.toNat, 1)] = true →
      (∀ r ∈ destRegs d.d v.d.toNat, (c'.w.compact r || c'.uniform) = false) →
      (c'.masked = true → (c'.w.compact v.c.toNat || c'.uniform) = false) → v.c.toNat ∉ destRegs d.d v.d.toNat →
      c'.Gives (exec (.compact v) s) v.y (fun w =>
        c'.Keeps w (v.c.toNat :: destRegs d.d v.d.toNat) [] ∧ c'.Calm w ∧
        ∀ l < 32, w.rd v.c.toNat l = BitVec.ofNat 32 act.length ∧
          w.operand d.d v.d.toNat l =
            if l < act.length then c'.w.operand d.a v.a.toNat (act.getD l 0)
            else if (c'.pfx.map PFields.mz).getD false && c'.w.live.getLsbD l then 0
            else c'.w.operand d.d v.d.toNat l)) ∧
    (op = 0x87 → c'.admits op v d [] = true → c'.fitsDest d.d v.d.toNat 2 = true →
      c'.Gives (exec (.expand v) s) v.y (fun w =>
        c'.Keeps w (destRegs d.d v.d.toNat) [] ∧ c'.Calm w ∧
        c'.Writes w d.d v.d.toNat (fun l r => r = c'.w.operand d.a v.a.toNat (act.countP (· < l)))))

/-- REDUCE, SCAN and SORTK complete: the fold of R203 over the active lanes of each bundle, whole or up to the lane, and keys
with payloads in stable order over the active lanes (R204).
Where it rests on the model's own choices, log entry 37 names them. -/
def Obligations.FoldSortResults : Prop :=
  ∀ (s : State) (c : Cx) (v : VFields) (op : Nat) (d : VDesc),
    cx s = some c → vDesc op v.ty.toNat v.sub.toNat = some d → c.admits op v d [] = true →
    let width := if v.ty = 6 then 64 else 32
    let a (l : Nat) : Dword := c.w.operand d.a v.a.toNat l
    (op = 0x88 → c.fitsDest d.d v.d.toNat (if c.masked ∨ c.w.width ≠ 32 then 2 else 0) = true →
      c.Gives (exec (.reduce v) s) v.y (fun w => c.Keeps w (destRegs d.d v.d.toNat) [] ∧ c.Calm w ∧
        c.Writes w d.d v.d.toNat (fun l r =>
          r = ((foldAll v.sub.toNat width ((bundleOf c l).map a)).setWidth width).setWidth 64))) ∧
    (op = 0x89 → c.fitsDest d.d v.d.toNat 2 = true →
      c.Gives (exec (.scan v) s) v.y (fun w => c.Keeps w (destRegs d.d v.d.toNat) [] ∧ c.Calm w ∧
        c.Writes w d.d v.d.toNat (fun l r =>
          r = ((foldAll (v.sub.toNat % 16) width (((bundleOf c l).filter (fun k =>
            if 16 ≤ v.sub.toNat then k < l else k ≤ l)).map a)).setWidth width).setWidth 64))) ∧
    (op = 0x8A → c.fits v.d.toNat 2 = true → c.fits v.c.toNat 2 = true → v.c ≠ v.d →
      c.Gives (exec (.sortk v) s) v.y (fun w => c.Keeps w [v.d.toNat, v.c.toNat] [] ∧ c.Calm w ∧
        ∀ l < 32, c.live.getLsbD l = true →
          let before (x y : Word × Word) : Prop :=
            if v.sub.getLsbD 2 then sortRank (v.sub.toNat % 4) y.1 < sortRank (v.sub.toNat % 4) x.1
            else sortRank (v.sub.toNat % 4) x.1 < sortRank (v.sub.toNat % 4) y.1
          let old := (bundleOf c l).map (fun k => (c.w.rd v.a.toNat k, c.w.rd v.b.toNat k))
          let new := (bundleOf c l).map (fun k => (w.rd v.d.toNat k, w.rd v.c.toNat k))
          new.Perm old ∧ new.Pairwise (fun x y => ¬ before y x) ∧
            ∀ k : Nat, new.filter (fun x => sortRank (v.sub.toNat % 4) x.1 = k) =
              old.filter (fun x => sortRank (v.sub.toNat % 4) x.1 = k)))
/-! ### Control -/

/-- A control slot that nothing holds and whose registers are in the budget and, in a clause of class 6, not of tag G (R72, R80,
R98). -/
def controlReady (c : Cx) (k : KFields) (regs : List Nat) : Prop :=
  c.w.busy (regs.map (fun r => (1, r, 1))) (if k.m = 0 then [] else [k.m.toNat]) = false ∧
    c.w.badReg (regs.map (fun r => (1, r, 1))) = none ∧ c.badSource (regs.map (fun r => (1, r, 1))) = none

/-- A control slot ends its clause by its own effect: the warp becomes one that satisfies `P`, after which complete entries
of the mask stack pop and the current PC group follows R47. -/
def Moves (c : Cx) (o : Host.Outcome State Fault Refusal) (y : Bool) (P : Warp → Prop) : Prop :=
  ∃ w : Warp, o = .next ((c.yielding y).leave w) ∧ P w ∧
    { w with pcs := c.w.pcs, rsl := c.w.rsl, came := c.w.came, wait := c.w.wait, stack := c.w.stack, parked := c.w.parked,
             live := c.w.live, yields := c.w.yields } = c.w

/-- Where the threads of a warp stand: lane `l` at `pc l`, parked as `park l` says, for the lanes of the PC group; the others
as they stood. -/
def Stand (c : Cx) (w : Warp) (pc : Nat → Dword) (park : Nat → Bool) : Prop :=
  ∀ l < 32, if c.run.lanes.getLsbD l
    then w.pcOf l = pc l ∧ w.rslOf l = 0 ∧ w.waitOf l = .none ∧ w.parked.getLsbD l = (park l || c.w.parked.getLsbD l)
    else w.pcOf l = c.w.pcOf l ∧ w.rslOf l = c.w.rslOf l ∧ w.waitOf l = c.w.waitOf l ∧
      w.parked.getLsbD l = c.w.parked.getLsbD l

/-- The condition of a control instruction in a lane (R205). -/
def condHolds (c : Cx) (k : KFields) (l : Nat) : Bool :=
  k.m = 0 || ((c.w.mask k.m.toNat).getLsbD l != k.neg)

/-- IF, LOOP, ENDLOOP, ELSE and ENDIF complete: IF and LOOP push an entry below depth 32 and send the lanes on, ELSE and
ENDIF fix or check the join PC and park there, ENDLOOP repeats the body or parks at the loop's exit (R207-R209).
Where it rests on the model's own choices, log entry 87 names them. -/
def Obligations.StructuredControl : Prop :=
  ∀ (s : State) (c : Cx) (k : KFields), cx s = some c → controlReady c k [] →
    let target := codeAddr (c.run.pc + 8#64 * k.tgt.signExtend 64)
    let after := codeAddr (c.run.pc + BitVec.ofNat 64 (8 * (c.run.words.length + 1)))
    (c.w.stack.length < 32 → Moves c (exec (.ifCond k) s) k.y (fun w =>
      w.stack = { kind := 1, rpc := none, members := c.run.lanes } :: c.w.stack ∧ w.live = c.w.live ∧
      Stand c w (fun l => if condHolds c k l then after else target) (fun _ => false))) ∧
    (c.w.stack.length < 32 → Moves c (exec (.loop k) s) k.y (fun w =>
      w.stack = { kind := 2, rpc := some target, members := c.run.lanes } :: c.w.stack ∧ w.live = c.w.live ∧
      Stand c w (fun _ => after) (fun _ => false))) ∧
    (∀ (i : Nat) (e : StackEntry), common c.run.lanes c.w.innermost = some i → c.w.stack[i]? = some e → e.kind = 1 →
      ((e.rpc = none ∨ e.rpc = some target) → Moves c (exec (.elseJoin k) s) k.y (fun w =>
        w.stack = c.w.stack.set i { e with rpc := some target } ∧ w.live = c.w.live ∧
        Stand c w (fun _ => target) (fun _ => true))) ∧
      ((e.rpc = none ∨ e.rpc = some after) → Moves c (exec (.endif k) s) k.y (fun w =>
        w.stack = c.w.stack.set i { e with rpc := some after } ∧ w.live = c.w.live ∧
        Stand c w (fun _ => after) (fun _ => true)))) ∧
    (∀ (i : Nat) (e : StackEntry), common c.run.lanes c.w.innermost = some i → c.w.stack[i]? = some e → e.kind = 2 →
      Moves c (exec (.endloop k) s) k.y (fun w => w.stack = c.w.stack ∧ w.live = c.w.live ∧
        Stand c w (fun l => if condHolds c k l then target else e.rpc.getD 0) (fun l => !condHolds c k l)))

/-- BRK, CONT, JMP, JMPU, CALL, RET and EXIT complete: BRK and RET withdraw their lanes from the entries above and park them
at the loop's exit or the return PC, CONT and the jumps send the lanes, CALL pushes an entry and enters a checked entry
clause, and EXIT, or RET outside every call, ends the threads, in the trap handler every thread of the warp (R209-R214,
R404). -/
def TransfersOfControl : Prop :=
  ∀ (s : State) (c : Cx) (k : KFields), cx s = some c →
    let target := codeAddr (c.run.pc + 8#64 * k.tgt.signExtend 64)
    let after := codeAddr (c.run.pc + BitVec.ofNat 64 (8 * (c.run.words.length + 1)))
    let without (lanes : Word) (i : Nat) : List StackEntry :=
      ((c.w.stack.take i).map (fun e => { e with members := e.members &&& ~~~lanes })).filter (fun e => e.members ≠ 0) ++
        c.w.stack.drop i
    let ended (w : Warp) : Prop := w.stack = c.w.stack ∧
      w.live = (if c.w.mode = .handler then 0 else c.w.live &&& ~~~c.run.lanes) ∧ w.pcs = c.w.pcs ∧
      w.parked = c.w.parked
    (controlReady c k [] → ∀ (i : Nat) (e : StackEntry), common c.run.lanes c.w.loopEntry = some i →
      c.w.stack[i]? = some e → Moves c (exec (.brk k) s) k.y (fun w =>
        w.stack = without (maskOf (fun l => c.run.lanes.getLsbD l && condHolds c k l)) i ∧ w.live = c.w.live ∧
        Stand c w (fun l => if condHolds c k l then e.rpc.getD 0 else after) (condHolds c k))) ∧
    (controlReady c k [] → Moves c (exec (.cont k) s) k.y (fun w => w.stack = c.w.stack ∧ w.live = c.w.live ∧
      Stand c w (fun l => if condHolds c k l then target else after) (fun _ => false))) ∧
    (controlReady c k [] → Moves c (exec (.jmp k) s) k.y (fun w => w.stack = c.w.stack ∧ w.live = c.w.live ∧
      Stand c w (fun _ => target) (fun _ => false))) ∧
    (controlReady c k [k.a.toNat] → ∀ x, c.w.reg k.a.toNat = .u x → Moves c (exec (.jmpu k) s) k.y (fun w =>
      w.stack = c.w.stack ∧ w.live = c.w.live ∧
      Stand c w (fun _ => if decide (x ≠ 0) = k.neg then after else target) (fun _ => false))) ∧
    (controlReady c k [] → c.w.stack.length < 32 → ∀ b, c.callTarget target = .entry b → b ≤ c.w.ng →
      Moves c (exec (.call k) s) k.y (fun w =>
        w.stack = { kind := 3, rpc := some after, members := c.run.lanes } :: c.w.stack ∧ w.live = c.w.live ∧
        Stand c w (fun _ => target) (fun _ => false))) ∧
    (controlReady c k [] → (∀ l < 32, c.run.lanes.getLsbD l = true → c.w.innermostOf 3 l = none) →
      Moves c (exec (.ret k) s) k.y ended) ∧
    (controlReady c k [] → ∀ (i : Nat) (e : StackEntry), common c.run.lanes (c.w.innermostOf 3) = some i →
      c.w.stack[i]? = some e → Moves c (exec (.ret k) s) k.y (fun w =>
        w.stack = without c.run.lanes i ∧ w.live = c.w.live ∧
        Stand c w (fun _ => e.rpc.getD 0) (fun _ => true))) ∧
    (controlReady c k [] → Moves c (exec (.exit k) s) k.y ended)

/-- CALLI completes when every lane's target is an aligned address of an entry clause within the warp's budget: one entry is
pushed, each lane stands at its own target, and the PC group at the lowest target is current (R212). -/
def IndirectCall : Prop :=
  ∀ (s : State) (c : Cx) (k : KFields), cx s = some c → controlReady c k [k.a.toNat, k.a.toNat + 1] →
    let target (l : Nat) : Dword := c.w.rd (k.a.toNat + 1) l ++ c.w.rd k.a.toNat l
    c.w.stack.length < 32 →
    (∀ l < 32, c.run.lanes.getLsbD l = true →
      (target l).toNat % 8 = 0 ∧ (target l).toNat < 2 ^ 57 ∧ ∃ b, c.callTarget (target l) = .entry b ∧ b ≤ c.w.ng) →
    ∃ w : Warp, exec (.calli k) s = .next (({ (c.yielding k.y) with w := w } : Cx).commit none) ∧
      w.stack = { kind := 3, rpc := some (codeAddr (c.run.pc + BitVec.ofNat 64 (8 * (c.run.words.length + 1)))),
                  members := c.run.lanes } :: c.w.stack ∧
      Stand c w target (fun _ => false) ∧ w.fair = 0 ∧
      (c.run.lanes ≠ 0 → ∃ l < 32, c.run.lanes.getLsbD l = true ∧ w.cur = some (lowest (w.groupOf l)) ∧
        ∀ k' < 32, c.run.lanes.getLsbD k' = true → (target l).toNat ≤ (target k').toNat) ∧
      { w with pcs := c.w.pcs, rsl := c.w.rsl, came := c.w.came, wait := c.w.wait, stack := c.w.stack, cur := c.w.cur,
               fair := c.w.fair, yields := c.w.yields } = c.w

/-- NOP completes with no effect beyond its yield, and a clause that ends in NOP and is accepted has `BRC` 1 (R216); and SETBND with a new bundle width, from its target or from a
register of tag U (R215). -/
def Obligations.NopAndSetbnd : Prop :=
  ∀ (s : State) (c : Cx) (k : KFields), cx s = some c →
    (controlReady c k [] → exec (.nop k) s = .next (c.finish k.y)) ∧
    (controlReady c k [] → k.tgt ≠ 0 → ∃ w : Warp, exec (.setbnd k) s = .next (({ c with w := w } : Cx).finish k.y) ∧
      w = { c.w with bundle := BitVec.ofNat 32 k.tgt.toNat }) ∧
    (controlReady c k [k.a.toNat] → k.tgt = 0 → ∀ n : Nat, 1 ≤ n → n ≤ 5 →
      c.w.reg k.a.toNat = .u (BitVec.ofNat 32 (2 ^ n)) →
      exec (.setbnd k) s = .next (({ c with w := { c.w with bundle := BitVec.ofNat 32 n } } : Cx).finish k.y)) ∧
    (∀ (priv : Nat) (h w : Dword) (ws : List Dword), decodeSlot w = .ok (.nop k) → decodeClause priv h (ws ++ [w]) = none →
      h.getLsbD 35 = true)

/-- IF, LOOP, CALL and CALLI at depth 32 raise mask-stack (0x06) with reason 1 before any effect: the trap is delivered to the
warp at the slot, where it would issue again (R46, R207, R212, R397). -/
def Obligations.MaskStackOverflowTraps : Prop :=
  ∀ (s : State) (c : Cx) (k : KFields) (i : Instr), cx s = some c → 32 ≤ c.w.stack.length →
    (((i = .ifCond k ∨ i = .loop k ∨ i = .call k) ∧ controlReady c k []) ∨
      (i = .calli k ∧ controlReady c k [k.a.toNat, k.a.toNat + 1])) →
    exec i s = .next ((s.updWarp c.g.uid c.w.wid (fun w => w.stopAt c.run.lanes c.slot .none)).deliver c.g.uid c.w.wid
      { code := 6, reason := 1, prec := true, src := 0, pc := c.run.pc, slot := c.slot, sv := true, hdr := false
        op := opOf (c.run.words.getD c.slot 0), rslot := c.slot, rnext := false, lanes := c.run.lanes, grp := c.run.lanes
        addr := 0, det := [BitVec.ofNat 32 c.w.stack.length], issued := s.clock.toNat } [])
/-! ### Memory -/

/-- The words that a load of lane `j` brings: the bytes at its site, little-endian, extended as R249 says; none where the
site is poisoned (R228). -/
def seen (c : Cx) (o : MOp) (j : Job) : Option (List Word) :=
  match c.siteOf o j with
  | some x =>
    if c.s.sitePoison c.g x o.bytes then none
    else
      let bs := c.s.siteRead c.g x o.bytes
      let n := leNat bs
      some (if o.bytes < 4 then
          [if o.sx then BitVec.ofInt 32 (intOf true (8 * o.bytes) n) else BitVec.ofNat 32 n]
        else (List.range (o.bytes / 4)).map (fun i => BitVec.ofNat 32 (n / 2 ^ (32 * i))))
  | none => none

/-- LD, LDU and LDQ complete when every lane's access is in order: the destination registers take the bytes at the lane's
address (LDU, and a load whose sources count as U, at one address for all lanes), and memory, registers, flags and masks are
otherwise unchanged (R218, R249-R251).
Where it rests on the model's own choices, log entries 8, 31, 90 name them. -/
def Obligations.LoadResults : Prop :=
  ∀ (s : State) (c : Cx) (m : MFields) (op : Nat) (i : Instr),
    cx s = some c → s.stop = none → (op, i) ∈ [(0xA0, .ld m), (0xA2, .ldu m), (0xA3, .ldq m)] →
    let o := mopOf op m
    c.accessReady o = true → (∀ j ∈ c.jobs o (c.once o), (seen c o j).isSome = true) →
    c.GivesIn (exec i s) m.y (fun s' g' w =>
      s.KeepsBut s' ∧ s'.mem = s.mem ∧ g' = c.g ∧ c.KeepsOf w ((List.range o.regs).map (m.d.toNat + ·)) ∧
      ∀ k < o.regs, c.Writes w .reg (m.d.toNat + k) (fun l r =>
        ∃ j ∈ c.jobs o (c.once o), (c.once o = true ∨ j.lane = l) ∧
          ∃ ws, seen c o j = some ws ∧ r = (ws.getD k 0).setWidth 64))

/-- The stores of a slot in lane order, at keys of memory or in the scratchpad. -/
def storesOf (c : Cx) (o : MOp) (scratch : Bool) : List (Nat × Bytes) :=
  (c.jobs o (c.once o)).filterMap (fun j => match c.siteOf o j, scratch with
    | some (.key k), false => some (k, bytesOf j.data o.bytes)
    | some (.scr k), true => some (k, bytesOf j.data o.bytes)
    | _, _ => none)

/-- ST and STQ complete when every lane's access is in order: in lane order each lane's bytes stand at the address to which
its access translates, every other byte of memory and scratchpad reads as before, and no register changes (R218, R250).
Where it rests on the model's own choices, log entries 8, 31, 90 name them. -/
def Obligations.StoreResults : Prop :=
  ∀ (s : State) (c : Cx) (m : MFields) (op : Nat) (i : Instr),
    cx s = some c → s.stop = none → s.memWf = true → (op, i) ∈ [(0xA1, .st m), (0xA4, .stq m)] →
    let o := mopOf op m
    c.accessReady o = true → (∀ j ∈ c.jobs o (c.once o), (c.siteOf o j).isSome = true) →
    c.GivesIn (exec i s) m.y (fun s' g' w =>
      s.KeepsBut s' ∧ { g' with scr := c.g.scr } = c.g ∧ c.KeepsOf w [] ∧
      (∀ a, s'.mem.get a = lastByte (storesOf c o false) a (s.mem.get a)) ∧
      (∀ a, g'.scr.get a = lastByte (storesOf c o true) a (c.g.scr.get a)))

/-- The atomics of some lanes one after the other (R255): memory and scratchpad after them, and each lane's old words. -/
def atomics (o : MOp) : List (Site × Job) → Mem × Mem → List (Nat × List Word) → (Mem × Mem) × List (Nat × List Word)
  | [], ms, out => (ms, out)
  | (x, j) :: t, (mem, scr), out =>
    let old := match x with
      | .key k => mem.read k o.bytes
      | .scr k => scr.read k o.bytes
      | _ => []
    let new := (atomStep o old j.data).getD old
    atomics o t (match x with
      | .key k => (mem.write k new, scr)
      | .scr k => (mem, scr.write k new)
      | _ => (mem, scr)) (out ++ [(j.lane, (List.range o.regs).map (fun i => fieldW old (4 * i)))])

/-- ATOM, CAS and ATOMU complete when every lane's access is in order and unpoisoned: the lanes' operations apply one after
the other in lane order, every byte of memory is as they leave it, and with `RET` each lane takes the old value (R253-R255),
helper lanes 0 (R247). -/
def AtomicResults : Prop :=
  ∀ (s : State) (c : Cx) (m : MFields) (op : Nat) (i : Instr),
    cx s = some c → s.stop = none → s.memWf = true → (op, i) ∈ [(0xA5, .atom m), (0xA6, .cas m), (0xA7, .atomu m)] →
    let o := mopOf op m
    let js := c.jobs o (c.once o)
    c.accessReady o = true →
    (∀ j ∈ js, ∃ x, c.siteOf o j = some x ∧ c.s.sitePoison c.g x o.bytes = false ∧
      ((∃ k, x = .key k) ∨ (∃ k, x = .scr k))) →
    let r := atomics o (js.filterMap (fun j => (c.siteOf o j).map (fun x => (x, j)))) (s.mem, c.g.scr) []
    c.GivesIn (exec i s) m.y (fun s' g' w =>
      s.KeepsBut s' ∧ { g' with scr := c.g.scr } = c.g ∧
      (∀ a, s'.mem.get a = r.1.1.get a) ∧ (∀ a, g'.scr.get a = r.1.2.get a) ∧
      (o.m.ret = false → c.KeepsOf w []) ∧
      (o.m.ret = true → c.KeepsOf w ((List.range o.regs).map (m.d.toNat + ·)) ∧
        ∀ k < o.regs, c.Writes w .reg (m.d.toNat + k) (fun l x =>
          if c.w.help.getLsbD l then x = 0
          else ∃ ws, (l, ws) ∈ r.2 ∧ x = (ws.getD k 0).setWidth 64)))

/-- FENCE completes as soon as the condition of its ordering holds and the operand log has room, with no other effect (R256,
R270): all earlier accesses performed, with every write acknowledged, or the loads alone for an acquire that orders no group
register (R244).  WAITV passes when the word at its address meets its
condition, and parks the PC group at its slot while it does not (R257, R258). -/
def FenceAndWaitv : Prop :=
  ∀ (s : State) (c : Cx) (m : MFields), cx s = some c → s.stop = none →
    (c.w.logFull = false → (∀ f ∈ c.w.flights, f.isAccess = true → m.ord = 1 ∧ m.sco.toNat < 2 ∧ f.isRead = false) →
      (m.ord ≠ 1 ∨ 2 ≤ m.sco.toNat → c.w.unack = []) → exec (.fence m) s = .next (c.finish m.y)) ∧
    (let us : List RegUse := [(1, m.a.toNat, if m.sp = 0 then 2 else 1), (0, m.d.toNat, 1)]
      let q := c.waitOp m
      let j := q.job
      let o := { mopOf 0xA0 m with op := 0xA9 }
      q.fields = m → c.w.busy us c.maskUse = false → c.w.logFull = false → c.w.badReg us = none → c.live ≠ 0 →
      c.issueFault m.sp.toNat 4 false [j] = none → (m.sp = 1 → c.g.missing j.addr.toNat 4 = false) →
      c.parked m.sp.toNat false [j] = false → c.w.owesAcquire c.live = false →
      c.w.meets (mopOf 0xA0 m) (laneBit j.lane) j.addr = false →
      ∀ x, c.siteOf o j = some x → c.s.sitePoison c.g x 4 = false →
        let word := fieldW (c.s.siteRead c.g x 4) 0
        let met := waitHolds m.b.toNat word (c.w.rd m.d.toNat (lowest c.live))
        q.lane = lowest c.live ∧ q.cmp = c.w.rd m.d.toNat (lowest c.live) ∧ q.word = c.run.words.getD c.slot 0 ∧
        (met = true → c.GivesIn (exec (.waitv m) s) m.y (fun s' g' w =>
          s.KeepsBut s' ∧ s'.mem = s.mem ∧ g' = c.g ∧ w = c.w)) ∧
        (met = false → ∃ s' : State, s.KeepsBut s' ∧ s'.mem = s.mem ∧
          exec (.waitv m) s = .next (({ (c.yielding m.y) with s := s' } : Cx).park c.slot (.waitv q))))

/-- WAITV_WAKE reads again (R257, R258), at the address and with the comparand that the WAITV took when it issued (R97): where
the condition holds the PC group goes on behind its slot, and otherwise it stays parked; WAITV writes no register. -/
def WaitvReadsAgain : Prop :=
  ∀ (s : State) (g : Group) (w : Warp) (lane : Nat) (c : Cx) (q : WaitOp),
    s.stop = none → s.group g.uid = some g → g.warp w.wid = some w → w.waitOf lane = .waitv q → w.live.getLsbD lane = true →
    w.parked.getLsbD lane = false → lane < 32 → s.cxAt g w lane = some (c, q) →
    (∀ f ∈ w.flights, f.op = 0xA9 → f.remote ≠ [] → f.pc ≠ w.pcOf lane ∨ f.slot ≠ w.rslOf lane) → c.live ≠ 0 →
    let m := q.fields
    let j := q.job
    (m.sp = 1 → g.missing j.addr.toNat 4 = false) → c.parked m.sp.toNat false [j] = false →
    ∀ x, c.siteOf { mopOf 0xA0 m with op := 0xA9 } j = some x → s.sitePoison g x 4 = false →
      let met := waitHolds m.b.toNat (fieldW (s.siteRead g x 4) 0) q.cmp
      ∃ (t : State) (g' : Group) (v : Warp), exec (.waitvWake g.uid w.wid lane) s = .next t ∧ t.mem = s.mem ∧
        t.group g.uid = some g' ∧ g'.warp w.wid = some v ∧
        { v with pcs := w.pcs, rsl := w.rsl, came := w.came, wait := w.wait } = w ∧
        (met = false → v = w) ∧
        (met = true → v.waitOf lane = .none ∧
          (if w.rslOf lane + 1 < q.len then v.rslOf lane = w.rslOf lane + 1 ∧ v.pcOf lane = w.pcOf lane
           else v.rslOf lane = 0 ∧ v.pcOf lane = codeAddr (w.pcOf lane + BitVec.ofNat 64 (8 * (q.len + 1)))))

/-- The block-store instructions: fields, wait counter, whether they give a result, and what they do in a lane. -/
def blockOp : Instr → Option (MFields × Nat × Bool × (Cx → BsStep → Nat → BsStep))
  | .bsalloc m => some (m, 0, true, fun c b l => bsAlloc b l (c.w.rd m.a.toNat l))
  | .bsfree m => some (m, 1, false, fun c b l => bsFree b l (c.w.rd m.a.toNat l))
  | .bsshare m => some (m, 1, false, fun c b l => bsShare b l (c.w.rd m.a.toNat l) (c.w.rd m.d.toNat l))
  | .bslook m => some (m, 0, true, fun c b l => bsLook b l (c.w.rd m.a.toNat l))
  | _ => none

/-- BSALLOC, BSFREE, BSSHARE and BSLOOK complete when no lane meets a cause: the lanes take their steps on the context's
block table in ascending order, helper lanes without effect, and the results reach D, helper lanes reading 0 (R247, R248,
R259, R260); registers are otherwise unchanged. -/
def BlockStoreCompletes : Prop :=
  ∀ (s : State) (c : Cx) (x : Ctx) (i : Instr) (m : MFields) (counter : Nat) (result : Bool)
    (lane : Cx → BsStep → Nat → BsStep),
    cx s = some c → s.ctx c.g.ctx = some x → blockOp i = some (m, counter, result, lane) →
    let us : List RegUse := [(1, m.a.toNat, 1)] ++ (if i = .bsfree m then [] else [(0, m.d.toNat, 1)])
    let once : Bool := i = .bslook m && (c.w.reg m.a.toNat).tag = 0 && (c.live &&& c.w.help) = 0
    let all := (lanesOf c.live).filter (fun l => !c.w.help.getLsbD l)
    let b := (if once then all.take 1 else all).foldl (lane c) { s, ctx := x, out := [], bad := [] }
    c.held us [] (some counter) = false → c.w.logFull = false → c.w.releaseHeld c.live = false → c.w.badReg us = none →
    (result = true → c.fits m.d.toNat (if once then 0 else 2) = true) → b.bad = [] →
    c.GivesIn (exec i s) m.y (fun s' g' w =>
      s' = b.s.setCtx b.ctx ∧ g' = c.g ∧ c.KeepsOf w (if result then [m.d.toNat] else []) ∧
      (result = true → c.Writes w .reg m.d.toNat (fun l r =>
        if c.w.help.getLsbD l then r = 0
        else ∃ q ∈ b.out, (once = true ∨ q.1 = l) ∧ r = (q.2.getD 0 0).setWidth 64)))

/-- What a lane's step does to the block table: BSALLOC binds a free name to a place of its own and reports 0, or reports 1
for a name in use and 2 without a free place; BSFREE unbinds a name and keeps a storage that other names refer to; BSSHARE
binds a new name to the storage of another; BSLOOK reports place and reference count (R259, R260). -/
def BlockStoreSteps : Prop :=
  ∀ (b : BsStep) (l : Nat) (name new : Word),
    (b.ctx.block? name = none → b.ctx.freePlaces ≠ [] → b.s.mem.wf = true → ∃ p ∈ b.ctx.freePlaces,
      (bsAlloc b l name).ctx = { b.ctx with nextStorage := b.ctx.nextStorage + 1
                                            names := b.ctx.names ++ [(name.toNat, b.ctx.nextStorage)]
                                            storages := b.ctx.storages ++ [{ id := b.ctx.nextStorage, place := p, refs := 1 }] } ∧
      (bsAlloc b l name).out = b.out ++ [(l, [0])] ∧
      (∀ a, a < placeKey p ∨ placeKey p + 16384 ≤ a → (bsAlloc b l name).s.mem.get a = b.s.mem.get a)) ∧
    ((b.ctx.block? name).isSome = true → (bsAlloc b l name).ctx = b.ctx ∧ (bsAlloc b l name).out = b.out ++ [(l, [1])]) ∧
    (b.ctx.block? name = none → b.ctx.freePlaces = [] →
      (bsAlloc b l name).ctx = b.ctx ∧ (bsAlloc b l name).out = b.out ++ [(l, [2])]) ∧
    (∀ k, b.ctx.block? name = some k →
      (bsFree b l name).ctx.block? name = none ∧ (bsFree b l name).bad = b.bad ∧ (bsFree b l name).s = b.s ∧
      (∀ y ∈ b.ctx.storages, y.id ≠ k.id → y ∈ (bsFree b l name).ctx.storages) ∧
      (2 ≤ k.refs → ∀ y ∈ b.ctx.storages, y.id = k.id → { y with refs := y.refs - 1 } ∈ (bsFree b l name).ctx.storages)) ∧
    (∀ k, b.ctx.block? name = some k → b.ctx.block? new = none → k.refs < 65535 →
      (bsShare b l name new).ctx.names = b.ctx.names ++ [(new.toNat, k.id)] ∧
      { k with refs := k.refs + 1 } ∈ (bsShare b l name new).ctx.storages ∧
      (bsShare b l name new).bad = b.bad ∧ (bsShare b l name new).s = b.s) ∧
    (bsLook b l name).ctx = b.ctx ∧
    (bsLook b l name).out = b.out ++ [(l, [match b.ctx.block? name with
      | none => 0
      | some k => (match k.place with
        | .vault col _ => BitVec.ofNat 32 (2 ^ 30 + col * 65536 + k.refs)
        | .gddr lan _ => BitVec.ofNat 32 (2 ^ 31 + lan * 65536 + k.refs))])]

/-- The jobs and results of a fetch slot: each lane's registers take the words of its own lane, and `after` acts on the
machine at the end; reads of another module go out as requests (R454). -/
def FetchGives (s : State) (c : Cx) (i : Instr) (y : Bool) (d : Nat) (js : List Job) (f : Job → LaneOut) (n : Nat)
    (after : State → State) : Prop :=
  (∀ j ∈ js, ∃ ws ps, f j = .ok (ws, ps) ∧ ws.length ≤ n) →
  (s.gatherAll c.g (js.map (fun j => match f j with | .ok (_, ps) => ps | .error _ => [])).flatten).stop = none →
  c.GivesIn (exec i s) y (fun s' g' w =>
    (∃ t : State, s.KeepsBut { t with ports := s.ports } ∧ t.mem = s.mem ∧ s' = after t) ∧ g' = c.g ∧
    c.KeepsOf w ((List.range n).map (d + ·)) ∧
    ∀ j ∈ js, ∀ ws ps, f j = .ok (ws, ps) → ∀ k < ws.length, w.rd (d + k) j.lane = ws.getD k 0)

/-- TEX, TEXG, RAYQ, RAYB and ATTR complete when no lane meets a cause or a missing translation: each live lane's registers
take the words that its own sample, ray or record gives (R262-R266, R386, R388); memory and the other registers are as they
were, and RAYB sends a record to its bin for every hit.
Where it rests on the model's own choices, log entries 49, 50 name them. -/
def Obligations.FetchResults : Prop :=
  ∀ (s : State) (c : Cx) (m : MFields), cx s = some c → s.stop = none →
    let disp := c.displacement m
    (∀ grad : Bool,
      let n := if grad then 8 else if m.b = 1 || m.b = 2 then 5 else 4
      let js := (lanesOf c.live).map (fun l =>
        let ea : Dword := (c.w.rd m.a.toNat l + BitVec.ofInt 32 disp).setWidth 64
        let lam := match (readTex c.s c.g m.sp.toNat ea : Rd Tex) [] with
          | .ok (t, _) => c.texLod m grad t l
          | .error _ => 0
        ({ lane := l, addr := ea, name := 0,
           data := [c.w.rd (m.a.toNat + 1) l, c.w.rd (m.a.toNat + 2) l, c.w.rd (m.a.toNat + 3) l, lam] } : Job))
      c.fetchChecks [(1, m.a.toNat, n), (0, m.d.toNat, 4)] m.d.toNat 4 = none →
      c.issueFault m.sp.toNat 32 false js = none → (m.sp = 1 → js.all (fun j => !c.g.missing j.addr.toNat 32) = true) →
      FetchGives s c (if grad then .texg m else .tex m) m.y m.d.toNat js (texLane c.s c.g c.guarded m.sp.toNat) 4 id) ∧
    (c.fetchChecks [(1, m.a.toNat, 2), (2, m.b.toNat, 8), (0, m.d.toNat, 5)] m.d.toNat 5 = none →
      c.issueFault 0 1 false (c.rayJobs m 8) = none →
      FetchGives s c (.rayq m) m.y m.d.toNat (c.rayJobs m 8) (rayqLane c.guarded) 5 id) ∧
    (c.w.releaseHeld c.live = false →
      c.fetchChecks [(1, m.a.toNat, 2), (2, m.b.toNat, 12), (0, m.d.toNat, 1)] m.d.toNat 1 = none →
      c.issueFault 0 1 false (c.rayJobs m 12) = none →
      let send (t : State) : State := if c.live = 0 then t else t.sendUnits c.g.ctx ((c.rayJobs m 12).filterMap (fun j =>
        match raybLane s c.g.ctx c.guarded j with
        | .ok ((_, some r), _) => some (hitUnit c.g c.w c.w.nextFlight j.lane r)
        | _ => none))
      (∀ t : State, s.KeepsBut { t with ports := s.ports } → t.mem = s.mem → t.stop = none → (send t).stop = none) →
      FetchGives s c (.rayb m) m.y m.d.toNat (c.rayJobs m 12) (fun j => match raybLane s c.g.ctx c.guarded j with
        | .ok ((x, _), ps) => .ok ([x], ps)
        | .error e => .error e) 1 send) ∧
    (let js := (lanesOf c.live).map (fun l => ({ lane := l, name := 0, data := [], addr := (c.w.rd m.a.toNat l + BitVec.ofInt 32 disp).setWidth 64 } : Job))
      let size := layoutBytes s c.g m.sp.toNat
      let n := (js.filterMap (fun j => (jobLayout s c.g m.sp.toNat j).map Layout.count)).foldl max 0
      c.fetchChecks [(1, m.a.toNat, 1), (0, m.d.toNat, 1)] m.d.toNat 1 = none →
      c.fetchChecks [(0, m.d.toNat, n)] m.d.toNat n = none →
      c.issueFault m.sp.toNat 1 false js = none →
      (∀ j ∈ js, c.s.outside c.g m.sp.toNat j.addr (size j) false = none ∧
        (m.sp = 1 → c.g.missing j.addr.toNat 4 = false ∧ c.g.missing j.addr.toNat (size j) = false)) →
      FetchGives s c (.attr m) m.y m.d.toNat js (attrLane s c.g c.w c.guarded m.sp.toNat) n id)
/-! ### The matrix unit -/

/-- An MMA or MMAS slot that nothing holds and whose checks at issue all pass (R72, R98, R99, R105, R124, R274, R275, R282). -/
def mmaReady (c : Cx) (x : XFields) (sparse : Bool) : Bool :=
  let f := FSlot.ofWord (c.slotWord x.fa)
  let g := FSlot.ofWord (c.slotWord x.fb)
  let w := shapeW x.shape.toNat
  let k := shapeK x.shape.toNat sparse
  let z : FragShape := { w, k, sparse }
  let us : List RegUse := [(1, x.a.toNat, regsA z f), (2, x.b.toNat, regsB z g), (3, x.c.toNat, 8)]
  let input (f : FSlot) : Bool := typeFits w f.etype && !f.vq && (f.blk = 0 || f.blockSize ≤ k)
  !c.w.busy us [x.sub.toNat % 8] && c.w.counter 3 < 63 &&
    [x.fa, x.fb, x.fc].all (fun n => (slotFormatReason (c.slotWord n)).isNone) && input f && input g &&
    (intType f.etype == intType g.etype) && accFits (FSlot.ofWord (c.slotWord x.fc)) (intType f.etype) &&
    (c.w.badReg us).isNone && (List.range 8).all (fun i => !c.w.compact (x.c.toNat + i)) &&
    (!sparse || c.w.badBlocks z (x.a.toNat + 4) (c.w.live &&& c.w.mask (x.sub.toNat % 8)) = 0)

/-- MMA and MMAS complete once every live thread of the warp stands at them: element (m, n) of D is C, or 0 with `ZC`, plus
the product of row m of A with column n of B in the order of R138; an infinite or NaN element of a row or column makes its
elements 0x7FC0_0000 (R140); inactive lanes supply +0 and keep their destination (R280, R281).  No other register
changes.
Where it rests on the model's own choices, log entries 35, 53, 99 name them. -/
def Obligations.MatrixProductResults : Prop :=
  ∀ (s : State) (c c' : Cx) (x : XFields) (sparse : Bool), cx s = some c → c.gather = .ok c' →
    mmaReady c' x sparse = true →
    let f := FSlot.ofWord (c'.slotWord x.fa)
    let g := FSlot.ofWord (c'.slotWord x.fb)
    let z : FragShape := { w := shapeW x.shape.toNat, k := shapeK x.shape.toNat sparse, sparse }
    let act := c'.w.live &&& c'.w.mask (x.sub.toNat % 8)
    c'.Gives (exec (if sparse then .mmas x else .mma x) s) x.y (fun w =>
      c'.Keeps w ((List.range 8).map (x.c.toNat + ·)) [] ∧ c'.Calm w ∧
      ∀ j < 8, ∀ l < 32,
        let m := l % 16
        let n := 8 * (l / 16) + j
        let row := c'.w.fragRow z f true x.a.toNat act m
        let col := c'.w.fragRow z g false x.b.toNat act n
        w.rd (x.c.toNat + j) l =
          if act.getLsbD l = false then c'.w.rd (x.c.toNat + j) l
          else if intType f.etype = false ∧ (∃ e ∈ row ++ col, e.finite = false) then 0x7FC00000#32
          else stepAdd (intType f.etype) (if x.zc then 0 else c'.w.rd (x.c.toNat + j) l) row col)

/-- The sum of a K step: with integer inputs products and sums are exact and the accumulation wraps modulo 2^32, without
saturation, and MMA and MMAS on them set no flag (R139); with floating inputs the depths are taken in groups of 32, each
group's exact sum rounded once to FP32, nearest even, a zero sum being +0, and added in FP32 (R138). -/
def Obligations.MatrixStepSums : Prop :=
  (∀ (acc : Word) (as bs : List FVal), as.length = bs.length →
    (stepAdd true acc as bs = acc + BitVec.ofInt 32 ((as.zip bs).map (fun p => p.1.units 0 * p.2.units 0)).sum) ∧
    (∀ (a b : List FVal), a.length = b.length → a.length ≤ 32 → a ≠ [] →
      stepAdd false acc a b = groupAdd acc (a.zip b)) ∧
    (∀ (a b : List FVal), a.length = 32 → b.length = 32 →
      stepAdd false acc (a ++ as) (b ++ bs) = stepAdd false (groupAdd acc (a.zip b)) as bs)) ∧
  (∀ (s : State) (c c' : Cx) (x : XFields) (sparse : Bool), cx s = some c → c.gather = .ok c' →
    mmaReady c' x sparse = true →
    let f := FSlot.ofWord (c'.slotWord x.fa)
    let g := FSlot.ofWord (c'.slotWord x.fb)
    let z : FragShape := { w := shapeW x.shape.toNat, k := shapeK x.shape.toNat sparse, sparse }
    let act := c'.w.live &&& c'.w.mask (x.sub.toNat % 8)
    intType f.etype = true →
    c'.Gives (exec (if sparse then .mmas x else .mma x) s) x.y (fun w => c'.Calm w ∧
      ∀ j < 8, ∀ l < 32, act.getLsbD l = true →
        let row := c'.w.fragRow z f true x.a.toNat act (l % 16)
        let col := c'.w.fragRow z g false x.b.toNat act (8 * (l / 16) + j)
        w.rd (x.c.toNat + j) l = (if x.zc then 0 else c'.w.rd (x.c.toNat + j) l) +
          BitVec.ofInt 32 ((row.zip col).map (fun p => p.1.units 0 * p.2.units 0)).sum))

/-- A slot on a tile that nothing holds: the tile exists, and no operation or loop is pending on it (R98, R99, R276, R288). -/
def tileReady (c : Cx) (us : List RegUse) (t : Nat) : Bool :=
  !c.w.busy us [] && c.w.counter 3 < 63 && t < c.w.acc && !c.w.pendingTile t && !c.w.looping t && (c.w.badReg us).isNone

/-- ACCZ sets every element of its tile to +0, clears the marks and the status, and sets `ITY` from `FC`: the operation that
it starts gives the tile this value when RESULT_WRITTEN comes about, and changes no other tile (R293).  A tile number beyond `ACC` raises register index (0x03) with the number as the index,
before any effect (R276).
Where it rests on the model's own choices, log entry 32 names them. -/
def Obligations.TileCleared : Prop :=
  ∀ (s : State) (c : Cx) (x : XFields), cx s = some c →
    (c.w.acc ≤ x.c.toNat → c.w.counter 3 < 63 →
      exec (.accz x) s = .next (c.raise 3 0 c.live 0 [BitVec.ofNat 32 x.c.toNat, 6])) ∧
    (tileReady c [] x.c.toNat = true →
    let f := FSlot.ofWord (c.slotWord x.fc)
    slotFormatReason (c.slotWord x.fc) = none → accFits f (intType f.etype) = true →
    let zero : Tile := { elems := List.replicate 1024 0, ity := intType f.etype, rowMk := 0, colMk := 0, cause := 0, reason := 0, steps := 0, opnd := false }
    c.Starts (exec (.accz x) s) x.y 3 (fun q => q.kind = .tile x.c.toNat zero ∧ q.dests = [] ∧
      ∀ (u : State) (g : Group) (w : Warp), u.group c.g.uid = some g → g.warp c.w.wid = some w → q ∈ w.flights →
        (w.flights.map Flight.id).Nodup → u.canEnd g w q = true → u.stop = none →
        ∃ v : Warp, exec (.resultWritten c.g.uid c.w.wid q.id) u = .next (u.setGroup (g.setWarp v)) ∧
          v.tile x.c.toNat = zero ∧ (∀ t, t ≠ x.c.toNat → v.tile t = w.tile t) ∧ v.regs = w.regs ∧ v.masks = w.masks))

/-- FRAGX `.get`, `.put` and `.stat` complete: `.get` gives element j of lane l's fragment the element of the quadrant at row
16⌊q/2⌋ + l mod 16 and column 16(q mod 2) + 8⌊l/16⌋ + j, a marked one as 0x7FC0_0000; `.put` writes the quadrant from the
fragment, inactive lanes giving +0, and leaves the other quadrants, marks and status as it finds them when it completes; `.stat` gives the status word of R290
(R278, R280, R299).
Where it rests on the model's own choices, log entry 52 names them. -/
def Obligations.FragmentExchange : Prop :=
  ∀ (s : State) (c : Cx) (x : XFields), cx s = some c →
    let q := x.kc.toNat % 4
    let a := x.a.toNat
    (∀ c' : Cx, c.gather = .ok c' → tileReady c' [(1, a, 8)] x.c.toNat = true →
      let t := c'.w.tile x.c.toNat
      (t.cause = 0 → (∀ j < 8, c'.w.compact (a + j) = false) →
        c'.Gives (exec (.fragxGet x) s) x.y (fun w => c'.Keeps w ((List.range 8).map (a + ·)) [] ∧ c'.Calm w ∧
          ∀ j < 8, ∀ l < 32,
            let m := 16 * (q / 2) + l % 16
            let n := 16 * (q % 2) + 8 * (l / 16) + j
            w.rd (a + j) l =
              if c'.live.getLsbD l = false then c'.w.rd (a + j) l
              else if t.rowMk.getLsbD m ∨ t.colMk.getLsbD n then 0x7FC00000#32 else t.elems.getD (32 * m + n) 0)) ∧
      c'.Starts (exec (.fragxPut x) s) x.y 3 (fun f => f.dests = [] ∧ ∀ (u : State) (g : Group) (w : Warp),
        u.group c.g.uid = some g → g.warp c.w.wid = some w → f ∈ w.flights → (w.flights.map Flight.id).Nodup →
        u.canEnd g w f = true → u.stop = none →
        ∃ v : Warp, exec (.resultWritten c.g.uid c.w.wid f.id) u = .next (u.setGroup (g.setWarp v)) ∧
          (∀ k, k ≠ x.c.toNat → v.tile k = w.tile k) ∧ v.regs = w.regs ∧ v.masks = w.masks ∧
          let old := w.tile x.c.toNat
          let new := v.tile x.c.toNat
          { new with elems := old.elems } = old ∧ new.elems.length = 1024 ∧
          ∀ m < 32, ∀ n < 32, new.elems.getD (32 * m + n) 0 =
            if m / 16 = q / 2 ∧ n / 16 = q % 2 then
              let l := m % 16 + 16 * (n % 16 / 8)
              if c'.live.getLsbD l then c'.w.rd (a + n % 8) l else 0
            else old.elems.getD (32 * m + n) 0)) ∧
    (tileReady c [(1, a, 1)] x.c.toNat = true → c.fits a 0 = true →
      let t := c.w.tile x.c.toNat
      c.Gives (exec (.fragxStat x) s) x.y (fun w => c.Keeps w [a] [] ∧ c.Calm w ∧
        c.Writes w .reg a (fun _ r =>
          (t.cause < 256 → t.reason < 128 → t.steps < 512 →
            r.toNat / 2 ^ 24 = t.cause ∧ r.toNat / 2 ^ 17 % 128 = t.reason ∧ r.toNat / 2 ^ 8 % 512 = t.steps ∧
            r.getLsbD 3 = t.opnd ∧ r.getLsbD 2 = false ∧ r.getLsbD 1 = t.ity ∧
            r.getLsbD 0 = decide (t.rowMk ||| t.colMk ≠ 0)))))

/-- The bytes that a descriptor or map register names in the scratchpad, where they can be read at issue: the register is U,
the offset aligned, the bytes inside, present and not poisoned (R283, R287, R303). -/
def descReady (c : Cx) (r align size : Nat) : Option Bytes :=
  let o := (c.w.rd r 0).toNat
  if o % align = 0 && o + size ≤ c.g.scrSize && !c.g.missing o size && !c.g.scr.poisoned o size && (c.w.reg r).tag = 0
  then some (c.g.scr.read o size) else none

/-- MLOOP and MLOOPS complete as instructions when their maps, slots and tile are in order (R287): a loop joins the end of
the warp's queue with copies of both maps, and the slot moves on while the unit runs it (R288). -/
def LoopIssue : Prop :=
  ∀ (s : State) (c : Cx) (x : XFields) (op : Nat) (i : Instr) (ma mb : Bytes), cx s = some c →
    (op, i) ∈ [(0xC2, .mloop x), (0xC3, .mloops x)] →
    let sparse : Bool := op = 0xC3
    let us : List RegUse := [(1, x.a.toNat, 1), (2, x.b.toNat, 1)]
    c.w.busy us [] = false → c.w.counter 3 < 63 → x.c.toNat < c.w.acc → c.w.pendingTile x.c.toNat = false →
    c.w.badReg us = none → c.s.loopsOf c.col c.part < 4 → (x.ce = true → c.noBanks = false) →
    descReady c x.a.toNat 64 64 = some ma → descReady c x.b.toNat 64 64 = some mb →
    let fs (n : Nat) : FSlot := FSlot.ofWord (recFS c.g.record n)
    let f := fs (mapFs ma)
    let g := fs (mapFs mb)
    let w := shapeW x.shape.toNat
    let k := shapeK x.shape.toNat sparse
    mapReason ma sparse (f.blk ≠ 0) = none → mapReason mb false (g.blk ≠ 0) = none →
    (∀ n ∈ [mapFs ma, mapFs mb, x.fc.toNat], slotFormatReason (recFS c.g.record n) = none) →
    loopSlotBad f w k = false → loopSlotBad g w k = false → (sparse = true → f.vq = false) → (x.st = true → f.blk = 0) →
    intType f.etype = intType g.etype → accFits (fs x.fc.toNat) (intType f.etype) = true →
    (x.zc = false → c.w.tileIty (fun n => intType (fs n).etype) x.c.toNat = intType f.etype ∧
      ((c.w.tile x.c.toNat).cause = 0 ∨ c.w.clearing x.c.toNat = true)) →
    (x.ce = false → f.vq = false ∧ g.vq = false) →
    ∃ (w' : Warp) (q : Flight) (l : MLoop),
      exec i s = .next (({ c with w := w' } : Cx).finish x.y) ∧ w'.flights = c.w.flights ++ [q] ∧
      w'.loops = c.w.loops ++ [l] ∧ w'.counter 3 = c.w.counter 3 + 1 ∧ q.kind = .loop x.c.toNat ∧ q.id = l.flight ∧
      l.tile = x.c.toNat ∧ l.mapA = ma ∧ l.mapB = mb ∧ l.op = op ∧ l.kc = x.kc.toNat ∧ l.zc = x.zc ∧ l.st = x.st ∧
      l.steps = 0 ∧ l.dead = false ∧
      { w' with flights := c.w.flights, nextFlight := c.w.nextFlight, counters := c.w.counters, loops := c.w.loops } = c.w

/-- LOOP_STEP runs step `steps` of the oldest loop of a tile (R287): when both operands load, the tile takes the step's
products and marks (R138-R140), and the loop counts the step or, after step `KC`, leaves the tile and MAT; registers are
unchanged, and a dead loop that is the oldest of its warp leaves without effect (R289). -/
def LoopSteps : Prop :=
  ∀ (s : State) (g : Group) (w : Warp) (l : MLoop) (t : Nat), s.group g.uid = some g → g.warp w.wid = some w →
    w.loops.find? (fun l => l.tile = t) = some l → s.stop = none →
    let fs (n : Nat) : Dword := recFS g.record n
    (l.dead = true → w.oldestOn 3 l.flight = true →
      exec (.loopStep g.uid w.wid t) s = .next (s.updWarp g.uid w.wid (fun w => w.endLoop l))) ∧
    (∀ (u v : Machine.Unit) (as bs : List (List FVal)), l.dead = false → (l.steps < l.kc ∨ w.oldestOn 3 l.flight = true) →
      (l.operand fs (s.column g.col) false).load { s, g, sent := [] } l.steps = .ok (u, as) →
      (l.operand fs (s.column g.col) true).load u l.steps = .ok (v, bs) → v.s.stop = none →
      ∃ (s' : State) (w' : Warp), exec (.loopStep g.uid w.wid t) s = .next (s'.updWarp g.uid w.wid (fun _ => w')) ∧
        { s' with fresh := v.s.fresh } = v.s ∧
        (∀ k, k ≠ t → w'.tile k = w.tile k) ∧ w'.regs = w.regs ∧ w'.masks = w.masks ∧ w'.pcs = w.pcs ∧
        (w'.tile t).steps = l.steps + 1 ∧
        (let old := if l.zc && l.steps = 0 then Tile.zero (intType (FSlot.ofWord (fs l.fc)).etype) else w.tile t
         (w'.tile t).ity = old.ity ∧
         ∀ i < 32, ∀ j < 32,
           (w'.tile t).rowMk.getLsbD i = (old.rowMk.getLsbD i || (!old.ity && (as.getD i []).any (fun e => !e.finite))) ∧
           (w'.tile t).colMk.getLsbD j = (old.colMk.getLsbD j || (!old.ity && (bs.getD j []).any (fun e => !e.finite))) ∧
           ((w'.tile t).rowMk.getLsbD i = false → (w'.tile t).colMk.getLsbD j = false →
             (w'.tile t).elems.getD (32 * i + j) 0 =
               stepAdd old.ity (old.elems.getD (32 * i + j) 0) (as.getD i []) (bs.getD j []))) ∧
        (if l.steps < l.kc then w'.counters = w.counters ∧ w'.flights = w.flights ∧
            ∀ x ∈ w'.loops, x.flight = l.flight → x.steps = l.steps + 1
         else w'.loops = w.loops.erase l ∧ w'.counter 3 = w.counter 3 - 1 ∧ ∀ x ∈ w'.flights, x.id ≠ l.flight))

/-- MAPCHK completes with the word of the first cause that a loop would meet with its map, 0 where it would meet none, and
traps on none of them (R298); a read that the switch refuses is a cause of the device beside (R459).
Where it rests on the model's own choices, log entries 53, 90, 118, 122 name them. -/
def Obligations.MapCheckReports : Prop :=
  ∀ (s : State) (c : Cx) (x : XFields), cx s = some c →
    let us : List RegUse := [(1, x.a.toNat, 1), (3, x.c.toNat, 1)]
    let o := (c.w.rd x.a.toNat 0).toNat
    c.held us [] (some 3) = false → c.w.badReg us = none → (c.w.reg x.a.toNat).tag = 0 → c.fits x.c.toNat 0 = true →
    (o % 64 = 0 → o + 64 ≤ c.g.scrSize → c.g.missing o 64 = false) →
    let gives (P : Warp → Prop) : Prop :=
      ((c.mapWord x).2 = none → c.Gives (exec (.mapchk x) s) x.y P) ∧
      (∀ va, (c.mapWord x).2 = some va → ∃ w : Warp, P (c.landed w) ∧ exec (.mapchk x) s =
        .next ((({ c with w := w } : Cx).finish x.y).lostRead c.g.uid c.w.wid c.w.nextFlight 0x50 va))
    gives (fun w => c.Keeps w [x.c.toNat] [] ∧ c.Calm w ∧
      c.Writes w .reg x.c.toNat (fun _ r =>
        (o % 64 ≠ 0 → r = 0x14000000#64) ∧
        (o % 64 = 0 → c.g.scrSize < o + 64 → r = 0x16000000#64) ∧
        (o % 64 = 0 → o + 64 ≤ c.g.scrSize → c.g.scr.poisoned o 64 = true → r = 0x12000000#64) ∧
        (o % 64 = 0 → o + 64 ≤ c.g.scrSize → c.g.scr.poisoned o 64 = false →
          let m := c.g.scr.read o 64
          let fw := recFS c.g.record (mapFs m)
          let f := FSlot.ofWord fw
          let w := shapeW x.shape.toNat
          let k := shapeK x.shape.toNat x.sp
          (∀ n, mapReason m x.sp (f.blk ≠ 0) = some n → r.toNat = 0x22 * 2 ^ 24 + n * 2 ^ 16) ∧
          (mapReason m x.sp (f.blk ≠ 0) = none → ∀ n, slotFormatReason fw = some n → r.toNat = 0x23 * 2 ^ 24 + n * 2 ^ 16) ∧
          (mapReason m x.sp (f.blk ≠ 0) = none → slotFormatReason fw = none → loopSlotBad f w k = false →
            (x.sp = true → f.vq = false) → (x.st = true → f.blk = 0) →
            let op : Operand := { m, f, w, k, sparse := x.sp, st := x.st, gen := Gen.empty }
            ((∀ i ≤ x.kc.toNat, op.probe { s := c.s, g := c.g, sent := [] } i = none) → r = 0) ∧
            (∀ i ≤ x.kc.toNat, ∀ cause reason va, op.probe { s := c.s, g := c.g, sent := [] } i = some (cause, reason, va) →
              (∀ i' < i, op.probe { s := c.s, g := c.g, sent := [] } i' = none) → cause < 256 → reason < 256 →
              r.toNat = cause * 2 ^ 24 + reason * 2 ^ 16 + i * 2 ^ 8)))))

/-- ACCLD and ACCST complete as instructions when their tile, registers, slot, alignment and ranges are in order (R294): the
unit is given the 32 rows from the base, one stride apart; ACCST the tile as it stands, and its writes to other lanterns and
modules count as unacknowledged from then on (R243).  ACCDRAIN completes when its
descriptor, slot, tile, bank and ranges are in order (R295): the unit is given a copy of the descriptor, the tile as it
stands and the rounding mode (R296). -/
def TileMoveIssue : Prop :=
  ∀ (s : State) (c : Cx) (x : XFields) (store : Bool), cx s = some c →
    let t := x.c.toNat
    (let a := x.a.toNat
     let sp := tileSpace (x.sub.toNat % 4)
     let n := if sp = 0 then 2 else 1
     let f := FSlot.ofWord (c.slotWord x.fc)
     let base : Dword := if sp = 0 then c.w.rd (a + 1) 0 ++ c.w.rd a 0 else (c.w.rd a 0).setWidth 64
     let stride := c.w.rd x.b.toNat 0
     let rows : List (EAddr × Nat) := (List.range 32).map (fun m => (rowAt sp base stride.toInt m, 128))
     tileReady c [(1, a, n), (2, x.b.toNat, 1)] t = true → c.w.notU ((List.range n).map (· + a) ++ [x.b.toNat]) = none →
     (store = false → slotFormatReason (c.slotWord x.fc) = none ∧ accFits f (intType f.etype) = true) →
     (store = true → (c.w.tile t).cause = 0) → base.toNat % 128 = 0 → stride.toNat % 128 = 0 → c.rangeFault store rows = none →
     (store = false → sp = 1 → rows.all (fun r => !c.g.missing r.1.ea.toNat 128) = true) →
     (store = true → c.fabricFull rows = false) →
     (if store then c.countWrites rows else c).Starts (exec (if store then .accst x else .accld x) s) x.y 3 (fun q => q.dests = [] ∧
       q.kind = if store then .spill t sp base stride (c.w.tile t) else .fill t sp base stride (intType f.etype))) ∧
    (∀ d : Bytes,
     let fw := c.slotWord x.fc
     let f := FSlot.ofWord fw
     let g := (c.bank (epiBank d)).cur
     let rows : List (EAddr × Nat) := (List.range (epiRows d)).map (fun m => (epiRow d m, 4 * etypeBits f.etype))
     let scales : List (EAddr × Nat) :=
       if f.blk = 0 then [] else (List.range (epiRows d)).map (fun m => (epiScale d m, epiStreamBytes f))
     let biases : List (EAddr × Nat) := if epiBias d = 0 then [] else [(epiBiasAt d, 128)]
     tileReady c [(1, x.a.toNat, 1)] t = true → descReady c x.a.toNat 64 64 = some d → slotFormatReason fw = none →
     f.vq = false → f.blk ≠ 3 → epiBad d f (c.w.tile t).ity = false → (c.w.tile t).cause = 0 →
     (epiEn d = true → c.noBanks = false ∧ g.mode = 1) → c.rangeFault true (rows ++ scales) = none →
     c.rangeFault false biases = none → c.fabricFull (rows ++ scales) = false →
     (c.countWrites (rows ++ scales)).Starts (exec (.accdrain x) s) x.y 3 (fun q => q.dests = [] ∧
       q.kind = .drain t (c.w.tile t) d fw (if f.rnd = 0 then c.w.ctl.toNat % 8 else f.rnd) (if epiEn d then some g.uid else none)))

/-- When ACCLD completes (R294) and every row is readable, element (m, n) of the tile is word n of row m, with clear marks
and status. -/
def TileLoaded : Prop :=
  ∀ (s : State) (g : Group) (w : Warp) (f : Flight) (t sp : Nat) (base : Dword) (stride : Word) (ity : Bool),
    s.group g.uid = some g → g.warp w.wid = some w → w.flights.find? (fun q => q.id = f.id) = some f →
    s.canEnd g w f = true → f.kind = .fill t sp base stride ity →
    ∀ (u : Machine.Unit) (rows : List Bytes),
      ({ s, g, sent := [] } : Machine.Unit).fetchAll ((List.range 32).map (fun m => (rowAt sp base stride.toInt m, 128))) = .ok (u, rows) →
      u.s.stop = none → u.s.group g.uid = some g →
      ∃ v : Warp, exec (.resultWritten g.uid w.wid f.id) s = .next (u.s.updWarp g.uid w.wid (fun _ => v)) ∧
        (∀ m < 32, ∀ n < 32, (v.tile t).elems.getD (32 * m + n) 0 = fieldW (rows.getD m []) (4 * n)) ∧
        (v.tile t).ity = ity ∧ (v.tile t).rowMk = 0 ∧ (v.tile t).colMk = 0 ∧ (v.tile t).cause = 0 ∧
        (∀ k, k ≠ t → v.tile k = w.tile k) ∧ v.regs = w.regs
/-! ### The engines -/

/-- An engine slot that nothing holds: registers free and in the budget, the token's pair able to take U, a completion slot,
a place on the core and, where one is needed, a lock entry free, and no access of its threads that the operation must
observe left to perform (R72, R98, R99, R105, R240, R303-R308). -/
def engineReady (c : Cx) (op t : Nat) (us : List RegUse) (uniform : List Nat) (lock : Bool) : Bool :=
  let us := (0, t, 2) :: us
  !c.held us [] (some (engineCounter op)) && !c.w.releaseHeld c.live && (c.w.badReg us).isNone &&
    (c.w.notU uniform).isNone && c.fits t 0 && c.fits (t + 1) 0 && c.g.freeSlot.isSome && !c.s.engineFull c.col op &&
    (!lock || (c.s.column c.col).locks.any Option.isNone)

/-- An engine has taken an operation (R304-R308): the free completion slot that was done longest ago is in flight under its
next sequence number, and its token stands in the register pair; the operation holds the descriptor, the records read and
its counter; the destination lines are absent and the ranges locked; nothing else of the group, of memory and of the other
columns changes. -/
def Taken (c : Cx) (e : EFields) (q : Order) (o : Host.Outcome State Fault Refusal)
    (P : State → Group → Nat × Nat → Prop) : Prop :=
  ∃ (t : State) (slot : Nat) (k : CSlot) (g : Group) (x : EngineOp) (w : Warp) (fl : Flight),
    o = .next t ∧ slot < 64 ∧ c.g.ctab[slot]? = some k ∧ k.inFlight = false ∧
    (∀ j < 64, ∀ k', c.g.ctab[j]? = some k' → k'.inFlight = false → k.doneAt ≤ k'.doneAt) ∧
    t.group c.g.uid = some g ∧
    (let seq := (k.seq + 1) % 65536
     g.ctab = c.g.ctab.set slot { seq, kind := q.op, inFlight := true, low := 0, high := 0, doneAt := 0 } ∧
     c.Writes w .pair e.tok.toNat (fun _ r => r = BitVec.ofNat 64 (seq * 2 ^ 48 + q.op * 2 ^ 40 + slot)) ∧
     P t g (slot, seq)) ∧
    g.ops = c.g.ops ++ [x] ∧ x.slot = slot ∧ x.op = q.op ∧ x.wid = c.w.wid ∧ x.desc = q.desc ∧ x.addr = q.addr ∧
    x.arg = q.arg ∧ x.recs = q.recs ∧ x.cleared = q.cleared ∧ x.written = [] ∧ x.got = 0 ∧ x.det = 0 ∧ x.cause = 0 ∧
    x.result = none ∧ x.flight = fl.id ∧
    (∀ l, l ∈ g.absent ↔ l ∈ c.g.absent ∨ l ∈ q.cleared) ∧
    g.warp c.w.wid = some w ∧ w.flights = c.w.flights ++ [fl] ∧ fl.kind = .engine slot ∧
    fl.counter = some (engineCounter q.op) ∧ w.counter (engineCounter q.op) = c.w.counter (engineCounter q.op) + 1 ∧
    (∀ r, r ≠ e.tok.toNat → r ≠ e.tok.toNat + 1 → w.reg r = c.w.reg r) ∧ (∀ m, w.mask m = c.w.mask m) ∧
    (∀ wid, wid ≠ c.w.wid → g.warp wid = c.g.warp wid) ∧
    { g with ctab := c.g.ctab, ops := c.g.ops, absent := c.g.absent, warps := c.g.warps, session := c.g.session
             closing := c.g.closing } = c.g ∧
    t.mem = c.s.mem ∧ (∀ uid, uid ≠ c.g.uid → t.group uid = c.s.group uid) ∧
    (∀ col, col ≠ c.col → t.column col = c.s.column col) ∧
    (match q.lock with
     | none => (t.column c.col).locks = (c.s.column c.col).locks
     | some (srcs, dsts) => ∃ (i : Nat) (l : Lock), (c.s.column c.col).locks[i]? = some none ∧
         (t.column c.col).locks = (c.s.column c.col).locks.set i (some l) ∧ l.grp = c.g.uid ∧ l.ctx = c.g.ctx ∧
         l.slot = slot ∧ l.seq = (k.seq + 1) % 65536 ∧ l.op = q.op ∧ (srcs ≠ [] → l.srcs = srcs) ∧ (dsts ≠ [] → l.dsts = dsts))

/-- An operation without a session to change. -/
def TakenPlain (c : Cx) (e : EFields) (q : Order) (o : Host.Outcome State Fault Refusal) : Prop :=
  Taken c e q o (fun _ g _ => g.session = c.g.session ∧ g.closing = c.g.closing)

/-- CPY, CPYX, PFL2, GATHR, SCATB and BINRPL complete as instructions when their descriptor and footprint are in order
(R303): the engine takes the operation, with its token, lock and cleared presence bits (R304-R308, R312-R323). -/
def EngineIssue : Prop :=
  ∀ (s : State) (c : Cx) (e : EFields), cx s = some c →
    let r := e.desc.toNat
    let a := e.a.toNat
    let t := e.tok.toNat
    let range (x : EAddr × Nat) : LRange := x.1.range c.g x.2
    (∀ d, engineReady c 0xD0 t [(1, r, 1)] [r] true = true → descReady c r 32 160 = some d →
      (cpyConv d = true → descSlotReason (fieldD d 0x10) = none ∧ descSlotReason (fieldD d 0x18) = none) →
      cpyReason c.g d = none → c.footFault false (cpyFoot d false ++ cpyScales d false) = none →
      c.footFault true (cpyFoot d true ++ cpyScales d true) = none →
      TakenPlain c e { op := 0xD0, desc := d, addr := 0, arg := 0, recs := []
                       cleared := linesOf (cpyBounds d true :: cpyScales d true)
                       lock := some ((cpyBounds d false :: cpyScales d false).map range,
                                     (cpyBounds d true :: cpyScales d true).map range) }
        (exec (.cpy e) s)) ∧
    (∀ d, engineReady c 0xD1 t [(1, r, 1)] [r] true = true → descReady c r 64 64 = some d → cpyxReason c.g d = none →
      c.footFault false [(cpyxSrc d, cpyxClen d)] = none → c.footFault true [(cpyxDst d, cpyxOcap d)] = none →
      TakenPlain c e { op := 0xD1, desc := d, addr := 0, arg := 0, recs := [], cleared := linesOf [(cpyxDst d, cpyxOcap d)]
                       lock := some ([range (cpyxSrc d, cpyxClen d)], [range (cpyxDst d, cpyxOcap d)]) } (exec (.cpyx e) s)) ∧
    (engineReady c 0xD2 t [(1, a, 2)] [a, a + 1] false = true → (c.token a).toNat % 128 = 0 → badGlobal s (c.token a) = false →
      TakenPlain c e { op := 0xD2, desc := [], addr := c.token a, arg := e.imm.toNat, recs := [], cleared := [], lock := none }
        (exec (.pfl2 e) s)) ∧
    (∀ d, engineReady c 0xD3 t [(1, r, 1)] [r] true = true → descReady c r 64 64 = some d → gatReason c.g d = none →
      let idx := (gatIdxAt d, 4 * gatN d)
      let dst := (gatDstAt d, gatN d * gatEsz d)
      c.footFault false (idx :: gatFoot d) = none → c.footFault true [dst] = none →
      TakenPlain c e { op := 0xD3, desc := d, addr := 0, arg := 0, recs := [], cleared := linesOf [dst]
                       lock := some ([range idx], [range dst]) } (exec (.gathr e) s)) ∧
    (∀ d, engineReady c 0xD4 t [(1, r, 1), (1, a, 2)] [r] false = true → descReady c r 32 32 = some d → binReason d = none →
      c.footFault true [(binAt d 0 0, binNreg d * binBstr d)] = none →
      TakenPlain c e { op := 0xD4, desc := d, addr := 0, arg := e.sub.toNat % 8, cleared := [], lock := none
                       recs := (lanesOf (c.live &&& ~~~c.w.help)).map (fun l =>
                         { index := l, key := (c.w.rd a l).setWidth 64, val := c.w.rd (a + 1) l }) } (exec (.scatb e) s)) ∧
    (∀ d, engineReady c 0xD5 t [(1, r, 1)] [r] true = true → descReady c r 32 32 = some d → binReason d = none →
      e.imm.toNat < binNreg d →
      let bin := (binAt d e.imm.toNat 0, binBstr d)
      let dsts := [(regionAt d e.imm.toNat, regionBytes d), (stgAt d, regionBytes d)]
      dsts.all (fun x => !(range x).meets (range bin)) = true → c.footFault true (bin :: dsts) = none →
      TakenPlain c e { op := 0xD5, desc := d, addr := 0, arg := e.imm.toNat, recs := [], cleared := linesOf dsts
                       lock := some ([range bin], dsts.map range) } (exec (.binrpl e) s))

/-- MRGO, MRGP and MRGC complete as instructions: MRGO makes a session that waits for its core's merge network, MRGP binds
its stream to the warp and takes the records of the active lanes, MRGC closes the session (R324-R329). -/
def MergeIssue : Prop :=
  ∀ (s : State) (c : Cx) (e : EFields), cx s = some c →
    let r := e.desc.toNat
    let a := e.a.toNat
    let t := e.tok.toNat
    let range (x : EAddr × Nat) : LRange := x.1.range c.g x.2
    (∀ d, engineReady c 0xD6 t [(1, r, 1)] [r] true = true → descReady c r 64 64 = some d →
      let runs := c.runsRange d
      let dsts := mrgDsts d
      mrgReason c.g d runs = none → c.footFault false runs = none → c.footFault true dsts = none →
      Taken c e { op := 0xD6, desc := d, addr := 0, arg := 0, recs := [], cleared := linesOf dsts
                  lock := some ([(runs.map range).headD (8, 0, 0)], dsts.map range) } (exec (.mrgo e) s)
        (fun u g k => (u.column c.col).mergeWait = (s.column c.col).mergeWait ++ [c.g.uid] ∧ g.closing = c.g.closing ∧
          ∃ x, g.session = some x ∧ x.desc = d ∧ x.state = .waiting ∧ x.tokens = [k] ∧ x.slot = k.1 ∧ x.runs = [] ∧
            x.streams.length = mrgNstr d ∧ ∀ z ∈ x.streams, z.bound = none ∧ z.part = [] ∧ z.accepted = 0)) ∧
    (∀ x, c.g.session = some x → x.live = true → mrgRin x.desc = false →
      let st := e.sub.toNat % 16
      let n := if mrgKw x.desc then 3 else 2
      engineReady c 0xD7 t [(1, a, n)] [] false = true → st < mrgNstr x.desc →
      ((x.streams[st]?).bind Stream.bound = none ∨ (x.streams[st]?).bind Stream.bound = some c.w.wid) →
      c.g.reopening x = false →
      Taken c e { op := 0xD7, desc := [], addr := 0, arg := st, cleared := [], lock := none
                  recs := (lanesOf (c.live &&& ~~~c.w.help)).map (fun l =>
                    { index := l, val := c.w.rd (a + n - 1) l
                      key := if mrgKw x.desc then c.w.rd (a + 1) l ++ c.w.rd a l else (c.w.rd a l).setWidth 64 }) }
        (exec (.mrgp e) s)
        (fun _ g k => g.closing = c.g.closing ∧ ∃ y, g.session = some y ∧ y.tokens = x.tokens ++ [k] ∧
          (∀ z, x.streams[st]? = some z → y.streams[st]? = some { z with bound := some c.w.wid }) ∧
          (∀ j, j ≠ st → y.streams[j]? = x.streams[j]?) ∧ { y with tokens := x.tokens, streams := x.streams } = x)) ∧
    (∀ x, c.g.session = some x → x.live = true → c.g.closing = none → engineReady c 0xD8 t [] [] false = true →
      c.g.reopening x = false →
      Taken c e { op := 0xD8, desc := [], addr := 0, arg := 0, recs := [], cleared := linesOf (mrgDsts x.desc)
                  lock := none } (exec (.mrgc e) s)
        (fun _ g k => ∃ y, g.session = some y ∧ g.closing = some y ∧ y = { x with state := .merging, tokens := x.tokens ++ [k] }))

/-- MRGS, TOKQ, TOKW and CANCEL complete: MRGS gives a word of the session, TOKQ the status pair of a token, a stale one
0xA000_0000 and 0 (R305, R310, R331); TOKW moves on when its operation is done, a cause in the status becoming a cause of the
warp, and parks while it is in flight (R309); CANCEL of a stale or done token has no effect, ends an operation in flight that
is none of the merge network's with `CANC`, discards a session that has not been closed, and waits for a merge (R311, R325).
Where it rests on the model's own choices, log entries 55, 58, 100 name them. -/
def Obligations.TokenInstructions : Prop :=
  ∀ (s : State) (c : Cx) (e : EFields), cx s = some c →
    let t := e.tok.toNat
    let a := e.a.toNat
    let tok := c.token t
    let ready (us : List RegUse) : Prop := c.held ((0, t, 2) :: us) [] none = false ∧ c.w.badReg ((0, t, 2) :: us) = none ∧
      (c.w.reg t).tag = 0 ∧ (c.w.reg (t + 1)).tag = 0
    let slot := (bits tok 0 6).toNat
    let stale : Prop := ∀ k, c.g.ctab[slot]? = some k → k.seq ≠ (bits tok 48 16).toNat ∨ k.kind ≠ (bits tok 40 8).toNat
    (c.held [(1, a, 1)] [] none = false → c.w.badReg [(1, a, 1)] = none → c.fits a 0 = true →
      c.Gives (exec (.mrgs e) s) e.y (fun w => c.Keeps w [a] [] ∧ c.Calm w ∧ c.Writes w .reg a (fun _ r =>
        match c.g.session with
        | none => r = 0
        | some x => (x.streams.map Stream.accepted).sum < 2 ^ 32 → x.runs.length < 2 ^ 32 → x.used < 2 ^ 32 →
            (e.sub.toNat = 0 → r.toNat = (x.streams.map Stream.accepted).sum) ∧
            (e.sub.toNat = 1 → r.toNat = x.runs.length) ∧ (e.sub.toNat = 2 → r.toNat = x.used) ∧
            (16 ≤ e.sub.toNat → ∀ z, x.streams[e.sub.toNat - 16]? = some z → z.accepted < 2 ^ 32 → r.toNat = z.accepted)))) ∧
    (ready [(1, a, 2)] → c.fits a 0 = true → c.fits (a + 1) 0 = true →
      c.Gives (exec (.tokq e) s) e.y (fun w => c.Keeps w [a, a + 1] [] ∧ c.Calm w ∧ c.Writes w .pair a (fun _ r =>
        (stale → r = 0xA0000000#64) ∧
        (¬ stale → (∀ o ∈ c.g.ops, o.slot ≠ slot) → ∀ k, c.g.ctab[slot]? = some k → r = k.high ++ k.low)))) ∧
    (ready [] → (c.g.status tok).1.getLsbD 31 = true →
      let cause := (c.g.status tok).1.toNat / 65536 % 256
      (cause = 0 → exec (.tokw e) s = .next (c.finish e.y)) ∧
      (cause ≠ 0 → ∃ k : Cause, exec (.tokw e) s =
          .next (({ c with w := { c.w with causes := c.w.causes ++ [k] } } : Cx).finish e.y) ∧
        k.code = cause ∧ k.reason = 0 ∧ k.prec = false ∧ k.src = 1 ∧ k.lanes = c.live ∧
        k.det.getD 0 0 = (c.g.status tok).2 ∧ k.det.getD 3 0 = tok.setWidth 32)) ∧
    (ready [] → (c.g.status tok).1.getLsbD 31 = false → exec (.tokw e) s = .next (c.park c.slot .token)) ∧
    (ready [] → stale → exec (.cancel e) s = .next (c.finish e.y)) ∧
    (ready [] → ¬ stale → (∀ x, c.g.session = some x → x.live = true → (slot, (bits tok 48 16).toNat) ∉ x.tokens) →
      (c.g.opIn slot = none → exec (.cancel e) s = .next (c.finish e.y)) ∧
      (∀ o, c.g.opIn slot = some o → 0xD6 ≤ o.op → o.op ≤ 0xD8 → exec (.cancel e) s = .next s) ∧
      (∀ o, c.g.opIn slot = some o → o.op < 0xD6 → ∃ (u : State) (g : Group), exec (.cancel e) s = .next u ∧
        u.group c.g.uid = some g ∧ g.opIn slot = none ∧
        g.status tok = (statusLow true o.err o.cause o.det, (o.result.map Prod.snd).getD (BitVec.ofNat 32 o.got)) ∧ u.mem = s.mem ∧
        (∀ l, l ∈ g.absent ↔ l ∈ c.g.absent ∧ l ∉ o.cleared) ∧
        ∀ (wid : Nat) (w : Warp), c.g.warp wid = some w → ∃ v, g.warp wid = some v ∧ v.regs = w.regs ∧ v.masks = w.masks)) ∧
    (ready [] → ¬ stale → ∀ x, c.g.session = some x → x.live = true → (slot, (bits tok 48 16).toNat) ∈ x.tokens →
      ∃ (u : State) (g : Group), exec (.cancel e) s = .next u ∧ u.group c.g.uid = some g ∧
        g.session = (if c.g.closing.isSome then c.g.closing else c.g.lastClosed) ∧
        (∀ o, o ∈ g.ops ↔ o ∈ c.g.ops ∧ ¬ ∃ p ∈ c.g.ops, p.slot = o.slot ∧ (p.op = 0xD6 ∨ p.op = 0xD7) ∧
          (p.slot, c.g.seqOf p.slot) ∈ x.tokens) ∧
        (x.state = .opened → (u.column c.g.col).merge ≠ some c.g.uid) ∧ u.mem = s.mem)

/-- An engine operation whose status is reached and acknowledged completes (R305-R308): its token carries the status, its
counter falls and its flight is gone, its lines are present, its lock is free, and the threads that wait in TOKW look again. -/
def EngineOperationEnds : Prop :=
  ∀ (s : State) (g : Group) (o : EngineOp) (lo hi : Word), s.group g.uid = some g → g.opIn o.slot = some o →
    o.result = some (lo, hi) → o.sent = [] → o.op ≠ 0xD6 → o.op ≠ 0xD8 → g.col < s.columns.length →
    (∀ w ∈ g.warps, (w.flights.map Flight.id).Nodup) → (g.warps.map Warp.wid).Nodup →
    ∃ (t : State) (h : Group), exec (.engineOperationComplete g.uid o.slot) s = .next t ∧ t.group g.uid = some h ∧
      (∀ x, x ∈ h.ops ↔ x ∈ g.ops ∧ x.slot ≠ o.slot) ∧
      (∀ k, g.ctab[o.slot]? = some k →
        h.ctab[o.slot]? = some { k with inFlight := false, low := lo, high := hi, doneAt := s.clock.toNat }) ∧
      (∀ j, j ≠ o.slot → h.ctab[j]? = g.ctab[j]?) ∧
      (∀ l, l ∈ h.absent ↔ l ∈ g.absent ∧ l ∉ o.cleared) ∧
      (∀ w, g.warp o.wid = some w → ∀ f ∈ w.flights, f.id = o.flight → f.counter = some (engineCounter o.op) →
        ∃ v, h.warp o.wid = some v ∧ v.regs = w.regs ∧ v.masks = w.masks ∧ (∀ q ∈ v.flights, q.id ≠ o.flight) ∧
          v.counter (engineCounter o.op) = w.counter (engineCounter o.op) - 1 ∧ ∀ l < 32, v.waitOf l ≠ .token) ∧
      (t.column g.col).lockOf g.uid o.slot (g.seqOf o.slot) = none ∧ t.mem = s.mem ∧ (∀ uid, uid ≠ g.uid → t.group uid = s.group uid)

/-- The events of the engines complete.  MERGE_SESSION_OPEN opens the session that waits longest when the network is free, and
one that its MRGC closed before it opened takes the network (R325).  ENGINE_LINE_WRITTEN brings a line of GATHR, CPY or CPYX:
it is present, counted as written, and the operation goes on (R307); an element of GATHR whose translation was refused takes the
fill value and counts as met by a cause (R323); a line of PFL2 that the switch refuses is a cause of the warp (R459).  An operation that is not blocked (R308) ends with the status of its work once every access succeeds. -/
def EngineEvents : Prop :=
  ∀ (s : State) (g : Group), s.group g.uid = some g → s.stop = none →
    (∀ x, g.closing = some x → x.state ≠ .waiting → (s.column g.col).merge = none →
      (s.column g.col).mergeWait.head? = some g.uid → (s.column g.col).blocked g.uid x.slot x.seq = false →
      g.col < s.columns.length →
      ∃ (t : State) (h : Group), exec (.mergeSessionOpen g.uid) s = .next t ∧ t.group g.uid = some h ∧ h.closing = g.closing ∧
        h.session = g.session ∧ (t.column g.col).merge = some g.uid ∧ t.mem = s.mem) ∧
    (∀ x, g.closing = none → g.session = some x → x.state = .waiting → (s.column g.col).merge = none →
      (s.column g.col).mergeWait.head? = some g.uid → (s.column g.col).blocked g.uid x.slot x.seq = false →
      g.col < s.columns.length →
      ∃ (t : State) (h : Group), exec (.mergeSessionOpen g.uid) s = .next t ∧ t.group g.uid = some h ∧
        h.session = some { x with state := .opened } ∧ (t.column g.col).merge = some g.uid ∧ t.mem = s.mem ∧
        (∀ o k, g.opIn x.slot = some o → o.op = 0xD6 → g.ctab[x.slot]? = some k → x.tokens.head? = some (x.slot, k.seq) →
          h.opIn x.slot = none ∧ (h.ctab[x.slot]?).map (fun k => (k.inFlight, k.low, k.high)) = some (false, 0x80000000#32, 0))) ∧
    (∀ (o : EngineOp) (line : Nat), g.opIn o.slot = some o → o.op = 0xD3 → o.result = none → line ∈ o.cleared →
      line ∉ o.written → (s.column g.col).blocked g.uid o.slot (g.seqOf o.slot) = false →
      let is := lineElems o.desc line
      let r := ({ s, g, sent := [] } : Machine.Unit).gatherElems o is
      r.parked = [] → r.held = false → r.lost = none → r.u.s.stop = none → r.u.s.group g.uid = some g → r.u.g.uid = g.uid →
      ∃ (t : State) (h : Group) (x : EngineOp), exec (.engineLineWritten g.uid o.slot line) s = .next t ∧
        t.group g.uid = some h ∧ line ∉ h.absent ∧ h.scr = r.u.g.scr ∧ t.mem = r.u.s.mem ∧ h.opIn o.slot = some x ∧
        x.got = o.got + is.length ∧ x.written = o.written ++ [line] ∧ x.det = o.det + r.det) ∧
    (∀ (o : EngineOp) (line : Nat), g.opIn o.slot = some o → o.op = 0xD3 → o.result = none → line ∈ o.cleared →
      line ∉ o.written → (s.column g.col).blocked g.uid o.slot (g.seqOf o.slot) = false →
      (∀ i ∈ lineElems o.desc line, i ∈ o.refused) →
      ∃ (t : State) (h : Group) (x : EngineOp), exec (.engineLineWritten g.uid o.slot line) s = .next t ∧
        t.group g.uid = some h ∧ line ∉ h.absent ∧ t.mem = s.mem ∧ h.opIn o.slot = some x ∧
        x.got = o.got + (lineElems o.desc line).length ∧ x.det = o.det + (lineElems o.desc line).length ∧
        x.written = o.written ++ [line]) ∧
    (∀ (o : EngineOp) (line : Nat), g.opIn o.slot = some o → o.op = 0xD0 ∨ o.op = 0xD1 → o.result = none → line ∈ o.cleared →
      line ∉ o.written → (s.column g.col).blocked g.uid o.slot (g.seqOf o.slot) = false →
      ∀ (v : Machine.Unit) (k err : Nat),
        ({ s := s.draw.2, g, sent := [] } : Machine.Unit).copyWork o (fun l => l = line) s.draw.1 = (.ok v k, err) →
        v.s.stop = none → v.s.group g.uid = some g → v.g.uid = g.uid → v.g.ops = g.ops →
        ∃ (t : State) (h : Group) (x : EngineOp), exec (.engineLineWritten g.uid o.slot line) s = .next t ∧
          t.group g.uid = some h ∧ line ∉ h.absent ∧ h.scr = v.g.scr ∧ t.mem = v.s.mem ∧ h.opIn o.slot = some x ∧
          x.got = o.got + k ∧ x.written = o.written ++ [line]) ∧
    (∀ (o : EngineOp), g.opIn o.slot = some o → o.result = none → o.sent = [] →
      (s.column g.col).blocked g.uid o.slot (g.seqOf o.slot) = false →
      let u : Machine.Unit := { s := s.draw.2, g, sent := [] }
      (∀ (v : Machine.Unit) (k err : Nat), (o.op = 0xD0 ∨ o.op = 0xD1) →
        u.copyWork o (fun l => !o.written.contains l) s.draw.1 = (.ok v k, err) → v.sent = [] → v.s.stop = none →
        exec (.engineOperationComplete g.uid o.slot) s =
          .next ((v.s.setGroup v.g).finishOp v.g.uid o.slot (statusLow false err 0 0) (BitVec.ofNat 32 (o.got + k)))) ∧
      (o.op = 0xD2 → s.linesPark g (pfl2Lines o.addr o.arg) = false →
        let p := (pfl2Lines o.addr o.arg).foldl (fun (p : Prefetched) a => p.line g a) { s := s.draw.2, here := 0, gone := 0, cause := 0, lost := none }
        (p.cause = 0 → p.lost = none → p.here + p.gone = o.arg) ∧
        (∀ va, p.lost = some va → exec (.engineOperationComplete g.uid o.slot) s = .next (s.lostRead g.uid o.wid o.flight 0x50 va)) ∧
        (p.lost = none → p.s.stop = none → exec (.engineOperationComplete g.uid o.slot) s =
          .next ((p.s.setGroup g).finishOp g.uid o.slot (statusLow false (if p.gone = 0 then 0 else 8) p.cause p.gone)
            (BitVec.ofNat 32 p.here)))))

/-- What the engines compute.  CPYX: a literal run copies its bytes, and a match appends bytes of the output from F back, one
by one (R318).  BINRPL: records combine with their elements in order, and no other element changes (R322).  MRGC: the merged
keys rise strictly, are those of the streams, and each carries the fold of its values in order (R328).
Where it rests on the model's own choices, log entries 57, 58 name them. -/
def Obligations.EngineData : Prop :=
  (∀ (cap fuel : Nat) (h : Marked) (t out : List Marked), h.1.toNat < 128 → h.1.toNat + 1 ≤ t.length →
    out.length + h.1.toNat + 1 ≤ cap → (∀ b ∈ h :: t, b.2 = false) →
    expand cap (fuel + 1) (h :: t) out = expand cap fuel (t.drop (h.1.toNat + 1)) ((t.take (h.1.toNat + 1)).reverse ++ out)) ∧
  (∀ (f n : Nat) (out : List Marked), 0 < f → f ≤ out.length → (∀ b ∈ out, b.2 = false) →
    (appendMatch f false n out).length = out.length + n ∧
    (∀ i < out.length, (appendMatch f false n out).reverse[i]? = out.reverse[i]?) ∧
    (∀ i, out.length ≤ i → i < out.length + n →
      (appendMatch f false n out).reverse[i]? = (appendMatch f false n out).reverse[i - f]?)) ∧
  (∀ (d : Bytes) (free : Word) (region recs : List Marked) (n : Nat), region.length = regionBytes d → 16 * n ≤ recs.length →
    (∀ b ∈ region ++ recs, b.2 = false) →
    let out := replayBin d free region recs n
    let rec' (i : Nat) : Bytes := plainBytes ((recs.drop (16 * i)).take 16)
    out.length = region.length ∧
    ∀ k < 2 ^ binRsh d, fieldW (plainBytes out) (4 * k) =
      ((List.range n).filter (fun i => field (rec' i) 0 4 % 2 ^ binRsh d = k)).foldl
        (fun v i => combine (field (rec' i) 8 1) v (fieldW (rec' i) 4) free) (fieldW (plainBytes region) (4 * k))) ∧
  (∀ (cop : Nat) (streams : List (List (List MRec))),
    let out := mergeAll cop streams
    out.Pairwise (fun a b => a.key.toNat < b.key.toNat) ∧
    (∀ k, (∃ r ∈ out, r.key = k) ↔ ∃ r ∈ streams.flatten.flatten, r.key = k) ∧
    (∀ r ∈ out, mergeKey cop streams r.key = some r.val) ∧
    (∀ k v, streams.flatten.flatten.filter (fun r => r.key = k) = [v] → mergeKey cop streams k = some v.val))
/-! ### Synchronisation and system instructions -/

/-- A format S slot that nothing holds: registers and masks free, registers in the budget, operands U that must be (R72,
R98, R99, R336). -/
def sysReady (c : Cx) (us : List RegUse) (masks : List Nat) (counter : Option Nat) (uniform : List Nat) : Prop :=
  c.held us masks counter = false ∧ c.w.badReg us = none ∧ c.w.notU uniform = none

/-- BAR, BARA and BARW complete (R339-R341).  An arrival that fits the open phase, or opens one, counts once; the last
arrival completes the phase, which ends the waits for it; else BAR parks behind its slot until the phase completes, and a
thread that waited at the last slot of its clause then stands at the next clause.  BARA gives the phase number and goes on.  BARW goes on when its phase has completed, and waits at its slot otherwise.
Where it rests on the model's own choices, log entry 59 names them. -/
def Obligations.BarrierInstructions : Prop :=
  ∀ (s : State) (c : Cx) (f : SFields), cx s = some c →
    let id := f.id.toNat
    let n := f.imm.toNat % 64
    (∀ c' : Cx, c.gatherAs (.barColl id s.clock.toNat) = .ok c' → c'.w.quiet = true →
      let b := c'.g.bar id
      let e := if n = 0 then c'.g.wcount else n
      (b.exp = 0 ∨ (b.auto = true ∧ n = 0) ∨ e = b.exp) →
      let exp := if b.exp = 0 then e else b.exp
      let arr := if b.exp = 0 then 1 else b.arr + 1
      let last : Prop := exp ≠ 0 ∧ arr = exp ∧ ∀ o ∈ c'.g.ops, o.parked = []
      let counted (g : Group) : Prop := { g with bars := c'.g.bars, warps := c'.g.warps } = c'.g ∧
        (∀ k, k ≠ id → g.bar k = c'.g.bar k) ∧
        (last → g.bar id = { ph := b.ph + 1, exp := 0, arr := 0, t0 := 0, auto := false, arrivals := [] } ∧
          ∀ wid w, wid ≠ c'.w.wid → c'.g.warp wid = some w → ∃ v, g.warp wid = some v ∧
            { v with pcs := w.pcs, rsl := w.rsl, wait := w.wait, hframe := w.hframe } = w ∧
            ∀ l < 32, l < w.wait.length →
              let passed (k : Nat) (x : Word) : Prop := k = id ∧ 1 ≤ (b.ph + 1 - x).toNat ∧ (b.ph + 1 - x).toNat ≤ 2 ^ 31
              let (woken, n) : Prop × Nat := match w.waitOf l with
                | .bar k x n => (passed k x, n)
                | .barw k x => (passed k x, 16)
                | _ => (False, 0)
              (¬ woken → v.waitOf l = w.waitOf l ∧ v.pcOf l = w.pcOf l ∧ v.rslOf l = w.rslOf l) ∧
              (woken → v.waitOf l = .none ∧
                (w.rslOf l < n → v.pcOf l = w.pcOf l ∧ v.rslOf l = w.rslOf l) ∧
                (n ≤ w.rslOf l → v.pcOf l = codeAddr (w.pcOf l + BitVec.ofNat 64 (8 * (n + 1))) ∧ v.rslOf l = 0))) ∧
        (¬ last → g.warps = c'.g.warps ∧ (g.bar id).ph = b.ph ∧ (g.bar id).exp = exp ∧ (g.bar id).arr = arr ∧
          (g.bar id).arrivals.length = (if b.exp = 0 then 1 else b.arrivals.length + 1))
      (sysReady c [] [] none [] → ∃ g, counted g ∧
        (last → exec (.bar f) s = .next (({ c' with g := g } : Cx).finish f.y)) ∧
        (¬ last → exec (.bar f) s = .next (({ c' with g := g } : Cx).parkAfter (.bar id b.ph c'.run.words.length) f.y))) ∧
      (sysReady c [(0, f.d.toNat, 1)] [] none [] → c'.fits f.d.toNat 0 = true → ∃ (g : Group) (w : Warp), counted g ∧
        exec (.bara f) s = .next (({ c' with g := g, w := w } : Cx).finish f.y) ∧
        c'.Keeps w [f.d.toNat] [] ∧ c'.Calm w ∧ c'.Writes w .reg f.d.toNat (fun _ r => r = b.ph.setWidth 64))) ∧
    (sysReady c [(1, f.a.toNat, 1)] [] none [f.a.toNat] →
      let v := c.w.rd f.a.toNat 0
      let passed : Prop := 1 ≤ ((c.g.bar id).ph - v).toNat ∧ ((c.g.bar id).ph - v).toNat ≤ 2 ^ 31
      (passed → exec (.barw f) s = .next (c.finish f.y)) ∧
      (¬ passed → exec (.barw f) s = .next (c.park c.slot (.barw id v))))

/-- SPAWN, EMIT and CLAIM complete.  SPAWN and EMIT send one record for each active lane that is no helper to the node of
their entry address or id, with the lane's key and payload words, once every earlier access of their threads has performed
(R66, R223), and hold ST until all have entered the queue (R343).
CLAIM takes the next groups of its launch, in order and none twice (R344). -/
def RecordInstructions : Prop :=
  ∀ (s : State) (c : Cx) (f : SFields), cx s = some c →
    let n := f.imm.toNat % 32
    let a := f.a.toNat
    let units (k : Nat) : List WaitRec := ((lanesOf c.live).filter (fun l => !c.w.help.getLsbD l)).map (fun l =>
      { node := k, key := c.w.rd f.b.toNat l, lan := c.g.col / 48, tile := none, from' := 1#32 <<< l
        recs := [{ seq := 0, arrive := 0, helper := false, first := true, hit := false, full := none, tile := none
                   words := (List.range n).map (fun i => c.w.rd (f.d.toNat + i) l) }]
        flight := some (c.g.uid, c.w.wid, c.w.nextFlight) })
    let sends (i : Instr) (k : Nat) : Prop := ∃ (w : Warp) (q : Flight),
      exec i s = .next ((({ c with w := w } : Cx).finish f.y).sendUnits c.g.ctx (units k)) ∧
      w.flights = c.w.flights ++ [q] ∧ q.id = c.w.nextFlight ∧ q.kind = .records ∧ q.counter = some 1 ∧ q.dests = [] ∧
      w.counter 1 = c.w.counter 1 + 1 ∧
      { w with flights := c.w.flights, nextFlight := c.w.nextFlight, counters := c.w.counters } = c.w
    (∀ (x : Ctx) (k : Nat) (nd : Node), s.ctx c.g.ctx = some x → x.nodes[k]? = some nd → nodeWords nd.desc = n →
      c.w.releaseHeld c.live = false →
      (sysReady c [(0, f.d.toNat, n), (1, a, 2), (2, f.b.toNat, 1)] [] (some 1) [a, a + 1] →
        recEntry nd.record = c.w.rd (a + 1) 0 ++ c.w.rd a 0 →
        (∀ j < k, ∀ m, x.nodes[j]? = some m → recEntry m.record ≠ recEntry nd.record) → sends (.spawn f) k) ∧
      (sysReady c [(0, f.d.toNat, n), (1, a, 1), (2, f.b.toNat, 1)] [] (some 1) [a] →
        (c.w.rd a 0).toNat = k → sends (.emit f) k)) ∧
    (sysReady c [(0, f.d.toNat, 2)] [] none [] → c.fits f.d.toNat 0 = true → c.fits (f.d.toNat + 1) 0 = true →
      ∀ l, s.launchOf c.g.launch = some l → c.g.lit = none → l.next < 2 ^ 32 →
        let k := min f.imm.toNat (l.total - l.next)
        ∃ t : State, { t with launches := s.launches } = s ∧
          t.launchOf c.g.launch = some { l with next := l.next + k } ∧
          c.GivesIn (exec (.claim f) s) f.y (fun s' g' w => s' = t ∧ g' = c.g ∧ c.Keeps w [f.d.toNat, f.d.toNat + 1] [] ∧
            c.Writes w .reg f.d.toNat (fun _ r => r.toNat = if k = 0 then 0 else l.next) ∧
            c.Writes w .reg (f.d.toNat + 1) (fun _ r => r = (BitVec.ofNat 32 k).setWidth 64)))

/-- REGRP completes (R67-R70, R345): an arrival parks its warp in the round until every warp with threads has arrived; the
last one forms ⌈n/32⌉ warps of the threads in stable order of their keys: thread i of that order stands in lane i mod 32 of
the (i/32)-th warp, at the continuation, with its carried registers, flags and help bit. -/
def Regrouping : Prop :=
  ∀ (s : State) (c c' : Cx) (f : SFields), cx s = some c → sysReady c [(1, f.a.toNat, 1)] [] none [] → c.gather = .ok c' →
    c'.w.stack = [] → c'.w.quiet = true → (∀ q ∈ c'.w.flights, q.dests = []) →
    let first := f.b.toNat
    let n := f.id.toNat % 16 + 1
    let cont := codeAddr (c'.run.pc + 8#64 * f.imm.signExtend 64)
    (∀ i < n, first + i < c'.w.ng) →
    let since := c.w.firstPark c.run.pc c.slot s.clock.toNat
    let r : Regrp := match c'.g.regrp with
      | none => { cont, key := f.a.toNat, first, count := n, warps := [c'.w.wid], since := s.clock.toNat }
      | some o => { o with warps := o.warps ++ [c'.w.wid] }
    (∀ o, c'.g.regrp = some o → o.cont = cont ∧ o.key = f.a.toNat ∧ o.first = first ∧ o.count = n) →
    let t : State := ({ c' with g := { c'.g with regrp := some r } } : Cx).park c'.slot (.round since)
    ∀ g, t.group c.g.uid = some g →
      (g.roundFull r = false → exec (.regrp f) s = .next t) ∧
      (g.roundFull r = true → (g.warps.map Warp.wid).Nodup →
        (∀ w ∈ g.warps, w.wid ∈ r.warps → w.live ≠ 0 → first + n ≤ w.regs.length) →
        let ws := g.warps.filter (fun w => r.warps.contains w.wid && w.live ≠ 0)
        ws ≠ [] → ∃ (u : State) (h : Group) (ms : List (Warp × Nat)), exec (.regrp f) s = .next u ∧ u.group c.g.uid = some h ∧
          u.mem = s.mem ∧ h.regrp = none ∧ h.wcount = (ms.length + 31) / 32 ∧
          ms.Perm ((ws.map (fun w => (lanesOf w.live).map (fun l => (w, l)))).flatten) ∧
          ms.Pairwise (fun x y => (x.1.rd f.a.toNat x.2).toNat ≤ (y.1.rd f.a.toNat y.2).toNat) ∧
          (∀ k, ms.filter (fun x => (x.1.rd f.a.toNat x.2).toNat = k) =
            ((ws.map (fun w => (lanesOf w.live).map (fun l => (w, l)))).flatten).filter
              (fun x => (x.1.rd f.a.toNat x.2).toNat = k)) ∧
          (∀ (i : Nat) (m : Warp × Nat) (v : Warp), ms[i]? = some m → ws[i / 32]? = some v → ∃ w', h.warp v.wid = some w' ∧
            w'.live.getLsbD (i % 32) = true ∧ w'.pcOf (i % 32) = cont ∧ w'.waitOf (i % 32) = .none ∧ w'.stack = [] ∧
            w'.help.getLsbD (i % 32) = m.1.help.getLsbD m.2 ∧ w'.flags.getD (i % 32) 0 = m.1.flags.getD m.2 0 ∧
            ∀ j < n, w'.rd (first + j) (i % 32) = m.1.rd (first + j) m.2) ∧
          (∀ (i : Nat) (v : Warp), (ms.length + 31) / 32 ≤ i → ws[i]? = some v → ∃ w', h.warp v.wid = some w' ∧ w'.live = 0))

/-- CBLOAD starts the load of a codebook image that R347 admits, which replaces the bank's shadow when it completes (R348), or
raises poison (0x12) with its address where it is poisoned (R230);
CBCOMMIT exchanges shadow and current and counts the generation (R349); GWR and GATOM write a group register, GATOM in lane
order with each lane's old value (R350, R351). -/
def BankAndGroupRegisters : Prop :=
  ∀ (s : State) (c : Cx) (f : SFields), cx s = some c →
    (sysReady c [(1, f.a.toNat, 1)] [] (some 2) [f.a.toNat] → c.noBanks = false →
      let o := (c.w.rd f.a.toNat 0).toNat
      let h := c.g.scr.read o 16
      let n := 16 + 8 * field h 0 2
      c.w.owesAcquire c.live = false → o % 16 = 0 → o + n ≤ c.g.scrSize → c.g.missing o 16 = false → c.g.missing o n = false → imageReason h = none →
      c.Starts (exec (.cbload f) s) f.y 2 (fun q => q.dests = [] ∧ q.gens = [] ∧
        q.kind = .cbload f.id.toNat (c.g.scr.badAt o n) (c.g.scr.read o n) (c.g.scr.poisoned o n))) ∧
    (∀ (g : Group) (w : Warp) (q : Flight) (b addr : Nat) (image : Bytes), s.group g.uid = some g → g.warp w.wid = some w →
      w.flights.find? (fun x => x.id = q.id) = some q → q.kind = .cbload b addr image true → w.oldestOn 2 q.id = true →
      s.genHeld g.col ((s.column g.col).banks.getD b Bank.empty).shadow.uid = false →
      ∃ (v : Warp) (k : Cause), exec (.cbloadComplete g.uid w.wid q.id) s = .next (s.setGroup (g.setWarp v)) ∧
        v.causes = w.causes ++ [k] ∧ k.code = 0x12 ∧ k.prec = false ∧ k.addr = BitVec.ofNat 64 addr ∧
        v.flights = w.flights.filter (fun x => x.id ≠ q.id) ∧ v.regs = w.regs ∧ v.masks = w.masks) ∧
    (∀ (g : Group) (w : Warp) (q : Flight) (b addr : Nat) (image : Bytes), s.group g.uid = some g → g.warp w.wid = some w →
      w.flights.find? (fun x => x.id = q.id) = some q → q.kind = .cbload b addr image false → w.oldestOn 2 q.id = true →
      s.genHeld g.col ((s.column g.col).banks.getD b Bank.empty).shadow.uid = false → g.col < s.columns.length →
      ∃ t : State, exec (.cbloadComplete g.uid w.wid q.id) s = .next t ∧ t.mem = s.mem ∧
        (let new := ((t.column g.col).banks.getD b Bank.empty)
         let old := ((s.column g.col).banks.getD b Bank.empty)
         new.cur = old.cur ∧ new.number = old.number ∧ new.shv = true ∧
         new.shadow.len = field image 0 2 ∧ new.shadow.mode = field image 2 1 ∧ new.shadow.lo = fieldW image 4 ∧
         new.shadow.hi = fieldW image 8 ∧ new.shadow.rs = fieldW image 12 ∧
         (∀ i < field image 0 2, new.shadow.entries.getD i 0 = fieldD image (16 + 8 * i)) ∧
         ∀ k, k ≠ b → (t.column g.col).banks.getD k Bank.empty = (s.column g.col).banks.getD k Bank.empty)) ∧
    (sysReady c [] [] none [] → c.noBanks = false →
      (∀ q ∈ c.w.flights, ∀ addr image p, q.kind ≠ .cbload f.id.toNat addr image p) →
      s.genHeld c.col (c.bank f.id.toNat).shadow.uid = false →
      ∃ s' : State, exec (.cbcommit f) s = .next (({ c with s := s' } : Cx).finish f.y) ∧
        (let old := (s.column c.col).banks.getD f.id.toNat Bank.empty
         (s'.column c.col).banks.getD f.id.toNat Bank.empty =
           { cur := old.shadow, shadow := old.cur, number := (old.number + 1) % 65536, shv := false }) ∧
        (∀ k, k ≠ f.id.toNat → (s'.column c.col).banks.getD k Bank.empty = (s.column c.col).banks.getD k Bank.empty) ∧
        { s' with columns := s.columns } = s ∧ (∀ k, k ≠ c.col → s'.column k = s.column k)) ∧
    (let rs := if f.sub ≠ 0 then [] else [f.a.toNat]
     sysReady c (rs.map (fun r => (1, r, 1))) [] none rs →
      ∃ g' : Group, exec (.gwr f) s = .next (({ c with g := g' } : Cx).finish f.y) ∧ { g' with gregs := c.g.gregs } = c.g ∧
        g'.gregs.getD (f.id.toNat % 16) 0 = (if f.sub ≠ 0 then f.imm.signExtend 32 else c.w.rd f.a.toNat 0) ∧
        ∀ i, i ≠ f.id.toNat % 16 → g'.gregs.getD i 0 = c.g.gregs.getD i 0) ∧
    (sysReady c ((0, f.d.toNat, 1) :: (2, f.b.toNat, 1) :: (if f.sub = 9 then [(1, f.a.toNat, 1)] else [])) [] none [] →
      c.fits f.d.toNat 2 = true →
      let i := f.id.toNat % 16
      let step (v : Word) (l : Nat) : Word := gatomNew f.sub.toNat v (c.w.rd f.b.toNat l) (c.w.rd f.a.toNat l)
      c.GivesIn (exec (.gatom f) s) f.y (fun s' g' w =>
        s' = s ∧ { g' with gregs := c.g.gregs } = c.g ∧ c.Keeps w [f.d.toNat] [] ∧ c.Calm w ∧
        g'.gregs.getD i 0 = (lanesOf c.live).foldl step (c.g.gregs.getD i 0) ∧
        (∀ k, k ≠ i → g'.gregs.getD k 0 = c.g.gregs.getD k 0) ∧
        c.Writes w .reg f.d.toNat (fun l r =>
          r = (((lanesOf c.live).filter (· < l)).foldl step (c.g.gregs.getD i 0)).setWidth 64)))

/-- QSIG starts its addition to a token of this module when the address is 16-byte aligned, and sends a peer's to its owner (R352);
a token of another lantern counts as an unacknowledged write from then on (R243), and one in a range that an operation of its core
has locked raises range-lock (0x15) with the entry, before any effect (R241).
SLEEP waits at its slot for the given cycles, and with a count of 0 ends the issue of its clause there (R353), FRAMEC hands its commit to the output of its context (R354). -/
def SignalSleepFrame : Prop :=
  ∀ (s : State) (c : Cx) (f : SFields), cx s = some c →
    let a := f.a.toNat
    let va : Dword := c.w.rd (a + 1) 0 ++ c.w.rd a 0
    (sysReady c [(1, a, 2)] [] (some 1) [a, a + 1] → va.toNat % 16 = 0 → badGlobal s va = false → c.w.releaseHeld c.live = false → isPeer va = false →
      c.signalLock va = none →
      (lanOf va = c.col / 48 → c.Starts (exec (.qsig f) s) f.y 1 (fun q => q.kind = .signal va f.imm.toNat ∧ q.dests = [])) ∧
      (lanOf va ≠ c.col / 48 → ∃ (w : Warp) (q : Flight) (a : Unack),
        exec (.qsig f) s = .next (({ c with s := { s with nextTag := s.nextTag + 1 }, w := w } : Cx).finish f.y) ∧
        w.flights = c.w.flights ++ [q] ∧ q.id = c.w.nextFlight ∧ q.kind = .signal va f.imm.toNat ∧ q.counter = some 1 ∧ q.dests = [] ∧
        w.unack = c.w.unack ++ [a] ∧ a.flight = some q.id ∧ a.addr = va ∧ a.since = s.clock.toNat ∧
        w.counter 1 = c.w.counter 1 + 1 ∧
        { w with flights := c.w.flights, nextFlight := c.w.nextFlight, counters := c.w.counters, unack := c.w.unack } = c.w)) ∧
    (sysReady c [(1, a, 2)] [] (some 1) [a, a + 1] → va.toNat % 16 = 0 → badGlobal s va = false → ∀ i k, c.signalLock va = some (i, k) →
      exec (.qsig f) s = .next (c.raise 0x15 0 c.live va [BitVec.ofNat 32 i, BitVec.ofNat 32 k.op, BitVec.ofNat 32 k.slot])) ∧
    (sysReady c [(1, a, 2)] [] (some 1) [a, a + 1] → va.toNat % 16 = 0 → badGlobal s va = false → c.w.releaseHeld c.live = false →
      c.signalLock va = none → isPeer va = true → ∃ (s' : State) (w : Warp) (q : Flight),
        exec (.qsig f) s = .next (({ c with s := s', w := w } : Cx).finish f.y) ∧ s'.mem = s.mem ∧ s'.groups = s.groups ∧
        w.flights = c.w.flights ++ [q] ∧ q.kind = .store 6 ∧ q.counter = some 1 ∧ q.dests = [] ∧ q.remote ≠ [] ∧
        w.counter 1 = c.w.counter 1 + 1 ∧
        { w with flights := c.w.flights, nextFlight := c.w.nextFlight, counters := c.w.counters, unack := c.w.unack } = c.w) ∧
    (let rs := if f.sub = 0 then [] else [a]
     let n := if f.sub = 0 then f.imm.toNat else min (c.w.rd a 0).toNat 0xFFFFF
     sysReady c (rs.map (fun r => (1, r, 1))) [] none rs →
      (n = 0 → ∃ w : Warp, exec (.sleep f) s = .next (({ c with w := w } : Cx).commit none) ∧
        (∀ l < 32,
          (c.run.lanes.getLsbD l = false → w.waitOf l = c.w.waitOf l ∧ w.rslOf l = c.w.rslOf l ∧ w.pcOf l = c.w.pcOf l) ∧
          (c.run.lanes.getLsbD l = true → w.waitOf l = .none ∧
            if c.slot + 1 < c.run.words.length then w.rslOf l = c.slot + 1 ∧ w.pcOf l = c.w.pcOf l
            else w.rslOf l = 0 ∧ w.pcOf l = codeAddr (c.run.pc + BitVec.ofNat 64 (8 * (c.run.words.length + 1))))) ∧
        { w with pcs := c.w.pcs, came := c.w.came, wait := c.w.wait, rsl := c.w.rsl, yields := c.w.yields } = c.w) ∧
      (n ≠ 0 → ∃ w : Warp, exec (.sleep f) s = .next (({ c with w := w } : Cx).commit none) ∧
        (∀ l < 32, w.waitOf l = (if c.run.lanes.getLsbD l then .sleep n c.run.words.length else c.w.waitOf l) ∧
          w.rslOf l = (if c.run.lanes.getLsbD l then c.slot else c.w.rslOf l)) ∧
        { w with wait := c.w.wait, rsl := c.w.rsl, yields := c.w.yields, cur := c.w.cur, curPc := c.w.curPc } = c.w)) ∧
    (∀ (g : Group) (w : Warp) (lane len : Nat), s.group g.uid = some g → g.warp w.wid = some w → w.waitOf lane = .sleep 0 len →
      lane < 32 → w.live.getLsbD lane = true → w.parked.getLsbD lane = false →
      ∃ v : Warp, exec (.sleepExpiry g.uid w.wid lane) s = .next (s.setGroup (g.setWarp v)) ∧ v.waitOf lane = .none ∧
        v.regs = w.regs ∧ v.masks = w.masks ∧
        (if w.rslOf lane + 1 < len then v.rslOf lane = w.rslOf lane + 1 ∧ v.pcOf lane = w.pcOf lane
         else v.rslOf lane = 0 ∧ v.pcOf lane = codeAddr (w.pcOf lane + BitVec.ofNat 64 (8 * (len + 1))))) ∧
    (let o := f.id.toNat % 4
     sysReady c [(1, a, 2)] [] (some 1) [a, a + 1] → recFP c.g.record = true →
      (s.outputs.getD o Output.reset).ctx = c.g.ctx → c.w.releaseHeld c.live = false → o < s.outputs.length →
      ∃ (s' : State) (w : Warp) (q : Flight) (k : Commit),
        exec (.framec f) s = .next (({ c with s := s', w := w } : Cx).finish f.y) ∧
        { s' with outputs := s.outputs } = s ∧
        s'.outputs.getD o Output.reset = { (s.outputs.getD o Output.reset) with
          commits := (s.outputs.getD o Output.reset).commits ++ [k] } ∧
        (∀ j, j ≠ o → s'.outputs[j]? = s.outputs[j]?) ∧ k.grp = c.g.uid ∧ k.wid = c.w.wid ∧ k.flight = q.id ∧
        k.ctx = c.g.ctx ∧ k.addr = va ∧ w.flights = c.w.flights ++ [q] ∧ q.kind = .frame o ∧ q.counter = some 1 ∧
        { w with flights := c.w.flights, nextFlight := c.w.nextFlight, counters := c.w.counters } = c.w)

/-- TRAP raises software trap (0x40) and BKPT breakpoint (0x41), with the immediate as detail, after the slot (R355): with a
handler to enter, the trap record stands in the warp, its handler entry is due, and RTE will resume behind the slot (R397,
R398, R402, R403), unless a cause of the firmware route is to be delivered to the warp (R401); a debugger that is attached takes
BKPT and halts the context, whose save begins (R406, R418).  No register changes. -/
def TrapInstructions : Prop :=
  ∀ (s : State) (c : Cx) (f : SFields) (x : Ctx) (i : Instr) (code : Nat), cx s = some c → sysReady c [] [] none [] →
    s.ctx c.g.ctx = some x → x.phase = .running → c.w.mode = .user → c.w.retired = false → c.w.wid < 32 →
    (i, code) ∈ [(.trap f, 0x40), (.bkpt f, 0x41)] →
    let last : Bool := c.slot + 1 = c.run.words.length
    let halts : Prop := code = 0x41 ∧ x.debugger = true
    (∀ d ∈ c.w.causes, handlerCause d.code = true) → (halts ∨ s.handlerReady c.g = true) →
    ∃ (t : State) (w : Warp) (k : Cause) (y : Ctx), exec i s = .next t ∧ t.warp c.g.uid c.w.wid = some w ∧
      k.code = code ∧ k.reason = 0 ∧ k.prec = true ∧ k.src = 0 ∧ k.pc = c.run.pc ∧ k.slot = c.slot ∧ k.lanes = c.run.lanes ∧
      k.grp = c.run.lanes ∧ k.det = [f.imm.setWidth 32] ∧ (k.rslot, k.rnext) = (if last then (0, true) else (c.slot + 1, false)) ∧
      w.trapRec = trapWords k false c.g.col c.w.part c.w.wid (x.tseq + 1) ∧
      w.entering = (if halts then c.w.entering else some k) ∧
      (∀ l < 32, c.run.lanes.getLsbD l = true → w.waitOf l = .none ∧
        (if last then w.rslOf l = 0 ∧ w.pcOf l = codeAddr (c.run.pc + BitVec.ofNat 64 (8 * (c.run.words.length + 1)))
         else w.rslOf l = c.slot + 1 ∧ w.pcOf l = c.w.pcOf l)) ∧
      { w with pcs := c.w.pcs, rsl := c.w.rsl, came := c.w.came, wait := c.w.wait, yields := c.w.yields
               trapRec := c.w.trapRec, entering := c.w.entering, causes := c.w.causes, stash := c.w.stash } = c.w ∧
      (if halts then w.causes = [] ∧ w.stash = c.w.causes else w.causes = c.w.causes ∧ w.stash = c.w.stash) ∧
      t.ctx c.g.ctx = some y ∧ y.tseq = x.tseq + 1 ∧
      (if halts then y.halted = true ∧ y.phase = .saving true s.clock.toNat else y.halted = x.halted ∧ y.phase = x.phase) ∧
      t.mem = s.mem

/-- RTE of a handler restores what handler entry saved: PCs, masks, mask stack, waits, bundle, `sr.ctl` and fairness of the
threads that have not exited in it, and the mode in which it was entered (R356, R404); a group that stood inside its clause goes on
there, in the words that were decoded before the trap.  RPLY
re-issues the lanes of its log entry, and does nothing for an empty one (R356). -/
def HandlerReturn : Prop :=
  ∀ (s : State) (c : Cx) (f : SFields), cx s = some c → sysReady c [] [] none [] → c.w.mode ≠ .user →
    (∀ x, c.w.hframe = some x → ∃ (w : Warp) (r : Option Running), exec (.rte f) s = .next (({ c with w := w } : Cx).commit r) ∧
      w.mode = x.mode ∧ w.hframe = none ∧ w.curPc = x.curPc ∧ w.pcs = x.pcs ∧ w.live = (x.live &&& c.w.live) ∧ w.masks = x.masks ∧ w.stack = x.stack ∧
      w.parked = x.parked ∧ w.bundle = x.bundle ∧ w.ctl = x.ctl ∧ w.fair = x.fair ∧ w.cur = x.cur ∧ w.regs = c.w.regs ∧
      w.flags = c.w.flags ∧ w.gens = c.w.gens ∧ w.causes = x.kept ++ c.w.causes ∧
      (match r with
       | none => w.wait = x.wait ∧ w.rsl = x.rsl
       | some q => q.lanes = (x.trapGrp &&& c.w.live &&& x.live) ∧ q.idx = x.rslot ∧ q.grp = c.g.uid ∧ q.wid = c.w.wid ∧
           x.rnext = false ∧ q.header :: q.words = x.clause ∧ q.pc = x.pcs.getD (lowest q.lanes) 0 ∧
           ∀ l < 32, w.waitOf l = (if q.lanes.getLsbD l then .none else x.wait.getD l .none) ∧
             w.rslOf l = (if q.lanes.getLsbD l then x.rslot else x.rsl.getD l 0)) ∧
      ((x.rnext = true ∨ (x.trapRec.getD 0 0).getLsbD 16 = false) → r = none) ∧
      (x.rnext = false → (x.trapRec.getD 0 0).getLsbD 16 = true → x.trapGrp &&& c.w.live &&& x.live ≠ 0 → x.clause ≠ [] →
        r.isSome = true)) ∧
    (let i := f.imm.toNat % 8
     (c.w.logs.getD i none = none → exec (.rply f) s = .next (c.finish f.y)) ∧
     (∀ e g w, c.w.logs.getD i none = some e → s.replayParks c.g c.w e = false → (c.finish f.y).group c.g.uid = some g →
       g.warp c.w.wid = some w → exec (.rply f) s = .next ((c.finish f.y).replay g w i)))

/-- RDSR, WRSR, CLK, FLG and DIAG complete: what each special register reads as (R357), which values WRSR takes (R130, R357)
and how `sr.seed` restarts the generators (R129), the two clocks (R358), the monitor value (R360), flags cleared or tested in
the active lanes, once no result that sets flags is pending (R361); HARVEST in firmware mode waits behind its slot for the context's entries (R359).
Where it rests on the model's own choices, log entry 62 names them. -/
def Obligations.SpecialRegisters : Prop :=
  ∀ (s : State) (c : Cx) (f : SFields), cx s = some c →
    let d := f.d.toNat
    let a := f.a.toNat
    let i := f.imm.toNat
    let flags := (f.imm.setWidth 5 : BitVec 5)
    (sysReady c [(0, d, 1)] [] none [] → (c.w.mode = .user → f.id.toNat ≠ 6 ∧ f.id.toNat ≠ 7) →
      (f.id.toNat = 1 → c.w.flagsPending = false) → c.fits d (c.special f.id.toNat i).tag = true →
      c.Gives (exec (.rdsr f) s) f.y (fun w => c.Keeps w [d] [] ∧ c.Calm w ∧ c.Writes w .reg d (fun l r =>
        let lit := c.g.lit.isSome
        (f.id.toNat = 0 → r = c.w.ctl.setWidth 64) ∧ (f.id.toNat = 1 → r = (c.w.flagOf l).setWidth 64) ∧
        (f.id.toNat = 2 → r = c.w.bundle.setWidth 64) ∧
        (f.id.toNat = 3 → c.w.wid < 2 ^ 32 → c.g.gid < 2 ^ 32 → c.g.col < 192 → s.devid < 64 → i ≤ 6 →
          r.toNat = [l, c.w.wid, c.g.gid, c.g.col, c.g.col % 48, c.g.col / 48, s.devid].getD i 0) ∧
        (f.id.toNat = 4 → r = ((c.w.lvl.getD i []).getD (if levelVaries c.g.record lit i then l else lowest c.run.lanes) 0).setWidth 64) ∧
        (f.id.toNat = 5 → r = c.w.seed.setWidth 64) ∧ (f.id.toNat = 6 → r = (c.w.trapRec.getD i 0).setWidth 64) ∧
        (f.id.toNat = 7 → r = (c.w.logWord (i / 32) (i % 32)).setWidth 64) ∧
        (f.id.toNat = 8 → (c.bank i).cur.len < 512 → (c.bank i).cur.mode < 2 → (c.bank i).number < 65536 →
          r.toNat = (c.bank i).number * 65536 + (c.bank i).cur.mode * 512 + (c.bank i).cur.len)))) ∧
    (sysReady c [(1, a, 1)] [] none [a] → let v := c.w.rd a 0
      (v.toNat < 512 → 1 ≤ v.toNat % 8 → v.toNat % 8 ≤ 6 →
        exec (.wrsrCtl f) s = .next (({ c with w := { c.w with ctl := v } } : Cx).finish f.y)) ∧
      ((512 ≤ v.toNat ∨ v.toNat % 8 = 0 ∨ v.toNat % 8 = 7) → exec (.wrsrCtl f) s = .next (c.raise 1 8 c.live 0 [v])) ∧
      (∃ (s' : State) (w : Warp), exec (.wrsrSeed f) s = .next (({ c with s := s', w := w } : Cx).finish f.y) ∧
        { s' with fresh := s.fresh } = s ∧ { w with seed := c.w.seed, gens := c.w.gens } = c.w ∧ w.seed = v ∧
        (c.w.ctl.getLsbD 3 = false → ∀ l < 32,
          let x := v ^^^ (BitVec.ofNat 32 (l + 1) * 0x9E3779B9#32)
          w.gens.getD l 0 = if x = 0 then 1 else x))) ∧
    (sysReady c [(1, a, 1)] [] none [] → (∀ l < 32, c.live.getLsbD l = true → (c.w.rd a l).toNat < 32) →
      ∃ w : Warp, exec (.wrsrFlags f) s = .next (({ c with w := w } : Cx).finish f.y) ∧ { w with flags := c.w.flags } = c.w ∧
        ∀ l < 32, w.flagOf l = if c.live.getLsbD l then (c.w.rd a l).setWidth 5 else c.w.flagOf l) ∧
    (sysReady c [(0, d, 2)] [] none [] → c.fits d 0 = true → c.fits (d + 1) 0 = true →
      c.Gives (exec (.clk f) s) f.y (fun w => c.Keeps w [d, d + 1] [] ∧ c.Calm w ∧
        c.Writes w .pair d (fun _ r => r = if f.sub = 0 then s.clock else s.ftime))) ∧
    (sysReady c [(0, d, 1)] [] none [] → c.fits d 0 = true →
      c.Gives (exec (.diag f) s) f.y (fun w => c.Keeps w [d] [] ∧ c.Calm w ∧ c.Writes w .reg d (fun _ r =>
        let k := s.column c.col
        (i = 0 → r = (BitVec.ofInt 32 k.temp).setWidth 64) ∧
        (i = 1 → r.toNat = match k.vaultSeen with | .normal => 0 | .throttle => 1 | .retention => 2 | .lost => 3) ∧
        (i = 2 → r = (s.ring.getD (c.col / 4) 0).setWidth 64) ∧ (i = 3 → r = (s.milliVolt.getD (c.col / 48) 0).setWidth 64) ∧
        (i = 4 → r.toNat = min k.corrected 0xFFFFFFFF)))) ∧
    (sysReady c [] [] none [] → c.w.flagsPending = false →
      ∃ w : Warp, exec (.flgClr f) s = .next (({ c with w := w } : Cx).finish f.y) ∧ { w with flags := c.w.flags } = c.w ∧
        ∀ l < 32, w.flagOf l = if c.live.getLsbD l then c.w.flagOf l &&& ~~~flags else c.w.flagOf l) ∧
    (sysReady c [] [d % 8] none [] → c.w.flagsPending = false →
      ∃ w : Warp, exec (.flgTest f) s = .next (({ c with w := w } : Cx).finish f.y) ∧ { w with masks := c.w.masks } = c.w ∧
        (∀ m, m ≠ d % 8 → w.mask m = c.w.mask m) ∧
        if d % 8 = 0 then w.mask 0 = c.w.mask 0
        else ∀ l < 32, (w.mask (d % 8)).getLsbD l =
          if c.live.getLsbD l then decide (c.w.flagOf l &&& flags ≠ 0) else (c.w.mask (d % 8)).getLsbD l) ∧
    (c.w.flagsPending = true → (sysReady c [] [] none [] → exec (.flgClr f) s = .next s) ∧
      (sysReady c [] [d % 8] none [] → exec (.flgTest f) s = .next s)) ∧
    (sysReady c [(1, a, 1)] [] none [a] → c.w.mode = .firmware →
      exec (.harvest f) s = .next (c.parkAfter (.harvest (c.w.rd a 0).toNat c.run.words.length) f.y)) ∧
    (sysReady c [(1, a, 1)] [] none [a] → c.w.mode ≠ .firmware → exec (.harvest f) s = .next (c.raise 9 0 c.live 0 []))
/-! ### What comes about in a warp -/

/-- A PC group begins to issue (R42-R48, R78, R81, R106): in the partition's round robin the first warp at which something
comes about holds a PC group whose clause decodes; the partition then issues that clause for those of the group's threads that
stand at its lowest slot and wait for nothing, from that slot.  The warp has no cause to deliver and no yield to satisfy
(R101, R397), at a clause boundary the `WAIT` of the header is met, and the words are the code's.  Only the bits gathered
for the pages of the code (R222) and the counter of free values change beside the partition and the warp. -/
def ClauseStarts : Prop :=
  ∀ (s : State) (col part : Nat) (p : Partition) (g : Group) (w : Warp) (r : Running) (l : Nat)
    (before after : List (Group × Warp)),
    col < s.columns.length → (s.column col).parts[part]? = some p → p.running = none → (s.column col).stopped = false →
    s.roundRobin col part p.lastSlot = before ++ (g, w) :: after → (∀ x ∈ before, s.look x.1 x.2 = .skip) →
    s.look g w = .start r l → s.group g.uid = some g → g.warp w.wid = some w → FramesPresent s →
    (∃ (t : State) (v : Warp), exec (.clauseStart col part) s = .next t ∧
      (t.column col).parts[part]? = some { running := some r, lastSlot := w.slot } ∧
      (∀ q, q ≠ part → (t.column col).parts[q]? = (s.column col).parts[q]?) ∧
      { t.column col with parts := (s.column col).parts } = s.column col ∧ (∀ k, k ≠ col → t.column k = s.column k) ∧
      t.group g.uid = some (g.setWarp v) ∧ (∀ uid, uid ≠ g.uid → t.group uid = s.group uid) ∧
      v.cur = some (lowest (w.groupOf l)) ∧ { v with cur := w.cur, fair := w.fair } = w ∧
      (v.fair = w.fair ∨ v.fair = 0) ∧
      { t with groups := s.groups, columns := s.columns, tlb := s.tlb, fresh := s.fresh } = s) ∧
    w.ready l = true ∧ w.retired = false ∧ g.started = true ∧ w.entering = none ∧ w.causes = [] ∧ w.yields = [] ∧
    r.pc = w.pcOf l ∧ r.lanes = w.issueLanes l ∧ r.idx = w.issueSlot l ∧ r.grp = g.uid ∧ r.wid = w.wid ∧
    s.fetchWord g.ctx r.pc = .ok r.header ∧ s.fetchClause g.ctx r.pc r.header = .ok r.words ∧
    (r.idx = 0 → isHeader r.header = true →
      ∀ k < 8, (bits r.header 40 8).getLsbD k = true → w.counter k ≤ (bits r.header 36 4).toNat) ∧
    decodeClause w.mode.priv r.header r.words = none

/-- What the fetch finds: an empty partition whose first warp cannot have its code translated parks the PC group behind a
`KIND` 5 entry (R81, R413); a clause that decode refuses traps the group (R79, R106, R398). -/
def ClauseFaults : Prop :=
  ∀ (s : State) (col part : Nat) (p : Partition) (g : Group) (w : Warp) (l : Nat) (before after : List (Group × Warp)),
    (s.column col).parts[part]? = some p → p.running = none → (s.column col).stopped = false →
    s.roundRobin col part p.lastSlot = before ++ (g, w) :: after → (∀ x ∈ before, s.look x.1 x.2 = .skip) →
    (∀ va, s.look g w = .park l va → ∃ e : FaultEntry, e.kind = 5 ∧ e.acc = 2 ∧ e.va = va ∧ e.ctx = g.ctx ∧
      e.grp = g.uid ∧ e.wid = w.wid ∧
      exec (.clauseStart col part) s =
        .next ((s.updWarp g.uid w.wid (fun v => (v.stopAt (v.issueLanes l) (v.issueSlot l) .fetch).idle)).queueFault e)) ∧
    (∀ c, s.look g w = .fault l c →
      exec (.clauseStart col part) s = .next (s.deliverPrecise g.uid w.wid c) ∧ c.prec = true ∧ c.lanes = w.issueLanes l ∧
      (s.fetchWord g.ctx (w.pcOf l) = .error c.code → c.addr = w.pcOf l ∧ c.sv = true ∧ c.pc = w.pcOf l) ∧
      (∀ h ws, s.fetchWord g.ctx (w.pcOf l) = .ok h → s.fetchClause g.ctx (w.pcOf l) h = .ok ws →
        ∃ d, decodeClause w.mode.priv h ws = some d ∧ c.code = d.cause ∧ (d.cause ≠ 2 → c.reason = d.reason ∧ c.pc = w.pcOf l)))

/-- FAIRNESS_PERIOD, RESULT_WRITTEN and STORE_COMPLETION: after its period another PC group becomes current with a count of 0
(R48); a result stands in its registers and mask registers, its flags are raised, an enabled one becomes a cause, and its
counter falls (R98, R132, R134), as do the acknowledgements that come with it (R243); a store that is performed gives back its
counter and acknowledgements (R99, R243); while lanes of an operation stand in a log entry, its writes that have performed are
acknowledged and nothing else comes about (R243, R269).
Where it rests on the model's own choices, log entries 8, 38, 61, 84 name them. -/
def Obligations.ResultsAndStores : Prop :=
  ∀ (s : State) (g : Group) (w : Warp), s.group g.uid = some g → g.warp w.wid = some w →
    (recFair g.record ≤ w.fair → 2 ≤ w.readyGroups.length → s.issuing g w = false →
      ∃ v : Warp, exec (.fairnessPeriod g.uid w.wid) s = .next (s.setGroup (g.setWarp v)) ∧ v.fair = 0 ∧
        { v with cur := w.cur, fair := w.fair } = w ∧ ∃ l, v.cur = some l ∧ l ∈ w.readyGroups ∧
        let old := w.oldPc
        (old < w.pcOf l → ∀ k ∈ w.readyGroups, old < w.pcOf k → w.pcOf l ≤ w.pcOf k) ∧
        (¬ old < w.pcOf l → ∀ k ∈ w.readyGroups, ¬ old < w.pcOf k ∧ w.pcOf l ≤ w.pcOf k)) ∧
    (∀ f, w.flights.find? (fun x => x.id = f.id) = some f → s.canEnd g w f = true → f.kind = .result →
      ∃ v : Warp, exec (.resultWritten g.uid w.wid f.id) s = .next (s.setGroup (g.setWarp v)) ∧
        v.flights = w.flights.filter (fun x => x.id ≠ f.id) ∧ v.yields = w.yields.filter (fun y => y ≠ f.id) ∧
        (∀ k, f.counter = some k → v.counter k = w.counter k - 1) ∧ (∀ k, f.counter ≠ some k → v.counter k = w.counter k) ∧
        (∀ r, (∀ l x, Dest.vec r l x ∉ f.dests) → v.reg r = w.reg r) ∧
        (∀ m, (∀ l x, Dest.mask m l x ∉ f.dests) → v.mask m = w.mask m) ∧
        (∀ r l x, f.dests = [.vec r l x] → v.reg r = x) ∧
        (∀ r q l x y, f.dests = [.vec r l x, .vec q l y] → r ≠ q → v.reg r = x ∧ v.reg q = y) ∧
        (∀ m l x, f.dests = [.mask m l x] → m ≠ 0 → v.mask m = ((w.mask m &&& ~~~l) ||| (x &&& l))) ∧
        (∀ l < 32, v.flagOf l = w.flagOf l ||| f.flags.getD l 0) ∧
        ((∀ l < 32, f.flags.getD l 0 &&& w.trapEnables = 0) → v.causes = w.causes) ∧
        ((∃ l, l < 32 ∧ f.flags.getD l 0 &&& w.trapEnables ≠ 0) → ∃ c : Cause, v.causes = w.causes ++ [c] ∧
          c.code = 0x41 ∧ c.reason = 1 ∧ c.prec = false ∧ c.pc = f.pc ∧ c.slot = f.slot ∧
          let new (l : Nat) : Bool := f.flags.getD l 0 &&& ~~~(w.flagOf l) ≠ 0
          ((∃ l, l < 32 ∧ new l = true) → ∀ l < 32, c.lanes.getLsbD l = new l) ∧
          ((∀ l < 32, new l = false) → ∀ l < 32, c.lanes.getLsbD l = decide (f.flags.getD l 0 &&& w.trapEnables ≠ 0))) ∧
        (∀ a, a ∈ v.unack ↔ a ∈ w.unack ∧ a.flight ≠ some f.id) ∧
        { v with regs := w.regs, masks := w.masks, flags := w.flags, flights := w.flights, yields := w.yields
                 counters := w.counters, causes := w.causes, unack := w.unack } = w) ∧
    (∀ f sc, w.flights.find? (fun x => x.id = f.id) = some f → s.canEnd g w f = true → f.kind = .store sc ∨ f.kind = .records ∨ f.kind = .moved sc →
      ∃ v : Warp, exec (.storeCompletion g.uid w.wid f.id) s = .next (s.setGroup (g.setWarp v)) ∧
        v.flights = w.flights.filter (fun x => x.id ≠ f.id) ∧ (∀ k, f.counter = some k → v.counter k = w.counter k - 1) ∧
        (∀ a, a ∈ v.unack ↔ a ∈ w.unack ∧ a.flight ≠ some f.id) ∧
        { v with flights := w.flights, yields := w.yields, counters := w.counters, unack := w.unack } = w) ∧
    (∀ f, w.flights.find? (fun x => x.id = f.id) = some f → f.log.isSome = true →
      let u : Warp := { w with unack := w.unack.filter (fun a => a.flight ≠ some f.id) }
      exec (.resultWritten g.uid w.wid f.id) s = .next (s.setGroup (g.setWarp u)) ∧
        exec (.storeCompletion g.uid w.wid f.id) s = .next (s.setGroup (g.setWarp u))) ∧
    (∀ f va n k t, w.flights.find? (fun x => x.id = f.id) = some f → s.canEnd g w f = true → f.kind = .signal va n →
      (∀ a ∈ w.unack, a.flight = some f.id) → s.readToken g.ctx g.col va = .ok k → tokenBad k = false →
      (s.accessed g.ctx va 16).devWrite g.ctx g.col va (toBytes 8 ((fieldD k 0).toNat + n)) = .ok t → t.stop = none →
      t.warp g.uid w.wid = some w →
      ∃ (y : State) (v : Warp), exec (.storeCompletion g.uid w.wid f.id) s = .next y ∧ y.mem = t.mem ∧
        y.warp g.uid w.wid = some v ∧ v.flights = w.flights.filter (fun x => x.id ≠ f.id) ∧
        (∀ j, f.counter = some j → v.counter j = w.counter j - 1) ∧ v.unack = [] ∧ v.regs = w.regs ∧ v.masks = w.masks)

/-! ### Traps, watchdogs and the end of a warp -/

/-- A context has been terminated with a cause (R407, R408, R446): its diagnostic record holds a trap record of that cause
and the capture, its groups and launches are gone, and its queues have stopped with status 7. -/
def Ended (s t : State) (ctx code : Nat) (cap : Bytes) : Prop :=
  (∃ (y : Ctx) (r : List Word), t.ctx ctx = some y ∧ y.phase = .terminated ∧ y.diag = some (diagRecord ctx r cap) ∧
    (r.getD 0 0).toNat % 256 = code ∧ y.lits = [] ∧ y.bins = [] ∧ y.waitRecs = [] ∧ y.pass = none) ∧
  (∀ g ∈ t.groups, g.ctx ≠ ctx) ∧ (∀ g ∈ s.groups, g.ctx ≠ ctx → (∀ h ∈ s.groups, h.ctx = ctx → h.uid ≠ g.uid) → g ∈ t.groups) ∧
  (∀ l, l ∈ t.launches ↔ l ∈ s.launches ∧ l.ctx ≠ ctx) ∧
  (∀ q ∈ t.queues, q.ctx = ctx → q.cmds = [] ∧ q.mapped = false ∧ q.stat = BitVec.ofNat 32 (7 + code * 256 + 2 ^ 31)) ∧
  (∀ i, ∀ q ∈ t.faultq.getD i [], q.ctx ≠ ctx)

/-- A cause ends a context (R407): where no clause of it is being issued and none of its issued stores is to perform, it is
terminated at once; else it stops issuing, keeps the trap record with which it ends, and is terminated when the last of those is
over. -/
def Ends (s t : State) (ctx code : Nat) (cap : Bytes) : Prop :=
  (s.lasts ctx s.clock.toNat = false → Ended s t ctx code cap) ∧
  (s.lasts ctx s.clock.toNat = true → ∃ (y : Ctx) (r : List Word), t.ctx ctx = some y ∧ y.phase = .ending r cap s.clock.toNat ∧ y.issues = false ∧
    (r.getD 0 0).toNat % 256 = code ∧ t.mem = s.mem)

/-- A context that is ending comes to its end before the machine's next step once none of its clauses is being issued and its
issued stores have performed, and is left as it is until then (R407).  While a clause is being issued it lasts. -/
def EndingContexts : Prop :=
  ∀ (s : State) (x : Ctx) (r : List Word) (cap : Bytes) (since : Nat), s.ctx x.id = some x → x.phase = .ending r cap since →
    (s.contexts.map Ctx.id).Nodup → (∀ y ∈ s.contexts, ∀ q c n, y.phase = .ending q c n → y = x) →
    (s.lasts x.id since = false → Ended s s.endCtxs x.id ((r.getD 0 0).toNat % 256) cap) ∧
    (s.lasts x.id since = true → s.endCtxs = s) ∧ (s.inClause x.id = true → s.lasts x.id since = true) ∧
    (s.inClause x.id = false → since + 2 ^ 22 ≤ s.clock.toNat → s.lasts x.id since = false)

/-- TRAP_DELIVERY (R397, R401-R403, R407): between clauses the earliest cause of the handler route puts its trap record into
the warp, which then waits for its handler entry; a cause of the firmware route, or one without a handler to enter, ends the
context. -/
def TrapsDelivered : Prop :=
  ∀ (s : State) (g : Group) (w : Warp) (x : Ctx) (c : Cause), s.group g.uid = some g → g.warp w.wid = some w →
    s.ctx g.ctx = some x → x.phase.over = false → s.issuing g w = false → c ∈ w.causes → c.code < 256 →
    (let first (ok : Cause → Bool) : Prop := w.causes.find? ok = some c ∧ ∀ d ∈ w.causes, ok d = true →
       c.issued < d.issued ∨ (c.issued = d.issued ∧ c.slot ≤ d.slot)
     (handlerCause c.code = false → first (fun d => !handlerCause d.code) →
      ∃ t : State, exec (.trapDelivery g.uid w.wid) s = .next t ∧ Ends s t g.ctx c.code c.cap) ∧
     ((∀ d ∈ w.causes, handlerCause d.code = true) → first (fun _ => true) → w.live ≠ 0 → w.entering = none →
      (c.code ≠ 0x41 ∨ x.debugger = false) → (∀ h n, x.phase ≠ .saving h n) →
      (w.mode ≠ .handler → w.retired = false → s.handlerReady g = true →
        ∃ (t : State) (v : Warp), exec (.trapDelivery g.uid w.wid) s = .next t ∧ t.warp g.uid w.wid = some v ∧
          v.entering = some { c with clause := [] } ∧ v.trapRec = trapWords c false g.col w.part w.wid (x.tseq + 1) ∧ v.causes = w.causes.erase c ∧
          { v with entering := w.entering, trapRec := w.trapRec, causes := w.causes } = w ∧
          (t.ctx g.ctx).map Ctx.tseq = some (x.tseq + 1) ∧ t.mem = s.mem) ∧
      ((w.mode = .handler ∨ s.handlerReady g = false) →
        ∃ t : State, exec (.trapDelivery g.uid w.wid) s = .next t ∧ Ends s t g.ctx c.code [])))

/-- HANDLER_ENTRY (R403, R404): once the warp's accesses have performed, its thread state is saved in the handler frame, and
every live thread stands at the handler's entry clause in handler mode, as one PC group with an empty mask stack and a
bundle of 32.  Registers and flags stay.  Causes of the handler route wait for RTE (R401), the others go on to be delivered
(R397); the clause of a precise trap stays at hand (R404). -/
def HandlerEntered : Prop :=
  ∀ (s : State) (g : Group) (w : Warp) (c : Cause), s.group g.uid = some g → g.warp w.wid = some w → w.entering = some c →
    w.drained = true →
    ∃ (v : Warp) (f : Frame), exec (.handlerEntry g.uid w.wid) s = .next (s.setGroup (g.setWarp v)) ∧ v.hframe = some f ∧
      v.mode = .handler ∧ v.entering = none ∧ v.causes = w.causes.filter (fun k => !handlerCause k.code) ∧ v.bundle = 5 ∧ v.width = 32 ∧ v.fair = 0 ∧ v.stack = [] ∧
      v.parked = 0 ∧ v.live = w.live ∧ v.regs = w.regs ∧ v.masks = w.masks ∧ v.flags = w.flags ∧ v.trapRec = w.trapRec ∧
      (∀ l < 32, v.waitOf l = .none ∧ v.rslOf l = 0 ∧
        v.pcOf l = if w.live.getLsbD l then recTrapH g.record else w.pcOf l) ∧
      f.pcs = w.pcs ∧ f.live = w.live ∧ f.masks = w.masks ∧ f.stack = w.stack ∧ f.parked = w.parked ∧ f.wait = w.wait ∧
      f.rsl = w.rsl ∧ f.mode = w.mode ∧ f.curPc = w.curPc ∧ f.bundle = w.bundle ∧ f.ctl = w.ctl ∧ f.fair = w.fair ∧ f.cur = w.cur ∧ f.trapGrp = c.grp ∧
      f.rslot = c.rslot ∧ f.rnext = c.rnext ∧ f.clause = c.clause ∧ f.kept = w.causes.filter (fun k => handlerCause k.code)

/-- The watchdogs (R342, R397, R414-R416): a barrier whose phase has stood open for the period, or at which threads have waited that
long for the rest of their warp, ends the context with cause 0x30; another collective at which threads of a warp have waited that
long with 0x31, each counted from the first that parked there; cycles
in which a warp concerned stood parked on a vault column in retention are not counted (R231).  The cause is delivered at
the clause boundary of the warp that takes it, and its capture names the barrier, what it expects and what has arrived. -/
def WatchdogsEnd : Prop :=
  ∀ (s : State) (g : Group) (w : Warp) (x : Ctx), s.group g.uid = some g → g.warp w.wid = some w → w.wid < 32 →
    s.ctx g.ctx = some x → x.issues = true →
    let now := s.clock.toNat
    let traps (i : Instr) (code : Nat) (det : List Word) (P : Bytes → Prop) : Prop :=
      (∀ v ∈ g.warps, ∀ k ∈ v.causes, k.code ≠ code) →
      ∃ (t : State) (v : Warp) (k : Cause), exec i s = .next t ∧ g.warp v.wid = some v ∧ k.code = code ∧ k.prec = false ∧
        k.src = 3 ∧ k.det = det ∧ P k.cap ∧
        (s.issuing g v = true → t = s.setGroup (g.setWarp { v with causes := v.causes ++ [k] })) ∧
        (s.issuing g v = false → Ends s t g.ctx code k.cap)
    let head (bar exp arr : Nat) (ph : Word) (cap : Bytes) : Prop := cap.getD 0 0 = 0x30 ∧ (cap.getD 1 0).toNat = bar ∧
      (exp < 2 ^ 32 → field cap 4 4 = exp) ∧ (arr < 2 ^ 32 → field cap 8 4 = arr) ∧ fieldW cap 12 = ph
    (∀ bar, bar < 256 → (g.bar bar).exp ≠ 0 → recWatch g.record ≤ g.elapsed (fun _ => true) (g.bar bar).t0 now →
      traps (.barrierTimeout g.uid bar) 0x30
        [BitVec.ofNat 32 bar, BitVec.ofNat 32 (g.bar bar).exp, BitVec.ofNat 32 (g.bar bar).arr]
        (head bar (g.bar bar).exp (g.bar bar).arr (g.bar bar).ph)) ∧
    (∀ bar l since, bar < 256 → (g.bar bar).exp = 0 → l < 32 → w.live.getLsbD l = true → w.waitOf l = .barColl bar since →
      w.gathered l = false →
      (∀ v ∈ g.warps, ∀ k < 32, ∀ u, v.live.getLsbD k = true → v.waitOf k = .barColl bar u → v.gathered k = false → since ≤ u) →
      recWatch g.record ≤ g.elapsed (fun _ => true) since now →
      traps (.barrierTimeout g.uid bar) 0x30 [BitVec.ofNat 32 bar, 0, 0] (head bar 0 0 (g.bar bar).ph)) ∧
    (∀ l < 32,
     let op : Nat := match w.waitOf l with | .coll op _ => op | _ => 0xE6
     let due (k : Nat) : Prop := w.live.getLsbD k = true ∧ ((∃ op t, w.waitOf k = .coll op t) ∨ ∃ t, w.waitOf k = .round t) ∧
       recWatch g.record ≤ g.parkedFor w k now
     due l → (∀ k < l, ¬ due k) →
      traps (.collectiveTimeout g.uid w.wid) 0x31 [BitVec.ofNat 32 op] (fun cap => cap.getD 0 0 = 0x31 ∧ cap.getD 1 0 = 0xFF)) ∧
    (g.pauses = [] → (∀ p t, g.elapsed p t now = now - t) ∧ ∀ l, g.parkedFor w l now = now - w.firstPark (w.pcOf l) (w.rslOf l) now)

/-- A write to another module that stands unacknowledged for 2^22 cycles, of the warp or of an engine operation that it started,
gives the warp cause 0x50 at that address (R243); a write that waits on a translation of its own is not one of them (R269). -/
def UnacknowledgedWrite : Prop :=
  ∀ (s : State) (g : Group) (w : Warp) (a : Unack), s.group g.uid = some g → g.warp w.wid = some w →
    (w.unack.filter (s.unacknowledged g w) ++ ((g.ops.filter (fun o => o.wid = w.wid)).map EngineOp.sent).flatten).find?
      (fun a => a.since + 2 ^ 22 ≤ s.clock.toNat) = some a → (∀ c ∈ w.causes, c.code ≠ 0x50) →
    ∃ c : Cause, exec (.fabricAcknowledgementTimeout g.uid w.wid) s =
        .next (s.setGroup (g.setWarp { w with causes := w.causes ++ [c] })) ∧
      c.code = 0x50 ∧ c.prec = false ∧ c.src = 3 ∧ c.addr = a.addr

/-- The leaf of a page has taken the bits that its TLB entry gives it (R222). -/
def LeafTakes (s t : State) (x : TlbEntry) (drt acc : Bool) : Prop :=
  t.leaf x.ctx x.lan (offOf x.va) = (s.leaf x.ctx x.lan (offOf x.va)).map (fun e =>
    e ||| (if drt then 1#64 <<< 61 else 0) ||| (if acc then 1#64 <<< 60 else 0))

/-- DRT_ACC_WRITEBACK writes back each bit that a TLB entry has held for 2^20 cycles, and keeps the younger ones (R222).
HARVEST_ENTRIES_WRITTEN writes back every entry of the context that a HARVEST names, whose threads then go on behind it
(R359). -/
def GatheredBits : Prop :=
  ∀ s : State,
    (∀ ctx va,
      let mine (x : TlbEntry) : Bool := x.ctx = ctx && x.va = va
      let old (b : Option Nat) : Bool := b.any (fun c => c + 2 ^ 20 ≤ s.clock.toNat)
      let young (b : Option Nat) : Option Nat := b.filter (fun c => s.clock.toNat < c + 2 ^ 20)
      ∃ t : State, exec (.drtAccWriteback ctx va) s = .next t ∧ t.groups = s.groups ∧ t.mem = s.mem ∧ t.contexts = s.contexts ∧
        (∀ x, s.tlb.filter mine = [x] → LeafTakes s t x (old x.drt) (old x.acc)) ∧
        ∀ y, y ∈ t.tlb ↔ (y.drt.isSome = true ∨ y.acc.isSome = true) ∧
          ((y ∈ s.tlb ∧ mine y = false) ∨
            ∃ x ∈ s.tlb, mine x = true ∧ y = { x with drt := young x.drt, acc := young x.acc })) ∧
    (∀ (g : Group) (w : Warp) lane ctx n, s.group g.uid = some g → g.warp w.wid = some w → w.waitOf lane = .harvest ctx n →
      ∃ (t : State) (v : Warp), exec (.harvestEntriesWritten g.uid w.wid lane) s = .next t ∧
        t.tlb = s.tlb.filter (fun x => x.ctx ≠ ctx) ∧ t.mem = s.mem ∧ t.contexts = s.contexts ∧
        (∀ x, s.tlb.filter (fun x => x.ctx = ctx) = [x] → LeafTakes s t x x.drt.isSome x.acc.isSome) ∧
        t.warp g.uid w.wid = some v ∧ { v with pcs := w.pcs, rsl := w.rsl, wait := w.wait } = w ∧
        ∀ l < 32,
          (∀ k, w.waitOf l = .harvest ctx k → v.waitOf l = .none ∧ (w.rslOf l < k → v.pcOf l = w.pcOf l ∧ v.rslOf l = w.rslOf l) ∧
            (k ≤ w.rslOf l → v.pcOf l = codeAddr (w.pcOf l + BitVec.ofNat 64 (8 * (k + 1))) ∧ v.rslOf l = 0)) ∧
          ((∀ k, w.waitOf l ≠ .harvest ctx k) → v.waitOf l = w.waitOf l ∧ v.pcOf l = w.pcOf l ∧ v.rslOf l = w.rslOf l))

/-- WARP_RETIRE (R75): a warp without live threads, accesses and unacknowledged writes retires; the last one takes its group
with it, whose locks and place on the core are free, and whose launch counts one group less. -/
def WarpsRetire : Prop :=
  ∀ (s : State) (g : Group) (w : Warp), s.group g.uid = some g → g.warp w.wid = some w → w.live = 0 →
    (∀ f ∈ w.flights, ∃ k, f.kind = .engine k) → w.unack = [] → s.issuing g w = false → w.retired = false → g.regrp = none → g.scr.read (4160 * w.wid) 4 = [0, 0, 0, 0] →
    ((∃ v ∈ g.warps, v.wid ≠ w.wid ∧ v.retired = false) → ∃ (t : State) (h : Group) (v : Warp),
      exec (.warpRetire g.uid w.wid) s = .next t ∧ t.group g.uid = some h ∧ h.warp w.wid = some v ∧ v.retired = true ∧
      { v with retired := false } = w ∧ (∀ k, k ≠ w.wid → h.warp k = g.warp k) ∧ { t with groups := s.groups } = s) ∧
    ((∀ v ∈ g.warps, (v.wid ≠ w.wid → v.retired = true) ∧ v.causes = []) → g.ops = [] → g.session = none →
      s.submitting g = false → (∀ c ∈ s.contexts, c.pass = none) → s.stop = none → g.col < s.columns.length →
      (∀ l, s.launchOf g.launch = some l → l.next < l.total) →
      ∃ t : State, exec (.warpRetire g.uid w.wid) s = .next t ∧
        t.groups = s.groups.filter (fun h => h.uid ≠ g.uid) ∧ t.mem = s.mem ∧
        (∀ l, s.launchOf g.launch = some l → (t.launchOf g.launch).map Launch.alive = some (l.alive - 1)) ∧
        (∀ k ∈ (t.column g.col).locks, ∀ l, k = some l → l.grp ≠ g.uid) ∧ (t.column g.col).merge ≠ some g.uid ∧
        g.uid ∉ (t.column g.col).mergeWait)

/-! ### Placement, the Lamplighter and raster passes -/

/-- A warp as placement makes it (R55, R57, R60, R130, R337): in user mode, or in firmware mode for a context of the
firmware, at its entry clause, waiting for nothing, with masks, flags and counters 0, an empty stack and no result on its
way. -/
def PlacedWarp (w : Warp) (firm : Bool) (r : Bytes) (p0 wid : Nat) (live : Word) (bundle : Word) : Prop :=
  w.wid = wid ∧ w.part = (p0 + wid) % 8 ∧ w.mode = (if firm then .firmware else .user) ∧ w.ng = recNG r ∧ w.nu = recNU r ∧ w.acc = recAcc r ∧
  w.live = live ∧ w.started = live ∧ w.bundle = bundle ∧ w.ctl = 1 ∧ w.stack = [] ∧ w.parked = 0 ∧ w.flights = [] ∧
  w.retired = false ∧ w.causes = [] ∧ w.unack = [] ∧ w.yields = [] ∧ w.logs = List.replicate 8 none ∧ (∀ l < 32, w.pcOf l = recEntry r ∧ w.waitOf l = .none ∧ w.rslOf l = 0 ∧ w.flagOf l = 0) ∧
  (∀ m, 1 ≤ m → m ≤ 7 → w.mask m = 0) ∧ ∀ k < 8, w.counter k = 0

/-- GROUP_PLACEMENT puts the next group of the first launch in line (R50, R55, R57, R451), or a lit group of the lantern
(R60, R63), on a core that has room for it (R51): its warps go round the partitions, its threads know their level indices or
their records, its barriers have AUTO 0 (R338), and a group without Taper bindings starts (R52).  Where its record uses
codebooks, the banks of the core have been brought to it (R438).  That the group's scratchpad reads 0 is the model's choice (log
entry 2).  A group goes to the partition
`p0` where the core can hold it there; else the core takes another at which it can. -/
def GroupsPlaced : Prop :=
  ∀ (s : State) (col p0 : Nat), col < 192 → p0 < 8 → s.stop = none → (∀ g ∈ s.groups, g.uid ≠ s.nextGroup) →
    (∀ g ∈ s.groups, g.started = true) →
    (∀ l rest u, s.litFor col p0 = none → s.pullOrder = l :: rest → s.launchOf l.uid = some l → s.places l.ctx = true →
      l.next < l.total → coLevel l.record = none → l.checked = true → l.waited = [] →
      ({ s with fresh := s.fresh + 1 } : State).bindBanks col l.ctx l.record = .ok u → { u with
        columns := s.columns, tlb := s.tlb, ports := s.ports, nextTag := s.nextTag, fresh := s.fresh } = s →
      recBindings l.record = [] → l.homeOk l.next col = true → s.hasRoom col p0 (recW l.record) l.record = true →
      ∃ (t : State) (g : Group), exec (.groupPlacement col p0) s = .next t ∧ t.groups = s.groups ++ [g] ∧ t.columns = u.columns ∧
        (recCB l.record = false ∨ s.bankGroups col ≠ [] → u.columns = s.columns) ∧
        (recCB l.record = true → s.bankGroups col = [] → col < s.columns.length → recPreloads l.record = [] → u.column col =
          { (s.column col).emptyBanks with bankOwner := some (l.ctx, recCbpre l.record, recCbmask l.record) }) ∧
        g.uid = s.nextGroup ∧ t.nextGroup = s.nextGroup + 1 ∧ g.ctx = l.ctx ∧ g.launch = l.uid ∧ g.gid = l.next ∧ g.col = col ∧
        g.p0 = p0 ∧ g.record = l.record ∧ g.args = l.args ∧ g.lit = none ∧ g.started = true ∧ g.scrSize = recScr l.record ∧
        (∀ a, g.scr.get a = 0) ∧ g.absent = [] ∧ (∀ b ∈ g.bars, b.auto = false ∧ b.exp = 0 ∧ b.arr = 0 ∧ b.ph = 0 ∧ b.t0 = 0) ∧ g.wcount = recW l.record ∧ g.warps.length = recW l.record ∧
        (∀ (i : Nat) (w : Warp), g.warps[i]? = some w →
          let thread (k : Nat) : Nat := 32 * recW l.record * l.next + 32 * i + k
          PlacedWarp w (((s.ctx l.ctx).map Ctx.firmware).getD false) l.record p0 i (maskOf (fun k => thread k < recGrid l.record * recT l.record (recLevels l.record - 1)))
            (recBundle l.record) ∧
          ∀ n k, n < 8 → k < 32 → (w.lvl.getD n []).getD k 0 = levelIndex l.record n (thread k)) ∧
        (∃ x, t.launchOf l.uid = some x ∧ x.next = l.next + 1 ∧ x.alive = l.alive + 1) ∧ t.mem = s.mem) ∧
    (∀ ctx x c u, s.litFor col p0 = some (ctx, x) → s.ctx ctx = some c → c.phase = .running → x.gid ≠ 0 →
      s.bindBanks col ctx x.record = .ok u → { u with
        columns := s.columns, tlb := s.tlb, ports := s.ports, nextTag := s.nextTag, fresh := s.fresh } = s → s.launchOf 0 = none → recBindings x.record = [] → x.quad = false → x.recs.length ≤ 1024 →
      ∃ (t : State) (g : Group), exec (.groupPlacement col p0) s = .next t ∧ t.groups = s.groups ++ [g] ∧ t.columns = u.columns ∧
        g.uid = s.nextGroup ∧ g.ctx = ctx ∧ g.lit = some (x.node, x.key) ∧ g.gid = x.gid ∧ g.col = col ∧
        s.startPart col p0 x.warps ctx x.record = some g.p0 ∧
        (s.canHold col p0 x.warps ctx x.record = true → g.p0 = p0) ∧ (s.canHold col g.p0 x.warps ctx x.record = true) ∧
        g.started = true ∧ g.record = x.record ∧ g.args = x.args ∧ g.warps.length = (x.recs.length + 31) / 32 ∧
        (t.ctx ctx).map Ctx.lits = some (c.lits.erase x) ∧ t.mem = s.mem ∧
        ∀ (i : Nat) (w : Warp), g.warps[i]? = some w →
          PlacedWarp w c.firmware x.record g.p0 i (maskOf (fun k => 32 * i + k < x.recs.length)) w.bundle ∧
          ∀ k < 32, ∀ r, x.recs[32 * i + k]? = some r →
            (∀ j < recNG x.record + recNU x.record, j < r.words.length → w.rd j k = r.words.getD j 0) ∧
            (w.lvl.getD 0 []).getD k 0 = BitVec.ofNat 32 r.seq ∧ (w.lvl.getD 1 []).getD k 0 = x.key ∧
            (w.lvl.getD 2 []).getD k 0 = BitVec.ofNat 32 x.node ∧ w.help.getLsbD k = r.helper)

/-- TAPER_BINDING_COMPLETE: a binding that has run is no longer awaited, the lines that it fills are present, and with the last
one the group starts (R52, R333); a binding that only clears leaves its range of the scratchpad 0 and every other byte as it
was (R332). -/
def BindingsComplete : Prop :=
  ∀ (s : State) (g : Group) (n : Nat), s.group g.uid = some g → n ∈ g.bindings → s.places g.ctx = true → s.stop = none →
    g.coItem = none → g.started = false → (∀ l, s.launchOf g.launch = some l → l.waited = []) →
    let b := recBinding g.record n
    let ran (t : State) (h : Group) : Prop :=
      exec (.taperBindingComplete g.uid n) s = .next t ∧ t.group g.uid = some h ∧
      h.bindings = g.bindings.filter (fun k => k ≠ n) ∧ (h.started = true ↔ ∀ k ∈ g.bindings, k = n) ∧
      ∀ l, l ∈ h.absent ↔ l ∈ g.absent ∧
        ¬ (bindDoff b / 128 ≤ l ∧ l < bindDoff b / 128 + (bindBytes g.record b + 127) / 128)
    (∀ u, Unit.runBinding { s := s.draw.2, g, sent := [] } (s.column g.col) g.record b s.draw.1 = .ok u → u.s.stop = none →
      u.s.group g.uid = some g → u.s.launches = s.launches → { u.g with scr := g.scr } = g →
      ∃ (t : State) (h : Group), ran t h ∧ h.scr = u.g.scr ∧ t.mem = u.s.mem) ∧
    (bindXf b = 5 → bindDoff b + bindBytes g.record b ≤ g.scrSize → g.scrSize ≤ 2 ^ 20 →
      ∃ (t : State) (h : Group), ran t h ∧ t.mem = s.mem ∧
        ∀ a, h.scr.get a = if bindDoff b ≤ a ∧ a < bindDoff b + bindBytes g.record b then 0 else g.scr.get a)

/-- BIN_TIMER_LAPSE lights a bin that is full enough, old enough, or whose queue is full (R63): its oldest records leave the
bin as one group for the distributor, and LCNT counts them.  RECORD_FITS appends a waiting unit to its queue, in order, once
there is room and no unit waits that it may not overtake (R64-R66, R343).
Where it rests on the model's own choices, log entry 51 names them. -/
def Obligations.BinsLight : Prop :=
  ∀ (s : State) (x : Ctx) (n : Node) (node : Nat) (key : Word) (lan : Nat), s.ctx x.id = some x → x.nodes[node]? = some n →
    x.lights = true →
    (∀ b recs t, x.bins.find? (fun b => b.node = node && b.key = key && b.lan = lan) = some b → b.node = node →
      x.lightable s.clock.toNat b = true →
      let took := takeUnits (nodeQuad n.desc) (32 * nodeGw n.desc) b.recs
      s.readRecs x.id n.desc took.1 = .ok recs →
      s.devWrite x.id 0xFFFF (nodeBase n.desc + 8) (toBytes 8 (n.lcnt + took.1.length)) = .ok t → t.stop = none →
      ∃ (u : State) (y : Ctx) (l : Lit), exec (.binTimerLapse x.id node key lan) s = .next u ∧ u.mem = t.mem ∧
        took.1 ++ took.2 = b.recs ∧ lanesTaken (nodeQuad n.desc) took.1 ≤ 32 * nodeGw n.desc ∧
        (t.ctx x.id = some x → u.ctx x.id = some y) ∧ y.lits = x.lits ++ [l] ∧ l.recs = recs ∧ l.node = node ∧ l.key = b.key ∧
        l.lan = b.lan ∧ l.gid = n.litGroups % 2 ^ 32 ∧ l.record = n.record ∧ l.args = n.args ∧ l.litAt = s.clock.toNat ∧
        y.nodes = x.nodes.set node { n with lcnt := n.lcnt + took.1.length, litGroups := n.litGroups + 1 } ∧
        (∀ c ∈ y.bins, c.recs ≠ []) ∧
        (∀ c ∈ x.bins, ¬ (c.node = b.node ∧ c.key = b.key ∧ c.lan = b.lan) → c.recs ≠ [] → c ∈ y.bins)) ∧
    (∀ r t u, x.waitRecs.find? (fun r => r.node = node) = some r → n.queued + r.recs.length ≤ nodeCap n.desc →
      (∀ q ∈ x.waitRecs.takeWhile (· ≠ r), q.precedes r = false) →
      s.append x.id node r.key r.lan r.recs = .ok t → t.stop = none → t.ctx x.id = some u →
      (∀ b ∈ u.bins, ({ u with waitRecs := u.waitRecs.erase r } : Ctx).lightable t.clock.toNat b = false) → u.id = x.id →
      ∃ v : State, exec (.recordFits x.id node) s = .next v ∧ v.mem = t.mem ∧
        v.ctx x.id = some { u with waitRecs := u.waitRecs.erase r } ∧ u.waitRecs = x.waitRecs ∧
        u.nodes = x.nodes.set node { n with wcnt := n.wcnt + r.recs.length } ∧
        ∃ b ∈ u.bins, b.node = node ∧ b.key = r.key ∧ b.lan = r.lan ∧
          (b.recs.drop (b.recs.length - r.recs.length)).map (fun q => (q.seq, q.words)) =
            ((List.range r.recs.length).zip r.recs).map (fun q => (n.wcnt + q.1, q.2.words)))

/-- TRIANGLE_SETUP sets up the triangles of the oldest position block and bins each to the tiles that it meets (R369, R370,
R374); it culls those without area, on the culled side, or with a vertex that is not finite or nearer than WNEAR. -/
def TrianglesSetUp : Prop :=
  ∀ (s : State) (c : Ctx) (p : Pass) (x : Submission) (rest : List Submission) (i : Inst) (k : Clus) (vs : List (Dword × Nat)),
    s.ctx c.id = some c → c.pass = some p → p.subs = x :: rest → blockBad p.desc x.block = false →
    readGeometry (s.devFetch c.id) p.desc (field x.block 4 4) (field x.block 8 4) [] = .ok ((i, k), vs) →
    let view := field x.block 0x0C 1
    let v := p.views.getD view []
    let pos (j : Nat) : List Word := (List.range 4).map (fun a => fieldW x.block (0x40 + 16 * j + 4 * a))
    let tri (j : Nat) (t : Nat × Nat × Nat) : Option TriWork :=
      setupTriangle p.desc v [pos t.1, pos t.2.1, pos t.2.2]
        (BitVec.ofNat 64 (field x.block 4 4 * 2 ^ 40 + field x.block 8 4 * 2 ^ 12 + j * 16 + view)) view
    (∃ (t : State) (q : Pass), exec (.triangleSetup c.id) s = .next t ∧ t.ctx c.id = some { c with pass := some q } ∧
      t = (s.accessedAll c.id vs).setPass c.id q ∧ q.subs = rest ∧ q.submitted = p.submitted + k.tris.length ∧
      q.culled = p.culled + ((List.range k.tris.length).zip k.tris).countP (fun y => (tri y.1 y.2).isNone) ∧
      (∀ w, w ∈ q.work ↔ w ∈ p.work ∨ ∃ j t u, k.tris[j]? = some t ∧ tri j t = some u ∧
        { w with tile := u.tile } = u ∧ w.tile ∈ tilesOf p.desc v u) ∧
      { q with subs := p.subs, work := p.work, submitted := p.submitted, culled := p.culled } = p) ∧
    (∀ a b e : Int × Int × Word, ∀ pa pb pe id, setupVertex (passWnear p.desc) v pa = some a →
      setupVertex (passWnear p.desc) v pb = some b → setupVertex (passWnear p.desc) v pe = some e →
      let area := (b.1 - a.1) * (e.2.1 - a.2.1) - (b.2.1 - a.2.1) * (e.1 - a.1)
      let front : Prop := if passFpos p.desc = true then 0 < area else area < 0
      (setupTriangle p.desc v [pa, pb, pe] id view = none ↔
        area = 0 ∨ (passCull p.desc = 1 ∧ ¬ front) ∨ (passCull p.desc = 2 ∧ front))) ∧
    (∀ pa, (∃ z ∈ pa, (f32 z).finite = false) ∨ FVal.cmp (f32 (pa.getD 3 0)) (f32 (passWnear p.desc)) = some (-1) →
      setupVertex (passWnear p.desc) v pa = none)

/-- TILE_RASTERISE in a tile that is in L2 (R371-R373): a sample of the tile takes a triangle's depth and identifier when the
triangle covers it inside its view, its depth lies in [0, 1], and it is nearer, or as near with the smaller identifier;
every other sample stays, and the changed ones are counted. -/
def TilesRasterised : Prop :=
  ∀ (s : State) (c : Ctx) (p : Pass) (j : Nat) (w : TriWork) (x : STile), s.ctx c.id = some c → c.pass = some p →
    p.work[j]? = some w → p.tile w.tile = some x → x.resident = true → (s.column x.slice).sliceUp = true →
    let d := p.desc
    let v := p.views.getD w.view []
    let n := passS d
    let px (i : Nat) : Nat := 32 * (x.index % passTW d) + i / n % 32
    let py (i : Nat) : Nat := 32 * (x.index / passTW d) + i / n / 32
    let o (i : Nat) : Nat × Nat := sampleAt (passSlog d) (i % n)
    let inView (i : Nat) : Bool := viewX v ≤ px i && px i < viewX v + viewW v && viewY v ≤ py i && py i < viewY v + viewH v
    let inBox (i : Nat) : Bool := minInt w.x ≤ 256 * (px i : Int) + 255 && 256 * (px i : Int) ≤ maxInt w.x &&
      minInt w.y ≤ 256 * (py i : Int) + 255 && 256 * (py i : Int) ≤ maxInt w.y
    let depth (i : Nat) : Option Word := w.depthAt (256 * (px i : Int) + 16 * (o i).1) (256 * (py i : Int) + 16 * (o i).2)
    let won (i : Nat) : Option Word := (depth i).filter (fun z => inView i && inBox i && depthIn z &&
      better (passDfn d) z (x.sample (passDclr d) i).1 w.id (x.sample (passDclr d) i).2)
    ∃ (t : State) (q : Pass) (y : STile), exec (.tileRasterise c.id j) s = .next t ∧
      t.ctx c.id = some { c with pass := some q } ∧ { t with contexts := s.contexts } = s ∧ q.work = p.work.eraseIdx j ∧
      q.tile x.index = some y ∧ (∀ k, k ≠ x.index → q.tile k = p.tile k) ∧
      (∀ i < 1024 * n, y.sample (passDclr d) i = match won i with
        | some z => (z, w.id)
        | none => x.sample (passDclr d) i) ∧
      y.state = x.state ∧ y.handle = x.handle ∧
      q.changed = p.changed + (List.range (1024 * n)).countP (fun i => (won i).isSome)

/-- PASS_CLOSE_EFFECT (R367, R376): with its launches, blocks and triangles done, the tiles in RASTER become CLOSED; when every
tile is RELEASED, the status record is written, the pass is gone and its PASSCLOSE completes. -/
def PassesClose : Prop :=
  ∀ (s : State) (c : Ctx) (p : Pass), s.ctx c.id = some c → c.pass = some p → p.closing ≠ [] → p.subs = [] → p.work = [] →
    (∀ l ∈ s.launches, l.ctx = c.id → recPass l.record = 0) →
    (p.closed = false → ∃ (t : State) (q : Pass), exec (.passCloseEffect c.id) s = .next t ∧
      t.ctx c.id = some { c with pass := some q } ∧ { t with contexts := s.contexts } = s ∧ q.closed = true ∧
      q.tiles = p.tiles.map (fun x => if x.state = .raster then { x with state := .closed } else x) ∧
      { q with closed := p.closed, tiles := p.tiles } = p) ∧
    (∀ q i u, p.closed = true → (∀ x ∈ p.tiles, x.state = .released) → p.closing = [(q, i)] →
      s.devWrite c.id 0xFFFF (passStat p.desc)
        (toBytes 8 p.submitted ++ toBytes 8 p.changed ++ toBytes 4 p.spills ++ toBytes 4 p.reloads ++ toBytes 4 p.culled ++
          toBytes 4 ((if p.lost then 1 else 0) + (if p.refused then 2 else 0))) = .ok u →
      ((u.updCtx c.id (fun x => { x with pass := none })).cmdDone q i).stop = none →
      exec (.passCloseEffect c.id) s = .next ((u.updCtx c.id (fun x => { x with pass := none })).cmdDone q i))

/-- CLASSIFY of a CLOSED tile (R380-R382): it becomes CLASSIFYING and sends one unit of four records for each quad and each
identifier that a sample of the quad holds, in ascending order; a record names the samples that hold the identifier, its
pixel, the depth of the first such sample and the tile's handle, and a pixel that holds none is a helper. -/
def TilesClassified : Prop :=
  ∀ (s : State) (c : Ctx) (p : Pass) (x : STile) (ks : List (Dword × Word)) (vs : List (Dword × Nat)), s.ctx c.id = some c →
    c.pass = some p → p.tile x.index = some x → x.state = .closed → x.lost = false → c.phase = .running →
    (s.column x.slice).sliceUp = true → (∀ y ∈ s.contexts, y.waitRecs = []) →
    let d := p.desc
    let units := ((List.range 256).map (fun q => (quadIds d x (q % 16) (q / 16)).map (fun id => (q, id)))).flatten
    let material (id : Dword) : Rd (Dword × Word) := do
      let y ← readGeometry (s.devFetch c.id) d (idInst id) (idClus id)
      pure (id, y.2.mat)
    (((units.map Prod.snd).eraseDups).mapM material [] = .ok (ks, vs) →
      let sent := ((s.setPass c.id (p.setTile { x with state := .classifying })).accessedAll c.id vs).sendUnits c.id (units.map (fun u =>
        { node := passMnode d, key := ((ks.find? (fun k => k.1 = u.2)).map Prod.snd).getD 0, lan := lanternOf (tileHome x.index)
          recs := quadUnit d x (u.1 % 16) (u.1 / 16) u.2, from' := 0, flight := none, tile := some x.index }))
      sent.stop = none →
      exec (.classify c.id x.index) s = .next (sent.releaseTiles c.id)) ∧
    (∀ qx qy, qx < 16 → qy < 16 →
      (quadIds d x qx qy).Pairwise (fun a b => a < b) ∧
      ∀ id, id ∈ quadIds d x qx qy ↔ id ≠ emptyId ∧ ∃ i k, i < 4 ∧ k < passS d ∧
        (x.sample (passDclr d) (((2 * qy + i / 2) * 32 + 2 * qx + i % 2) * passS d + k)).2 = id) ∧
    (∀ id px py k, px < 32 → py < 32 → k < passS d →
      let r := pixelRecord d x id px py
      let held (k : Nat) : Prop := (x.sample (passDclr d) ((py * 32 + px) * passS d + k)).2 = id
      ((r.words.getD 0 0).getLsbD k = true ↔ held k) ∧ (r.helper = true ↔ ∀ m < passS d, ¬ held m) ∧
      r.words.length = 16 ∧ (x.handle < 4096 → (r.words.getD 5 0).toNat = x.handle * 2 ^ 20) ∧
      (held k → (∀ m < k, ¬ held m) → r.words.getD 4 0 = (x.sample (passDclr d) ((py * 32 + px) * passS d + k)).1))

/-! ### Faults, blocks, queues and the scheduler -/

/-- FAULT_QUEUE_ROOM lets the oldest waiting fault into its queue, with the next sequence number (R409, R410). -/
def FaultsEnter : Prop :=
  ∀ (s : State) (lan : Nat) (e : FaultEntry) (rest : List FaultEntry), lan < 4 → s.faultq.length = 4 →
    s.faultWait.length = 4 → s.faultSeq.length = 4 → lanOf e.va = lan → s.faultWait.getD lan [] = e :: rest →
    (s.faultq.getD lan []).length < Config.faultEntries →
    (∀ x ∈ s.faultq.getD lan [] ++ rest, x.same e = false) →
    ∃ t : State, exec (.faultQueueRoom lan) s = .next t ∧ t.faultWait.getD lan [] = rest ∧
      t.faultq.getD lan [] = s.faultq.getD lan [] ++ [{ e with seq := s.faultSeq.getD lan 0 }] ∧
      t.faultSeq.getD lan 0 = (s.faultSeq.getD lan 0 + 1) % 2 ^ 32 ∧
      { t with faultq := s.faultq, faultWait := s.faultWait, faultSeq := s.faultSeq } = s

/-- FAULT_SERVICE (R411-R413, R478, R480).  An entry whose address is mapped is replayed: a clause whose fetch was parked is
fetched again, also after the return of a handler that has interrupted the wait, an element of an engine is parked no more.  An address without a backing-map entry goes to the host, by
interrupt vector 1.  An access that the backing map forbids ends its context with translation (0x10) at the warp's clause
boundary (R397, R407).  Otherwise a page of
the pool, cleared, is mapped with the permissions of the backing map, and the entry is replayed. -/
def FaultsServed : Prop :=
  ∀ (s : State) (lan : Nat) (e : FaultEntry) (c : Ctx), s.nextEntry lan = some e → s.ctx e.ctx = some c → lan < s.faultq.length →
    FramesPresent s →
    let covered : Prop := ∃ x, s.leaf c.id lan (offOf e.va) = some x ∧ leafValid x = true
    let gone (t : State) : Prop := ∀ x, x ∈ t.faultq.getD lan [] ↔ x ∈ s.faultq.getD lan [] ∧ x.seq ≠ e.seq
    (covered → e.kind = 5 → ∀ g w, s.group e.grp = some g → g.warp e.wid = some w →
      ∃ (t : State) (v : Warp), exec (.faultService lan) s = .next t ∧ gone t ∧ t.warp e.grp e.wid = some v ∧
        { v with wait := w.wait, hframe := w.hframe } = w ∧ (∀ l, v.waitOf l = if w.waitOf l = .fetch then .none else w.waitOf l) ∧
        (w.hframe = none → v.hframe = none) ∧
        ∀ f, w.hframe = some f → ∃ f', v.hframe = some f' ∧ { f' with wait := f.wait } = f ∧
          ∀ l, f'.wait.getD l .none = if f.wait.getD l .none = .fetch then .none else f.wait.getD l .none) ∧
    (covered → (e.kind = 1 ∨ e.kind = 2) → ∀ g, s.group e.grp = some g →
      ∃ (t : State) (h : Group), exec (.faultService lan) s = .next t ∧ gone t ∧ t.group e.grp = some h ∧
        ∀ o ∈ h.ops, o.slot = e.wslot → ∀ p ∈ o.parked, p.index ≠ e.idx) ∧
    (¬ covered → e.stat = 0 → c.backing e.va = none →
      ∃ t : State, exec (.faultService lan) s = .next t ∧ t.irqc = s.irqc ||| 2 ∧
        t.faultq.getD lan [] = (s.faultq.getD lan []).map (fun x => if x.seq = e.seq then { x with stat := 2 } else x) ∧
        { t with irqc := s.irqc, faultq := s.faultq } = s) ∧
    (∀ flags, ¬ covered → e.stat = 0 → c.backing e.va = some flags → e.kind = 3 →
      (e.acc % 2 = 1 ∧ flags % 2 = 0) ∨ (2 ≤ e.acc ∧ flags / 2 % 2 = 0) →
      ∀ g w, s.group e.grp = some g → g.warp e.wid = some w → g.ctx = e.ctx → c.phase.over = false →
      ∃ t : State, exec (.faultService lan) s = .next t ∧ (s.issuing g w = false → Ends (s.dropEntry lan e.seq) t e.ctx 0x10 []) ∧
        (s.issuing g w = true → gone t ∧ ∃ (v : Warp) (k : Cause), t.warp e.grp e.wid = some v ∧ v.causes = w.causes ++ [k] ∧
          k.code = 0x10 ∧ k.prec = false ∧ { v with causes := w.causes } = w)) ∧
    (∀ flags page rest u, ¬ covered → e.stat = 0 → c.backing e.va = some flags →
      ¬ ((e.acc % 2 = 1 ∧ flags % 2 = 0) ∨ (2 ≤ e.acc ∧ flags / 2 % 2 = 0)) → flags / 4 % 2 = 0 →
      s.pools.getD lan [] = page :: rest →
      ({ s with pools := s.pools.set lan rest, mem := s.mem.clear (gddrKey lan page.toNat) 65536 } : State).install c
        (e.va &&& ~~~0xFFFF#64) (demandLeaf flags page) = some u → e.kind = 5 → u.stop = none →
      exec (.faultService lan) s = .next ((u.dropEntry lan e.seq).updWarp e.grp e.wid Warp.refetch) ∧
      (∀ a, gddrKey lan page.toNat ≤ a → a < gddrKey lan page.toNat + 65536 → u.mem.get a = 0) ∧
      (page.toNat % 65536 = 0 → page.toNat < 2 ^ 54 →
        let d := demandLeaf flags page
        leafValid d = true ∧ entLoc d = 0 ∧ entSz d = 0 ∧ entFrame d = page.toNat ∧ (entWR d = true ↔ flags % 2 = 1) ∧
          (entEX d = true ↔ flags / 2 % 2 = 1)))

/-- BLOCK_MOVE takes a block from the vault to the pool or back, to a free place of its context, with its bytes and their poison;
its name goes on naming it, and every byte outside its new place is as it was (R226, R259). -/
def BlocksMove : Prop :=
  ∀ (s : State) (c : Ctx) (b : Storage) (dest : BlockPlace), s.ctx c.id = some c →
    c.storages.find? (fun x => x.id = b.id) = some b → dest ∈ c.freePlaces → inVault b.place ≠ inVault dest →
    (∀ p ∈ [b.place, dest], ∀ col base, p = .vault col base → (s.column col).vault = .normal ∨ (s.column col).vault = .throttle) →
    s.mem.wf = true → placeKey b.place % 32 = 0 → placeKey dest % 32 = 0 →
    (placeKey b.place + 16384 ≤ placeKey dest ∨ placeKey dest + 16384 ≤ placeKey b.place) →
    ∃ (t : State) (d : Ctx), exec (.blockMove c.id b.id dest) s = .next t ∧ t.ctx c.id = some d ∧
      { d with storages := c.storages } = c ∧ d.storages = c.storages.map (fun x => if x.id = b.id then { x with place := dest } else x) ∧
      { t with mem := s.mem, contexts := s.contexts } = s ∧ t.mem.wf = true ∧
      (∀ i < 16384, t.mem.get (placeKey dest + i) = s.mem.get (placeKey b.place + i) ∧
        t.mem.poisoned (placeKey dest + i) 1 = s.mem.poisoned (placeKey b.place + i) 1) ∧
      ∀ a, ¬ (placeKey dest ≤ a ∧ a < placeKey dest + 16384) → t.mem.get a = s.mem.get a

/-- The service of faults, and the moves of blocks that the device makes on its own.
Where it rests on the model's own choices, log entries 16, 42, 74, 106 name them. -/
def Obligations.FaultsAndBlocks : Prop := FaultsEnter ∧ FaultsServed ∧ BlocksMove ∧ GatheredBits

/-- The next command of a queue without a command under way may start, and stands in the ring (R441-R444). -/
def Waiting (s : State) (q : Queue) (op : Nat) (b : Bytes) : Prop :=
  s.queueOf q.qid = some q ∧ s.queueRuns q = true ∧ q.cmds = [] ∧ s.devRead q.ctx 0xFFFF (q.place q.startPtr) 64 = .ok b ∧
    field b 0 1 = op ∧ cmdBad b = false ∧ FramesPresent s

/-- The machine with that command read and started. -/
def Begun (s : State) (q : Queue) (b : Bytes) : State :=
  (s.accessed q.ctx (q.place q.startPtr) 64).updQueue q.qid (fun r => { r with
    startPtr := r.startPtr + 1
    cmds := r.cmds ++ [{ index := q.startPtr.toNat, op := field b 0 1, data := b, launch := none, done := false }] })

/-- A queue after its command has retired: RPTR and the start pointer have moved on by one (R442). -/
def RetiredOne (t : State) (q : Queue) : Prop :=
  ∃ r, t.queueOf q.qid = some r ∧ r.rptr = q.rptr + 1 ∧ r.startPtr = q.startPtr + 1 ∧ r.cmds = []

/-- DRAIN behind completed commands, a WAITTOK whose token has reached its count, and a SIGNAL complete at once (R443, R447,
R448); a WAITTOK whose token has not waits, and WAITTOK_SATISFIED completes it later.  A command that breaks R443, and one
whose token is unreadable, stop the queue with status 5 (R446). -/
def TokenCommands : Prop :=
  ∀ (s : State) (q : Queue) (b : Bytes),
    (Waiting s q 7 b → ∃ t, exec (.drain q.qid) s = .next t ∧ RetiredOne t q) ∧
    (∀ k, Waiting s q 2 b → s.readToken q.ctx 0xFFFF (fieldD b 8) = .ok k → tokenBad k = false →
      (field b 0x10 8 ≤ field k 0 8 → ∃ t, exec (.waittok q.qid) s = .next t ∧ RetiredOne t q) ∧
      (field k 0 8 < field b 0x10 8 → exec (.waittok q.qid) s = .next ((Begun s q b).accessed q.ctx (fieldD b 8) 16))) ∧
    (∀ k t, Waiting s q 3 b → s.readToken q.ctx 0xFFFF (fieldD b 8) = .ok k → tokenBad k = false →
      (Begun s q b).addToken q.ctx 0xFFFF (fieldD b 8) (field b 0x10 8) true = .ok t →
      ∃ u, exec (.signal q.qid) s = .next u ∧ RetiredOne u q ∧ ∃ r : State,
        ((Begun s q b).accessed q.ctx (fieldD b 8) 16).devWrite q.ctx 0xFFFF (fieldD b 8) (toBytes 8 (field k 0 8 + field b 0x10 8)) = .ok r ∧
        r.devWrite q.ctx 0xFFFF (fieldD b 8 + 8) [6] = .ok t) ∧
    (∀ k c x, s.queueOf q.qid = some q → q.cmds = [c] → c.op = 2 → c.done = false → q.stopped = false →
      s.ctx q.ctx = some x → x.issues = true → FramesPresent s → s.readToken q.ctx 0xFFFF (fieldD c.data 8) = .ok k →
      tokenBad k = false → field c.data 0x10 8 ≤ field k 0 8 →
      ∃ t r, exec (.waittokSatisfied q.qid) s = .next t ∧ t.queueOf q.qid = some r ∧ r.rptr = q.rptr + 1 ∧ r.cmds = []) ∧
    (s.queueOf q.qid = some q → s.queueRuns q = true → q.cmds = [] → FramesPresent s →
      s.devRead q.ctx 0xFFFF (q.place q.startPtr) 64 = .ok b → cmdBad b = true →
      ∀ i ∈ [Instr.launch q.qid, .waittok q.qid, .signal q.qid, .nodes q.qid, .passopen q.qid, .passclose q.qid, .drain q.qid],
        ∃ t r, exec i s = .next t ∧ t.queueOf q.qid = some r ∧ r.rptr = q.rptr + 1 ∧
          (r.stat = 0x80000005 ∨ ((t.ctx q.ctx).map Ctx.phase = some .terminated ∧ r.stat.getLsbD 31 = true)))

/-- LAUNCH reads its record and makes a launch whose groups may be placed from then on: ⌈GRID × T / 32 W⌉ of them, none placed
(R55, R436, R443, R444); a record that R436 refuses stops the queue with its status (R446).  NODES installs a node table
with every count 0 (R61, R65, R445).  PASSOPEN opens a pass over its views, PASSCLOSE makes it close (R365-R367). -/
def RecordCommands : Prop :=
  ∀ (s : State) (q : Queue) (b : Bytes) (x : Ctx), s.ctx q.ctx = some x → x.id = q.ctx →
    (∀ u r a, Waiting s q 1 b → (Begun s q b).readRecord x (fieldD b 8) false = .ok u r a → u.stop = none →
      ∃ (t : State) (l : Launch), exec (.launch q.qid) s = .next t ∧ t.launches = u.launches ++ [l] ∧ l.uid = u.nextLaunch ∧
        t.nextLaunch = u.nextLaunch + 1 ∧ { t with launches := u.launches, nextLaunch := u.nextLaunch } = u ∧
        l.ctx = q.ctx ∧ l.qid = q.qid ∧ l.cmd = q.startPtr.toNat ∧ l.token = fieldD b 0x10 ∧ l.lrec = fieldD b 8 ∧
        l.record = r ∧ l.args = a ∧ l.next = 0 ∧ l.alive = 0 ∧ l.runtime = 0 ∧ l.checked = false ∧
        l.total = (recGrid r * recT r (recLevels r - 1) + 32 * recW r - 1) / (32 * recW r)) ∧
    (∀ u st k, Waiting s q 1 b → (Begun s q b).readRecord x (fieldD b 8) false = .bad u st k → FramesPresent u →
      u.ctx q.ctx ≠ none → u.queueOf q.qid = (Begun s q b).queueOf q.qid →
      ∃ t r, exec (.launch q.qid) s = .next t ∧ t.queueOf q.qid = some r ∧ r.rptr = q.rptr + 1 ∧
        (r.stat = BitVec.ofNat 32 (st + k * 2 ^ 8 + 2 ^ 31) ∨ (t.ctx q.ctx).map Ctx.phase = some .terminated)) ∧
    (∀ d u ns v, Waiting s q 4 b → s.devRead q.ctx 0xFFFF (fieldD b 8) (32 * field b 0x10 4) = .ok d →
      ((Begun s q b).accessed q.ctx (fieldD b 8) (32 * field b 0x10 4)).readNodes x ((List.range (field b 0x10 4)).map (fun i => (d.drop (32 * i)).take 32)) = .ok (u, ns) →
      ((ns.map (fun n => recEntry n.record)).eraseDups).length = field b 0x10 4 → (∀ k ∈ x.bins, k.recs = []) →
      ns.foldl (fun (acc : Dev State) n => match acc with
        | .ok w => w.devWrite q.ctx 0xFFFF (nodeBase n.desc) (List.replicate 64 0)
        | r => r) (.ok u) = .ok v → FramesPresent v →
      ∃ t, exec (.nodes q.qid) s = .next t ∧
        ∀ y, v.ctx q.ctx = some y → ∃ z, t.ctx q.ctx = some z ∧ z.nodes = ns) ∧
    (∀ d vb n, Waiting s q 5 b → s.devRead q.ctx 0xFFFF (fieldD b 8) 64 = .ok d → passBad d = false →
      x.nodes[passMnode d]? = some n → nodeQuad n.desc = true → x.pass = none →
      s.devRead q.ctx 0xFFFF (passViews d) (128 * passNView d) = .ok vb →
      let views := (List.range (passNView d)).map (fun i => (vb.drop (128 * i)).take 128)
      (∀ v ∈ views, viewBad d v = false) →
      ∃ t, exec (.passopen q.qid) s = .next t ∧ RetiredOne t q ∧
        ((t.ctx q.ctx).map Ctx.phase = some .terminated ∨ ∃ p, (t.ctx q.ctx).bind Ctx.pass = some p ∧ p.addr = fieldD b 8 ∧
          p.desc = d ∧ p.views = views ∧ p.openedAt = s.clock.toNat ∧ p.closing = [] ∧ p.tiles = [] ∧ p.subs = [] ∧ p.work = [] ∧
          p.submitted = 0 ∧ p.changed = 0 ∧ p.spills = 0 ∧ p.reloads = 0 ∧ p.culled = 0)) ∧
    (∀ p, Waiting s q 6 b → x.pass = some p →
      ∃ t, exec (.passclose q.qid) s = .next t ∧
        t.ctx q.ctx = some { x with pass := some { p with closing := p.closing ++ [(q.qid, q.startPtr.toNat)] } } ∧
        { t with contexts := (Begun s q b).contexts } = Begun s q b)

/-- The commands of the user queues.
Where it rests on the model's own choices, log entries 64, 65 name them. -/
def Obligations.QueueCommands : Prop := TokenCommands ∧ RecordCommands

/-- SCHEDULING_BOUNDARY reads the write pointers of mapped and woken queues, takes the slot from a queue that has nothing to
do, maps a pending one, and counts the run time of launches with a placed group (R440, R449); MAXRT_EXCEEDED ends the
context of a launch that has run longer than its MAXRT with cause 0x51 (R440). -/
def SchedulerSteps : Prop :=
  (∀ s : State, s.phase = .ready → s.clock.toNat / 76800 ≠ s.lastBoundary.toNat / 76800 → FramesPresent s → s.clock ≠ 0 →
    (∀ c ∈ s.contexts, c.phase = .running ∧ c.lits = []) →
    (∀ q b, s.queues = [q] → s.launches = [] → q.headerDue = false → q.prio < 8 → q.stopped = false →
      s.devRead q.ctx 0xFFFF (q.header + 0x0C) 4 = .ok b →
      (q.mapped = false → q.header ∈ s.wakes → fieldW b 0 ≠ q.rptr →
        ∃ t, exec .schedulingBoundary s = .next t ∧ t.lastBoundary = s.clock ∧ t.wakes = [] ∧
          t.queues = [{ q with wptr := fieldW b 0, pending := true, mapped := true, sliceLeft := q.slice }] ∧ t.mem = s.mem) ∧
      (q.mapped = true → fieldW b 0 = q.rptr →
        ∃ t, exec .schedulingBoundary s = .next t ∧ t.lastBoundary = s.clock ∧
          t.queues = [{ q with wptr := fieldW b 0, pending := false, mapped := false, unmappedAt := s.clock.toNat }]) ∧
      (q.mapped = true → fieldW b 0 ≠ q.rptr →
        ∃ t, exec .schedulingBoundary s = .next t ∧
          t.queues = [{ q with wptr := fieldW b 0, pending := true, sliceLeft := q.sliceLeft - 1 }])) ∧
    (∀ l, s.queues = [] → s.launches = [l] → l.over = false →
      ∃ t m, exec .schedulingBoundary s = .next t ∧ t.launches = [m] ∧
        m.runtime = l.runtime + (if s.groups.any (fun g => g.launch = l.uid && g.lit.isNone) then 1 else 0) ∧
        { m with runtime := l.runtime, claimableSince := l.claimableSince } = l)) ∧
    (∀ (s : State) l x, s.launchOf l.uid = some l → s.ctx l.ctx = some x → x.phase.over = false → field l.record 0x18 4 ≠ 0 → field l.record 0x18 4 < l.runtime →
      ∃ t, exec (.maxrtExceeded l.uid) s = .next t ∧ Ends s t l.ctx 0x51 [])

/-- CONTEXT_SAVE begins the save of a context that may be pre-empted: it stops issuing, and causes of the handler route wait
for its resume (R401, R417, R418).  CONTEXT_SAVE_COMPLETE, with everything drained, writes the save area, whose header begins
with the magic number, version 1, the size and the context, and frees the cores (R418, R423). -/
def ContextSaves : Prop :=
  ∀ (s : State) (c : Ctx), s.ctx c.id = some c →
    (∀ h n, c.phase = .saveRequested h n → s.mayBegin c = true →
      ∃ t, exec (.contextSave c.id) s = .next t ∧ t.ctx c.id = some { c with phase := .saving h s.clock.toNat } ∧
        ({ c with phase := .saving h s.clock.toNat } : Ctx).issues = false ∧
        { t with contexts := s.contexts, groups := s.groups } = s ∧
        ∀ g ∈ s.groups, ∃ g' ∈ t.groups, { g' with warps := g.warps } = g ∧ (g.ctx ≠ c.id → g' = g) ∧
          (g.ctx = c.id → g'.warps = g.warps.map (fun w => { w with
            stash := w.causes.filter (fun k => handlerCause k.code), causes := w.causes.filter (fun k => !handlerCause k.code) }))) ∧
    (∀ h n, c.phase = .saving h n → c.pass = none → c.waitRecs = [] → s.stop = none → s.mem.wf = true → 256 ≤ c.saveSize →
      (∀ g ∈ s.groups, g.ctx = c.id → s.groupDrained g = true ∧ g.session = none ∧ ∀ w ∈ g.warps, w.causes = []) →
      (∀ g ∈ s.groups, s.group g.uid = some g) →
      ∃ (t : State) (d : Ctx), exec (.contextSaveComplete c.id) s = .next t ∧ t.ctx c.id = some d ∧ d.phase = .saved h ∧
        d.savedAt = s.clock.toNat ∧ t.groups = s.groups.filter (fun g => g.ctx ≠ c.id) ∧
        d.savedGroups.map Group.uid = (s.groups.filter (fun g => g.ctx = c.id)).map Group.uid ∧
        (∀ g ∈ d.savedGroups, ∃ o ∈ s.groups, { g with savedLocks := o.savedLocks, warps := o.warps } = o ∧
          g.warps = o.warps.map Warp.settled) ∧
        (∀ w : Warp, (∀ f ∈ w.flights, f.log = none) → w.settled = w) ∧
        t.mem.read c.saveKey 8 = toBytes 4 0x5343574B ++ toBytes 2 1 ++ toBytes 2 0 ∧
        t.mem.read (c.saveKey + 16) 4 = toBytes 4 c.id ∧
        t.mem.read (c.saveKey + 20) 4 = toBytes 4 d.savedGroups.length ∧
        ∀ a, ¬ (c.saveKey ≤ a ∧ a < c.saveKey + c.saveSize) → t.mem.get a = s.mem.get a)

/-! ### The fabric, displays, monitors and starts -/

/-- A flit arrives in sequence and whole, on a port that is up, and asks for no resend (R455). -/
def InSequence (s : State) (port : Nat) (f : Flit) : Prop :=
  port < 12 ∧ (s.port port).up = true ∧ flitOk f = true ∧ f.resend = none ∧ f.fseq = (s.port port).rxSeq

/-- A port has sent an idle flit that acknowledges what it has received, and asks for a resend where it waits for one (R455). -/
def SentIdle (p : Port) : Prop :=
  ∃ i : Flit, p.sent.getLast? = some i ∧ i.ftyp = 0 ∧ flitOk i = true ∧ i.ack = some (p.rxSeq - 1) ∧ i.reqs = [] ∧ i.answers = [] ∧
    i.resend = if p.asking then some p.rxSeq else none

/-- No port holds a flit that waits to be sent, and none has as many as 128 unacknowledged (R455). -/
def LinksFree (s : State) : Prop := ∀ p, (s.port p).queued = [] ∧ (s.port p).replay.length < 128

/-- REQUEST_FLIT: a peer's read, write or atomic under the address space bound to its domain is performed and answered with
the request's tag (R454, R457); a request whose further operands follow waits for them; a domain that is bound to none is answered with 0x11; the flit is acknowledged; a flit out of sequence or damaged
has no effect but that a resend is asked for (R455).  RESPONSE_FLIT: an acknowledged write is no longer counted, and an operation
takes its answer, or the cause that it brings (R243); the marks of the sectors of the payload poison the answer's data (R228, R454);
an answer that goes on in a further flit is kept; the cause that the owner of a tile's row meets goes into the tile's status
(R294).
Where it rests on the model's own choices, log entries 90, 125 name them. -/
def PeerFlits : Prop :=
  ∀ (s : State) (port : Nat) (f : Flit),
    (f.ftyp = 1 → InSequence s port f → s.stop = none → LinksFree s → ∀ r, f.reqs = [r] → r.more = false →
      (∀ p ∈ s.peerParts, ¬ (p.dev = f.sdev ∧ p.slan = f.slan ∧ p.req.tag = r.tag)) → r.len ≤ 224 → r.data.length ≤ 224 →
      (s.bound f.fdom = none → ∃ (t : State) (p : Nat) (a : Flit), exec (.requestFlit port f) s = .next t ∧
        (t.port port).rxSeq = f.fseq + 1 ∧ SentIdle (t.port port) ∧ t.mem = s.mem ∧ a ∈ (t.port p).replay ∧ a.ftyp = 2 ∧
        a.ddev = f.sdev ∧ a.slan = f.dlan % 4 ∧ a.dlan = f.slan ∧ a.fdom = f.fdom ∧ flitOk a = true ∧
        a.answers = [{ tag := r.tag, cause := 0x11, data := [], poison := 0 }]) ∧
      (∀ c k, s.bound f.fdom = some c →
        s.translate c.id (f.dlan % 4) (bits r.addr 0 48).toNat (if r.write || r.atom.isSome then .write else .read) = .ok k →
        absentKey k = false → s.rangeParks k (if r.write then r.data.length else r.len) = false → s.mem.poisoned k r.len = false → f.psn = 0 →
        ∃ (t : State) (p : Nat) (a : Flit) (data : Bytes), exec (.requestFlit port f) s = .next t ∧
          (t.port port).rxSeq = f.fseq + 1 ∧ SentIdle (t.port port) ∧ a ∈ (t.port p).replay ∧ a.ftyp = 2 ∧ a.ddev = f.sdev ∧
          a.psn = 0 ∧ flitOk a = true ∧ a.answers = [{ tag := r.tag, cause := 0, data, poison := 0 }] ∧
          (r.write = true → data = [] ∧ t.mem = s.mem.storeAll [(k, r.data)]) ∧
          (r.write = false → r.atom = none → data = s.mem.read k r.len ∧ t.mem = s.mem) ∧
          (∀ o, r.write = false → r.atom = some o → r.data.length / r.len = 1 → data = s.mem.read k r.len))) ∧
    (f.ftyp = 1 → InSequence s port f → s.stop = none → ∀ r, f.reqs = [r] → r.more = true →
      ∃ (t : State) (q : PeerReq), exec (.requestFlit port f) s = .next t ∧ SentIdle (t.port port) ∧ t.mem = s.mem ∧
        t.peerReqs = s.peerReqs ∧ t.peerParts = s.peerParts ++ [q] ∧ q.req = r ∧ q.dev = f.sdev ∧ q.slan = f.slan) ∧
    ((f.ftyp = 1 ∨ f.ftyp = 2) → port < 12 → (s.port port).up = true →
      s.stop = none → flitOk f = false ∨ f.fseq ≠ (s.port port).rxSeq →
      ∃ t : State, exec (if f.ftyp = 1 then .requestFlit port f else .responseFlit port f) s = .next t ∧
        SentIdle (t.port port) ∧ (t.port port).asking = true ∧
        { t.port port with asking := (s.port port).asking, sent := (s.port port).sent } = s.port port ∧
        (∀ p, p ≠ port → t.port p = s.port p) ∧ { t with ports := s.ports, fresh := s.fresh } = s) ∧
    (∀ a, f.answers = [a] → ∃ b : FlitAns, flitAnswers f = [b] ∧ { b with poison := a.poison } = a ∧
      ∀ i < 7, b.poison.getLsbD i = (a.poison.getLsbD i || (f.psn.getLsbD i && decide (32 * i < a.data.length)))) ∧
    (f.ftyp = 2 → InSequence s port f → ∀ a, flitAnswers f = [a] → (∀ o ∈ s.owed, o.tag ≠ a.tag) →
      (∀ g ∈ s.groups, (∀ w ∈ g.warps, w.asker a = none) ∧ ∀ o ∈ g.ops, ∀ u ∈ o.sent, u.tag ≠ a.tag) →
      ∀ g w, s.group g.uid = some g → g.warp w.wid = some w →
      ∃ (t : State) (v : Warp), exec (.responseFlit port f) s = .next t ∧ t.warp g.uid w.wid = some v ∧ t.mem = s.mem ∧
        v.regs = w.regs ∧ v.masks = w.masks ∧
        ((∀ x ∈ w.flights, ∀ r ∈ x.remote, r.tag ≠ a.tag) → { v with unack := w.unack } = w ∧
          v.unack = if a.more ∧ a.cause = 0 then w.unack else w.unack.filter (fun u => u.tag ≠ a.tag)) ∧
        ∀ x r, w.flights.find? (fun x => x.remote.any (fun r => r.tag = a.tag)) = some x →
          x.remote.find? (fun r => r.tag = a.tag) = some r → x.op ≠ 0xA9 →
          let code := if a.cause ≠ 0 then a.cause else if a.poison ≠ 0 ∧ r.kind ≠ 1 then 0x12 else 0
          (v.unack = if a.more ∧ a.cause = 0 then w.unack else w.unack.filter (fun u => u.tag ≠ a.tag)) ∧
          (a.more = true → code = 0 → ∃ y ∈ v.flights, y.id = x.id ∧ y.dests = x.dests ∧
            y.remote = x.remote.map (fun z => if z.tag = r.tag then { z with got := z.got ++ a.data } else z)) ∧
          (a.more = false ∨ code ≠ 0 → ∃ y ∈ v.flights, y.id = x.id ∧ y.remote = x.remote.filter (fun z => z.tag ≠ r.tag) ∧
            (code ≠ 0 → r.kind = 0 → y.dests = []) ∧ (r.kind = 1 → y.dests = x.dests)) ∧
          (code = 0 → v.causes = w.causes) ∧
          (code ≠ 0 → (∀ t, x.kind ≠ .moved t) →
            ∃ k : Cause, v.causes = w.causes ++ [k] ∧ k.code = code ∧ k.addr = r.addr) ∧
          (∀ t, x.kind = .moved t → code ≠ 0 → code ≠ 0x10 → code ≠ 0x50 → v.causes = w.causes ∧
            ((w.tile t).cause ≠ 0 → v.tile t = w.tile t) ∧ ((w.tile t).cause = 0 → t < w.tiles.length → (v.tile t).cause = code)))

/-- IDLE_FLIT: an acknowledgement frees the flits up to it, a request for a resend is counted, the flit goes out again, and the
ninth request for one flit takes the port down; a damaged one is discarded (R455).  A resend repeats the flit and every one sent
after it, which the partner has discarded too.  A flit goes out with its port's sequence number and acknowledgement and with FCRC
over its bytes (R454, R455); behind 128 unacknowledged ones it waits, as it does with every port down, and those that wait go out
as soon as there is room.  PORT_RETRAIN brings a port back with its sequence numbers at 0.  POSE_FLIT: a newer pose stands in the
pose register, an older or equal one has no effect (R470). -/
def LinkFlits : Prop :=
  ∀ (s : State) (port : Nat), port < 12 → s.ports.length = 12 →
    (∀ f n i, f.ftyp = 0 → (s.port port).up = true → flitOk f = true → f.ack = some n → f.resend = none →
      (s.port port).replay.findIdx? (fun x => x.fseq = n) = some i →
      exec (.idleFlit port f) s =
        .next (s.setPort port ({ s.port port with replay := (s.port port).replay.drop (i + 1), fails := 0 } : Port).fill)) ∧
    (∀ x : Port, x.up = true → x.replay.length ≤ 128 → ∃ ys : List Flit,
      x.fill = { x with
        txSeq := x.txSeq + BitVec.ofNat 8 ys.length, replay := x.replay ++ ys, sent := x.sent ++ ys
        queued := x.queued.drop (128 - x.replay.length) } ∧
      ys.length = min (128 - x.replay.length) x.queued.length ∧
      ∀ i y q, ys[i]? = some y → x.queued[i]? = some q → y.fseq = x.txSeq + BitVec.ofNat 8 i ∧ flitOk y = true ∧
        { y with fseq := q.fseq, ack := q.ack, resend := q.resend, fcrc := q.fcrc } = q) ∧
    (∀ f, f.ftyp = 0 → (s.port port).up = true → flitOk f = false → ∃ t : State, exec (.idleFlit port f) s = .next t ∧
      SentIdle (t.port port) ∧ (t.port port).asking = true ∧ (t.port port).replay = (s.port port).replay ∧
      { t with ports := s.ports, fresh := s.fresh } = s) ∧
    (∀ va f, (s.port port).up = true → (∀ p < 12, p ≠ port → (s.port p).up = false) →
      let x := s.port port
      (x.replay.length < 128 → x.queued = [] → ∃ y : Flit,
        (s.sendFlit va f).port port = { x with txSeq := x.txSeq + 1, replay := x.replay ++ [y], sent := x.sent ++ [y] } ∧
        y.fseq = x.txSeq ∧ y.ack = some (x.rxSeq - 1) ∧ y.resend = (if x.asking then some x.rxSeq else none) ∧ flitOk y = true ∧
        { y with fseq := f.fseq, ack := f.ack, resend := f.resend, fcrc := f.fcrc } = f) ∧
      (128 ≤ x.replay.length → (s.sendFlit va f).port port = { x with queued := x.queued ++ [f] })) ∧
    (∀ va f, (∀ p < 12, (s.port p).up = false) →
      s.sendFlit va f = s.setPort 0 { s.port 0 with queued := (s.port 0).queued ++ [f] }) ∧
    (∀ f n, f.ftyp = 0 → (s.port port).up = true → flitOk f = true → f.ack = none → f.resend = some n →
      (∀ x ∈ (s.port port).replay, x.fseq ≠ n - 1) → (∃ x ∈ (s.port port).replay, x.fseq = n) →
      ((s.port port).fails < 8 →
        exec (.idleFlit port f) s = .next (s.setPort port { s.port port with
          fails := (s.port port).fails + 1
          sent := (s.port port).sent ++
            ((s.port port).replay.dropWhile (fun x => x.fseq ≠ n)).map (s.port port).stamp })) ∧
      (8 ≤ (s.port port).fails → ∃ t, exec (.idleFlit port f) s = .next t ∧ (t.port port).up = false ∧
        t.nextEvent = s.nextEvent + 1 ∧ t.mem = s.mem)) ∧
    ((s.port port).up = false → s.phase = .ready → (∀ p ∈ s.ports, p.replay = [] ∧ p.queued = []) →
      ∃ t, exec (.portRetrain port) s = .next t ∧ t.port port = { Port.reset with up := true } ∧
        (∀ p, p ≠ port → t.port p = s.port p) ∧ t.nextEvent = s.nextEvent + 1 ∧ t.mem = s.mem) ∧
    (∀ p, (s.port port).up = true → s.phase = .ready → FramesPresent s →
      let d := (p.seq - s.poseReg.pose.seq).toNat
      ((s.poseReg.got = false ∨ (1 ≤ d ∧ d ≤ 2 ^ 31 - 1)) → ∃ t, exec (.poseFlit port p) s = .next t ∧
        t.poseReg = { pose := p, got := true } ∧ ((∀ o ∈ s.outputs, o.ctx = 0 ∧ o.poseDue = false) → t.mem = s.mem)) ∧
      (s.poseReg.got = true → (d = 0 ∨ 2 ^ 31 ≤ d) → exec (.poseFlit port p) s = .next s))

/-- BEACON, HOLDOVER and DRAINED (R30, R459, R468): a beacon sets fabric time forward at once, or slows it until the switch's
time has come up; 1,000,000 ns without one begin holdover; a departing module with nothing under way is drained, and its
DEPART completes. -/
def TimeAndDeparture : Prop :=
  ∀ s : State,
    (∀ port time, port < 12 → (s.port port).up = true → s.phase = .ready →
      ∃ t, exec (.beacon port time) s = .next t ∧ t.acquired = true ∧ t.holdover = false ∧ t.lastBeacon = t.ftime ∧
        (s.ftime ≤ time → t.ftime = time ∧ t.ftimeSlow = none) ∧
        (time < s.ftime → t.ftime = s.ftime ∧ t.ftimeSlow = some (time, 0)) ∧
        t.nextEvent = s.nextEvent + (if s.holdover then 1 else 0) ∧ t.mem = s.mem) ∧
    (s.phase = .ready → s.acquired = true → s.holdover = false → s.lastBeacon.toNat + 1000000 ≤ s.ftime.toNat →
      ∃ t, exec .holdover s = .next t ∧ t.holdover = true ∧ t.acquired = false ∧ t.nextEvent = s.nextEvent + 1 ∧ t.mem = s.mem) ∧
    (∀ cmd, s.switch = .departing → (∀ c ∈ s.contexts, c.phase.runs = false) → s.quiet = true → s.serving = some cmd →
      field cmd 0 2 = 0x50 → exec .drained s = .next (({ s with switch := .drained } : State).endCommand cmd 0 []))

/-- What comes over the fabric.
Where it rests on the model's own choices, log entries 47, 80, 85, 86, 90, 107 name them. -/
def Obligations.FabricSteps : Prop := PeerFlits ∧ LinkFlits ∧ TimeAndDeparture

/-- The retire record of a frame shown (R467): `FNUM`, the flags, and the time at the end of its scan. -/
def retireRecordOf (f : DFrame) (vigil lost : Bool) (time : Dword) : Bytes :=
  wordBytes (frameNum f.desc) ++ toBytes 4 ((if vigil then 1 else 0) + (if lost then 2 else 0)) ++ dwordBytes time

/-- The four steps of a display output (R354, R464-R469): a valid commit is latched before its deadline, an invalid one gives
its warp protection (0x11), and both end the FRAMEC; the deadline fixes the last frame latched, or Vigil where none is
new, and counts the others as dropped; the frame starts scanning at its time, and one whose time has come starts before the next is
fixed; its retire record is formed at its end, where another frame starts also, and written then or when its page is mapped.
Where it rests on the model's own choices, log entries 25, 76 name them. -/
def Obligations.DisplaySteps : Prop :=
  ∀ (s : State) (i : Nat) (o : Output), s.outputs[i]? = some o →
    (∀ c rest d g w f, o.commits = c :: rest → c.ctx = o.ctx → s.ftime.toNat < o.phase + o.next * o.period - o.lead →
      s.devRead c.ctx 0xFFFF c.addr 128 = .ok d → s.group c.grp = some g → g.warp c.wid = some w →
      w.flights.find? (fun x => x.id = c.flight) = some f → f.counter = some 1 →
      ∃ (t : State) (v : Warp) (p : Output), exec (.frameLatch i) s = .next t ∧ t.warp c.grp c.wid = some v ∧
        t.outputs[i]? = some p ∧ p.commits = rest ∧ v.flights = w.flights.filter (fun x => x.id ≠ c.flight) ∧
        v.counter 1 = w.counter 1 - 1 ∧ v.regs = w.regs ∧ v.masks = w.masks ∧ t.mem = s.mem ∧
        (frameBad c.addr d o.mode = false → v.causes = w.causes ∧ p.latched = o.latched ++ [{ desc := d, ctx := c.ctx }] ∧
          p.last = some { desc := d, ctx := c.ctx } ∧ p.vigilHold = decide (s.switch ≠ .joined)) ∧
        (frameBad c.addr d o.mode = true → p = { o with commits := rest } ∧ ∃ k : Cause, v.causes = w.causes ++ [k] ∧
          k.code = 0x11 ∧ k.prec = false ∧ k.addr = c.addr ∧ k.lanes = f.grp)) ∧
    (o.ctx ≠ 0 → o.period ≠ 0 → o.lead ≤ o.phase → o.phase + o.next * o.period - o.lead ≤ s.ftime.toNat →
      s.ftime.toNat < o.phase + (o.next + 1) * o.period - o.lead →
      let vigil : Bool := o.latched.isEmpty || o.vigilHold
      let lost := if vigil then o.latched.length else o.latched.length - 1
      o.fixed = none → exec (.frameDeadline i) s = .next { s with outputs := s.outputs.set i { o with
        fixed := some (o.last, vigil, decide (lost ≠ 0), s.poseReg.pose), fixedK := o.next, next := o.next + 1, latched := []
        dropped := o.dropped + lost } }) ∧
    (o.ctx ≠ 0 → o.phase + o.next * o.period - o.lead ≤ s.ftime.toNat → o.fixed ≠ none →
      exec (.frameDeadline i) s = exec (.frameDeadline i) (s.startFrame i)) ∧
    (∀ f v l p, o.fixed = some (f, v, l, p) → o.phase + o.fixedK * o.period ≤ s.ftime.toNat →
      exec (.frameStart i) s = .next (s.startFrame i) ∧
      (o.scan = none → s.startFrame i = { s with outputs := s.outputs.set i { o with
        scan := some (f, v || o.vigilHold, l, p), scanK := o.fixedK, fixed := none } }) ∧
      ∀ g v' l' p', o.scan = some (some g, v', l', p') →
        { s.startFrame i with fresh := s.fresh } = { s with outputs := s.outputs.set i { o with
          scan := some (f, v || o.vigilHold, l, p), scanK := o.fixedK, fixed := none
          retires := o.retires ++ [(o.ctx, o.retireAt, retireRecordOf g v' l' s.ftime)] } }) ∧
    (∀ f v l p, o.scan = some (some f, v, l, p) → o.phase + (o.scanK + 1) * o.period ≤ s.ftime.toNat → o.retires = [] →
      let r := retireRecordOf f v l s.ftime
      let at' : State := { s.draw.2 with outputs := s.outputs.set i { o with scan := none, retires := [(o.ctx, o.retireAt, r)] } }
      (∀ t, at'.devWrite o.ctx 0xFFFF o.retireAt r = .ok t → t.stop = none →
        ∃ u : State, exec (.frameRetire i) s = .next u ∧ u.mem = t.mem ∧ u.outputs[i]? = some { o with scan := none }) ∧
      ∀ t, at'.devWrite o.ctx 0xFFFF o.retireAt r = .wait t → t.stop = none →
        ∃ u : State, exec (.frameRetire i) s = .next u ∧
          u.outputs[i]? = some { o with scan := none, retires := [(o.ctx, o.retireAt, r)] })

/-- The state of a vault after a sample of its temperature, in sixteenths of a degree, where it has not been lost (R231). -/
def sampled (v : VaultState) (t : Int) : VaultState :=
  match v with
  | .normal => if 16 * 105 ≤ t then .retention else if 16 * 95 ≤ t then .throttle else .normal
  | .throttle => if 16 * 105 ≤ t then .retention else if t < 16 * 90 then .normal else .throttle
  | .retention => if 16 * 100 ≤ t then .retention else if t < 16 * 90 then .normal else .throttle
  | .lost => .lost

/-- MONITOR_SAMPLE, RAIL_TRIP, RAIL_RECOVERY and L2_SHUTDOWN_WINDOW_END (R231-R233, R452, R481): what a sample records and how it
moves the state of each vault, and that memory too hot ends every context; what a tripped rail stops, and what its recovery brings
back.  That every byte of a lost vault reads 0 is the model's choice (log entry 2): R231 and R232 say only that its contents are lost.
Where it rests on other choices of the model, log entries 75, 110, 111 name them. -/
def Obligations.MonitorSteps : Prop :=
  ∀ s : State, s.columns.length = 192 → s.stop = none →
    (∀ r : Readings, s.phase = .ready → (let slot := s.clock.toNat - s.clock.toNat % 65536 + 63
        slot ≤ s.clock.toNat ∧ s.lastSample.toNat < slot) → s.memTemp.length = 48 →
      (∀ c < 192, r.colTemp.getD c 0 < 16 * 115 ∧ (s.column c).vault ≠ .lost) → (∀ d < 48, r.memTemp.getD d 0 < 16 * 105) →
      ∃ t, exec (.monitorSample r) s = .next t ∧ t.lastSample = s.clock ∧ t.mem = s.mem ∧ t.contexts = s.contexts ∧
        (∀ q < 48, t.ring.getD q 0 = r.ring.getD q 0) ∧ (∀ l < 4, t.milliVolt.getD l 0 = r.milliVolt.getD l 0) ∧
        (∀ d < 48, t.memTemp.getD d 0 = r.memTemp.getD d 0) ∧
        ∀ c < 192, let x := r.colTemp.getD c 0
          (t.column c).temp = x ∧ (t.column c).vault = sampled (s.column c).vault x ∧ (t.column c).vaultSeen = (t.column c).vault ∧
          (t.column c).hot = (if 16 * 100 ≤ x then true else if x < 16 * 95 then false else (s.column c).hot) ∧
          (t.column c).corrected = min ((s.column c).corrected + r.corrected.getD c 0) (2 ^ 32 - 1)) ∧
    (∀ r : Readings, s.phase = .ready → (let slot := s.clock.toNat - s.clock.toNat % 65536 + 63
        slot ≤ s.clock.toNat ∧ s.lastSample.toNat < slot) → s.memTemp.length = 48 → FramesPresent s →
      (∀ c < 192, r.colTemp.getD c 0 < 16 * 115 ∧ (s.column c).vault ≠ .lost) → (∃ d < 48, 16 * 105 ≤ r.memTemp.getD d 0) →
      ∃ t, exec (.monitorSample r) s = .next t ∧ t.lastSample = s.clock ∧ (∀ d < 48, t.memTemp.getD d 0 = r.memTemp.getD d 0) ∧
        ∀ c ∈ s.contexts, s.ctx c.id = some c → c.phase.over = false → ∃ d, t.ctx c.id = some d ∧ d.phase.over = true ∧
          (s.lasts c.id s.clock.toNat = false → d.phase = .terminated)) ∧
    (∀ col, col < 192 → s.phase = .ready → s.contexts = [] → (s.column col).cacheTrip = false → (s.column col).vault ≠ .lost →
      (s.column col).sliceUp = true → s.mem.wf = true →
      ∃ t, exec (.railTrip col .cacheDie) s = .next t ∧ (t.column col).cacheTrip = true ∧ (t.column col).vault = .lost ∧
        (t.column col).sliceUp = false ∧ (t.column col).window = some (s.clock.toNat + 28800) ∧
        (∀ a, t.mem.get a = if vaultKey col 0 ≤ a ∧ a < vaultKey col 0 + 2 ^ 24 then 0 else s.mem.get a) ∧
        ∀ k, k ≠ col → t.column k = s.column k) ∧
    (∀ col, col < 192 → s.phase = .ready → FramesPresent s → (s.column col).computeTrip = false →
      ∃ t, exec (.railTrip col .computeDie) s = .next t ∧ (t.column col).computeTrip = true ∧ (t.column col).stopped = true ∧
        ∀ c ∈ s.contexts, s.ctx c.id = some c → c.phase.over = false → (∃ g ∈ s.groups, g.ctx = c.id ∧ g.col = col) →
          ∃ d, t.ctx c.id = some d ∧ d.phase.over = true ∧ (s.lasts c.id s.clock.toNat = false → d.phase = .terminated)) ∧
    (∀ col, col < 192 → (s.column col).cacheTrip = true → (s.column col).temp < 16 * 85 → (s.column col).window = none →
      ∃ t, exec (.railRecovery col .cacheDie) s = .next t ∧ (t.column col).cacheTrip = false ∧ (t.column col).vault = .normal ∧
        (t.column col).sliceUp = true ∧ (∀ a, t.mem.get a = s.mem.get a) ∧
        ∀ o, o < (s.column col).vcap → t.mem.poisoned (vaultKey col o) 1 = true) ∧
    (∀ col, col < 192 → (s.column col).computeTrip = true →
      ∃ t, exec (.railRecovery col .computeDie) s = .next t ∧ (t.column col).computeTrip = false ∧
        (t.column col).stopped = false ∧ t.mem = s.mem ∧ ∀ k, k ≠ col → t.column k = s.column k) ∧
    (∀ col n, col < 192 → (s.column col).window = some n → n ≤ s.clock.toNat → (s.column col).dirty = [] → s.contexts = [] →
      s.peerReqs = [] → s.launches = [] → (∀ q ∈ s.queues, q.headerDue = false) →
      exec (.l2ShutdownWindowEnd col) s = .next (s.draw.2.updColumn col (fun c => { c with window := none, dirty := [] }))) ∧
    (∀ col n, col < 192 → (s.column col).window = some n → n ≤ s.clock.toNat → s.contexts = [] →
      s.peerReqs = [] → s.launches = [] → (∀ q ∈ s.queues, q.headerDue = false) →
      ∃ t, exec (.l2ShutdownWindowEnd col) s = .next t ∧ (t.column col).window = none ∧ (t.column col).dirty = [] ∧
        t.mem = s.mem ∧ (∀ k, k ≠ col → t.column k = s.column k) ∧
        ((s.column col).dirty.length ≤ Config.linesWritten s.fresh → t.tables = s.tables) ∧
        ∀ i k, (s.column col).dirty[i]? = some k → Config.linesWritten s.fresh ≤ i → ∀ tb ∈ t.tables.getD (128 * k / 2 ^ 54) [],
          ∀ e ∈ tb.entries, isLeaf tb.level e.2 = true → entLoc e.2 = 0 → entFrame e.2 ≤ 128 * k % 2 ^ 54 →
            128 * k % 2 ^ 54 < entFrame e.2 + leafBytes e.2 → e.2.getLsbD 62 = true)

/-- COLD_START, RESET and START_HOLDOVER, and the BEACON that ends a start (R15, R17, R34, R471-R473): a start that fails halts at its
step, from step 3 on with its failing banks retired; one that does not drops every context, keeps host memory, takes its banks,
ports and device id from its report, and waits for the time base of the switch; then `GEN` has risen by one, the module is joined, and the mailbox is ready: a RESET that
waits for the end of its start is answered with status 0 then, with response ready and vector 0 raised (R462, R474).
Where it rests on the model's own choices, log entries 2, 77, 126 name them (2: device memory reads 0 after a start). -/
def Obligations.StartSteps : Prop :=
  ∀ (s : State) (r : StartReport),
    (∀ k, r.failStep = some k → 1 ≤ k → k ≤ 5 → ∃ t, exec (.coldStart r) s = .next t ∧ t.phase = .halted k ∧ t.contexts = [] ∧
      (3 ≤ k → ∀ c < 192, ∀ b < 32,
        (t.column c).bankMask.getLsbD b = ((designBanks c).getLsbD b && !r.badBanks.contains (c, b)))) ∧
    (r.failStep = none → (∃ p ∈ r.ports, p < 12) →
      ∃ t, exec (.coldStart r) s = .next t ∧ t.phase = .starting 6 ∧ t.contexts = [] ∧ t.queues = [] ∧ t.groups = [] ∧
        t.launches = [] ∧ t.clock = 0 ∧ t.ftime = 0 ∧ t.gen = s.gen ∧ t.devid = r.devid % 64 ∧ t.keyed = true ∧ t.mbst = 0 ∧
        t.irqc = 0 ∧ (∀ p < 12, (t.port p).up = decide (p ∈ r.ports)) ∧
        (∀ c < 192, ∀ b < 32, (t.column c).bankMask.getLsbD b = ((designBanks c).getLsbD b && !r.badBanks.contains (c, b))) ∧
        (s.mem.wf = true → ∀ a, t.mem.get a = if 2 ^ 58 ≤ a then s.mem.get a else 0)) ∧
    (∀ cmd, s.serving = some cmd → field cmd 0 2 = 2 → strayBytes cmd [(8, 1)] = false → s.contexts = [] → s.stop = none →
      s.phase = .ready ∨ (∃ k, s.phase = .halted k) → r.failStep = none → (∃ p ∈ r.ports, p < 12) →
      (field cmd 8 1 = 0 → ∃ t, exec (.resetCold r) s = .next t ∧ t.phase = .starting 6 ∧ t.resetCmd = some cmd ∧
        t.serving = none ∧ t.mbst.getLsbD 0 = false) ∧
      (field cmd 8 1 = 1 → r.verifyFails = false → ∃ t, exec (.resetWarm r) s = .next t ∧ t.phase = .starting 6 ∧
        t.resetCmd = some cmd ∧ t.serving = none ∧ t.fallback = false ∧
        (s.columns.length = 192 → ∀ c < 192, (t.column c).bankMask = (s.column c).bankMask))) ∧
    (∀ cmd, s.serving = some cmd → field cmd 0 2 = 2 → strayBytes cmd [(8, 1)] = false → s.contexts = [] → s.stop = none →
      s.phase = .ready ∨ (∃ k, s.phase = .halted k) → field cmd 8 1 = 1 → s.columns.length = 192 →
      ∀ k, r.failStep = some k → k = 1 ∨ k = 2 → ∃ t, exec (.resetWarm r) s = .next t ∧ t.phase = .halted k ∧
        ∀ c < 192, (t.column c).bankMask = (s.column c).bankMask) ∧
    (s.phase = .starting 6 →
      let up (t : State) : Prop := t.phase = .ready ∧ t.gen = s.gen + 1 ∧ t.switch = .joined ∧ t.mem = s.mem ∧
        t.discovery.length = 3264 ∧ t.discovery.take 8 = toBytes 4 0x3945574B ++ toBytes 2 1 ++ toBytes 2 0x0CC0 ∧
        fieldW t.discovery 0x38 = t.gen ∧
        (s.resetCmd = none → t.resetCmd = none ∧ t.mbrsp = s.mbrsp ∧ t.mbst = s.mbst ∧ t.irqc = s.irqc) ∧
        ∀ cmd, s.resetCmd = some cmd → 8 ≤ cmd.length → t.resetCmd = none ∧ t.mbst = s.mbst ||| 2 ∧ t.irqc = s.irqc ||| 1 ∧
          t.mbrsp = cmd.take 2 ++ toBytes 2 0 ++ (cmd.drop 4).take 4 ++ List.replicate 248 0
      (s.step6.toNat + 10000000 ≤ s.ftime.toNat →
        ∃ t, exec .startHoldover s = .next t ∧ up t ∧ t.holdover = true ∧ t.nextEvent = s.nextEvent + 1) ∧
      ∀ port time, port < 12 → (s.port port).up = true →
        ∃ t, exec (.beacon port time) s = .next t ∧ up t ∧ t.holdover = false ∧ t.acquired = true)

/-! ### The host interface -/

/-- The writes of BAR0 (R462, R463): MBCMD takes aligned writes of whole words, and the bytes behind it, MBRSP, ignore them; a
doorbell while the mailbox is free starts the service of the command as it stands, one while it is busy sets the overrun bit; a 1
written to a bit of MBST, QWST or IRQC clears its mark; QWAKE marks a queue by the address of its header; an aligned 8-byte write to
two registers is two writes of 4 bytes; a write narrower than 4 bytes, one that is not naturally aligned, a larger one outside MBCMD
and MBRSP, and one to no register has no effect, nor has any write to a module without power,
which is the model's own reading (log entry 77). -/
def Obligations.HostWrites : Prop :=
  (∀ s : State, s.phase = .off → (∀ v, exec (.mbstWrite v) s = .next s ∧ exec (.qwstWrite v) s = .next s ∧
    exec (.irqcWrite v) s = .next s) ∧ (∀ v, exec (.qwake v) s = .next s) ∧ ∀ off data, exec (.bar0Write off data) s = .next s) ∧
  ∀ s : State, s.phase ≠ .off →
    (∀ v : Word, exec (.mbstWrite v) s = .next { s with mbst := s.mbst &&& ~~~(v &&& 6) }) ∧
    (∀ v : Word, exec (.irqcWrite v) s = .next { s with irqc := s.irqc &&& ~~~v }) ∧
    (∀ v : Word, exec (.qwstWrite v) s = .next { s with wakeOver := s.wakeOver && !v.getLsbD 0 }) ∧
    (∀ v : Dword, exec (.qwake v) s = .next (
      if (∃ q ∈ s.queues, q.header = v) ∧ v ∉ s.wakes then
        (if s.wakes.length < 256 then { s with wakes := s.wakes ++ [v] } else { s with wakeAll := true, wakeOver := true })
      else s)) ∧
    (∀ off data, off + data.length ≤ 0x200 → data.length % 4 = 0 → off % 4 = 0 → (data.length = 8 → off % 8 = 0) → data ≠ [] →
      s.mbcmd.length = 256 →
      ∃ t, exec (.bar0Write off data) s = .next t ∧ { t with mbcmd := s.mbcmd } = s ∧ t.mbcmd.length = 256 ∧
        ∀ i < 256, t.mbcmd.getD i 0 = if off ≤ i ∧ i < off + data.length then data.getD (i - off) 0 else s.mbcmd.getD i 0) ∧
    (s.mbst.getLsbD 0 = false →
      exec (.bar0Write 0x200 [1, 0, 0, 0]) s = .next { s with mbst := s.mbst ||| 1, serving := some s.mbcmd, begun := false }) ∧
    (s.mbst.getLsbD 0 = true → exec (.bar0Write 0x200 [1, 0, 0, 0]) s = .next { s with mbst := s.mbst ||| 4 }) ∧
    (∀ v : Word, v ≠ 1 → exec (.bar0Write 0x200 (wordBytes v)) s = .next s) ∧
    (∀ v : Word, exec (.bar0Write 0x204 (wordBytes v)) s = exec (.mbstWrite v) s ∧
      exec (.bar0Write 0x210 (wordBytes v)) s = exec (.qwstWrite v) s ∧ exec (.bar0Write 0x214 (wordBytes v)) s = exec (.irqcWrite v) s) ∧
    (∀ v : Dword, exec (.bar0Write 0x208 (dwordBytes v)) s = exec (.qwake v) s) ∧
    (∀ (v w : Word) (off : Nat), off = 0x200 ∨ off = 0x210 → ∃ t, exec (.bar0Write off (wordBytes v)) s = .next t ∧
      exec (.bar0Write off (wordBytes v ++ wordBytes w)) s = exec (.bar0Write (off + 4) (wordBytes w)) t) ∧
    (∀ off data, data.length < 4 ∨ data.length % 4 ≠ 0 ∨ off % 4 ≠ 0 ∨ (data.length = 8 ∧ off % 8 ≠ 0) ∨ 0x218 ≤ off ∨
        (0x200 < off + data.length ∧ data.length ≠ 4 ∧ data.length ≠ 8) ∨ (data.length = 4 ∧ (off = 0x208 ∨ off = 0x20C)) →
      exec (.bar0Write off data) s = .next s)

/-- A Pelonar command of a code is in service, of a module that is up, and its unused bytes are 0 (R462, R473, R474). -/
def Serves (s : State) (cmd : Bytes) (code : Nat) (uses : List (Nat × Nat)) : Prop :=
  s.serving = some cmd ∧ field cmd 0 2 = code ∧ s.phase = .ready ∧ strayBytes cmd uses = false ∧ s.stop = none

/-- The answer of a Pelonar command (R462, R474): code, status and sequence word, the results, and 0 to the end; the mailbox is
free, response ready is set and vector 0 raised.  A code that no command has is answered with status 1, an unused byte that
is not 0 with status 2, and a command while the module is not up with status 4 (R473, R474). -/
def CommandAnswers : Prop :=
  (∀ (s : State) (cmd res : Bytes) (st : Nat), cmd.length = 256 → res.length ≤ 248 →
    let t := s.endCommand cmd st res
    t.serving = none ∧ t.begun = false ∧ t.mbst = (s.mbst &&& 6) ||| 2 ∧ t.irqc = s.irqc ||| 1 ∧
      t.mbrsp = cmd.take 2 ++ toBytes 2 st ++ (cmd.drop 4).take 4 ++ res ++ List.replicate (248 - res.length) 0 ∧
      { t with serving := s.serving, begun := s.begun, mbst := s.mbst, irqc := s.irqc, mbrsp := s.mbrsp } = s) ∧
  (∀ (s : State) (cmd : Bytes) (i : Instr), s.serving = some cmd → s.stop = none → field cmd 0 2 ∉ pelonarCodes →
    i ∈ [Instr.status, .readdt, .ctxnew, .ctxend, .ctxsave, .ctxrun, .diagrd, .qnew, .qrestart, .qfree, .mapLeaf, .unmapLeaf, .pool,
      .faultrspMap, .faultrspRefuse, .dispset, .pose, .depart, .evlog, .dbgattAttach, .dbgattDetach, .saverwToHost,
      .saverwToSaveArea, .getid, .attest] →
    exec i s = .next (s.endCommand cmd 1 [])) ∧
  (∀ (s : State) (cmd : Bytes), s.serving = some cmd → s.stop = none →
    ∀ p ∈ ([(Instr.readdt, 0x03, [(8, 8)]), (.ctxnew, 0x10, [(8, 8)]), (.ctxend, 0x11, [(8, 8)]), (.ctxsave, 0x12, [(8, 4)]),
      (.ctxrun, 0x13, [(8, 4)]), (.diagrd, 0x14, [(8, 16)]), (.qnew, 0x20, [(8, 4), (0x10, 8)]), (.qrestart, 0x21, [(8, 4)]),
      (.qfree, 0x22, [(8, 4)]), (.mapLeaf, 0x30, [(8, 4), (0x10, 16)]), (.unmapLeaf, 0x31, [(8, 4), (0x10, 8)]),
      (.pool, 0x32, [(8, 1), (0x0C, 12)]), (.dispset, 0x40, [(8, 1), (0x0C, 12)]), (.pose, 0x41, [(8, 28)]), (.depart, 0x50, []),
      (.evlog, 0x51, [(8, 16)]), (.getid, 0x70, []), (.attest, 0x71, [(8, 4), (0x10, 40)])] : List (Instr × Nat × List (Nat × Nat))),
      field cmd 0 2 = p.2.1 →
      (s.phase ≠ .ready → exec p.1 s = .next (s.endCommand cmd 4 [])) ∧
      (s.phase = .ready → strayBytes cmd p.2.2 = true → exec p.1 s = .next (s.endCommand cmd 2 [])))

/-- STATUS, READDT, GETID, ATTEST, EVLOG and POSE (R36, R470, R475, R476, R482-R485): what each answers, and where it writes. -/
def ModuleCommands : Prop :=
  ∀ (s : State) (cmd : Bytes),
    (Serves s cmd 0x01 [] → exec .status s = .next (s.endCommand cmd 0 ([1, 0] ++
      toBytes 1 ((if s.fallback then 1 else 0) + (if s.holdover then 2 else 0)) ++ [0] ++ wordBytes s.gen ++ toBytes 1 s.devid ++
      toBytes 1 s.switch.code))) ∧
    (Serves s cmd 0x03 [(8, 8)] → let off := field cmd 8 4
      let n := field cmd 0x0C 4
      (1 ≤ n → n ≤ 240 → off + n ≤ 3264 → exec .readdt s = .next (s.endCommand cmd 0 ((s.discovery.drop off).take n))) ∧
      ((n = 0 ∨ 240 < n ∨ 3264 < off + n) → exec .readdt s = .next (s.endCommand cmd 2 []))) ∧
    (Serves s cmd 0x70 [] → exec .getid s = .next (s.endCommand cmd 0 (publicKey ++ serialBytes ++ sha256 Config.romImage))) ∧
    (∀ c, Serves s cmd 0x71 [(8, 4), (0x10, 40)] → s.ctx (field cmd 8 4) = some c →
      let body := toBytes 4 0x5241574B ++ toBytes 2 1 ++ toBytes 2 0 ++ wordBytes s.gen ++ toBytes 4 s.devid ++ serialBytes ++
        (cmd.drop 0x10).take 32 ++ publicKey ++ sha256 Config.romImage ++ sha256 Config.fuseRest ++ toBytes 4 (field cmd 8 4) ++
        toBytes 4 c.nmeas ++ c.meas
      exec .attest s = .next ((s.hostWrite (fieldD cmd 0x30)
        (body ++ slhSign slh128s skSeed skPrf pkSeed (slhRoot slh128s skSeed pkSeed) body)).endCommand cmd 0 (toBytes 4 8048))) ∧
    (Serves s cmd 0x51 [(8, 16)] → 1 ≤ field cmd 0x0C 4 → field cmd 0x0C 4 ≤ 256 → s.events.length ≤ s.nextEvent →
      let oldest := s.nextEvent - s.events.length
      let first := max (field cmd 8 4) oldest
      let es := (s.events.drop (first - oldest)).take (field cmd 0x0C 4)
      exec .evlog s = .next ((s.hostWrite (fieldD cmd 0x10) es.flatten).endCommand cmd 0
        (toBytes 4 (if es = [] then s.nextEvent else first + es.length) ++ toBytes 4 es.length))) ∧
    (Serves s cmd 0x41 [(8, 28)] → LinksFree s → (∃ p < 12, (s.port p).up = true) → ∃ (u : State) (p : Nat) (f : Flit),
      exec .pose s = .next (u.endCommand cmd 0 []) ∧ { u with ports := s.ports, fresh := s.fresh } = s ∧ flitOk f = true ∧ f ∈ (u.port p).replay ∧ f.ftyp = 4 ∧
      f.pose = some { qw := fieldW cmd 8, qx := fieldW cmd 0x0C, qy := fieldW cmd 0x10, qz := fieldW cmd 0x14
                      time := fieldD cmd 0x18, seq := fieldW cmd 0x20 }) ∧
    (Serves s cmd 0x50 [] → (s.switch ≠ .joined → s.begun = false → exec .depart s = .next (s.endCommand cmd 4 [])) ∧
      (s.switch = .joined → s.begun = false → FramesPresent s → ∃ t, exec .depart s = .next t ∧ t.switch = .departing ∧
        t.begun = true ∧ t.serving = some cmd ∧
        ∀ c ∈ s.contexts, s.ctx c.id = some c → c.phase = .running →
          ∃ d, t.ctx c.id = some d ∧ d.phase.over = true ∧ (s.lasts c.id s.clock.toNat = false → d.phase = .terminated)))

/-- The commands over contexts (R406, R423, R475, R478): CTXNEW gives a context of its creation block the next id, CTXEND ends it
with cause 0x51 and answers once it has ended, CTXSAVE asks for its save and answers once the area is written, CTXRUN lets it resume, DIAGRD hands out its
diagnostic record, DBGATT attaches and detaches a debugger, SAVERW copies ranges of a saved context's area, sealing it. -/
def ContextCommands : Prop :=
  ∀ (s : State) (cmd : Bytes),
    (∀ areas, Serves s cmd 0x10 [(8, 8)] → s.switch = .joined →
      let b := s.hostRead (fieldD cmd 8) 0x630
      let m := s.hostRead (fieldD b 0x20) (16 * field b 0x28 4)
      let map := (List.range (field b 0x28 4)).map (fun i => (fieldD m (16 * i), field m (16 * i + 8) 4, field m (16 * i + 12) 4))
      (fieldD cmd 8).toNat % 64 = 0 → creationBad b map = false →
      s.blockAreas (blockGrants b) (fieldD b 0) (field b 8 8) (field b 0x14 4) (field b 0x18 8) = some areas →
      ∃ x : Ctx, exec .ctxnew s = .next (({ s with contexts := s.contexts ++ [x], nextCtx := s.nextCtx + 1 } : State).endCommand cmd 0
          (toBytes 4 s.nextCtx)) ∧
        x.id = s.nextCtx ∧ x.phase = .running ∧ x.fdom = field b 0x10 2 ∧ x.save = fieldD b 0 ∧ x.saveSize = field b 8 8 ∧
        x.bmap = map ∧ x.grants = blockGrants b ∧ x.bsAreas = areas ∧ x.meas = sha256 b ∧ x.nmeas = 0 ∧ x.roots = [] ∧
        x.nodes = [] ∧ x.pass = none ∧ x.storages = [] ∧ x.debugger = false ∧ x.firmware = false) ∧
    ∀ c : Ctx, s.ctx c.id = some c → field cmd 8 4 = c.id →
    (Serves s cmd 0x11 [(8, 8)] →
      (s.begun = false → FramesPresent s → c.phase.over = false → ∃ u : State, Ends s u c.id 0x51 [] ∧
        (s.lasts c.id s.clock.toNat = false → exec .ctxend s = .next (u.endCommand cmd 0 [])) ∧
        (s.lasts c.id s.clock.toNat = true → exec .ctxend s = .next u ∧ u.begun = true ∧ u.serving = some cmd)) ∧
      (s.begun = true → c.phase = .terminated → exec .ctxend s = .next (s.endCommand cmd 0 []))) ∧
    (Serves s cmd 0x12 [(8, 4)] →
      (s.begun = false → c.phase = .running → exec .ctxsave s =
        .next { s.setCtx { c with phase := .saveRequested true s.clock.toNat } with begun := true }) ∧
      (s.begun = true → ∀ h, c.phase = .saved h → exec .ctxsave s = .next (s.endCommand cmd 0 []))) ∧
    (Serves s cmd 0x13 [(8, 4)] → ∀ h, c.phase = .saved h →
      exec .ctxrun s = .next ((s.setCtx { c with phase := .saved false }).endCommand cmd 0 [])) ∧
    (Serves s cmd 0x14 [(8, 16)] →
      (c.diag = none → exec .diagrd s = .next (s.endCommand cmd 0 (toBytes 4 0))) ∧
      (∀ d, c.diag = some d → d.length ≤ field cmd 0x0C 4 →
        exec .diagrd s = .next ((s.hostWrite (fieldD cmd 0x10) d).endCommand cmd 0 (toBytes 4 d.length))) ∧
      (∀ d, c.diag = some d → field cmd 0x0C 4 < d.length → exec .diagrd s = .next (s.endCommand cmd 3 (toBytes 4 d.length)))) ∧
    (Serves s cmd 0x60 [(8, 5)] → c.phase.over = false →
      (field cmd 0x0C 1 = 1 → exec .dbgattAttach s = .next ((s.setCtx { c with debugger := true }).endCommand cmd 0 [])) ∧
      (field cmd 0x0C 1 = 0 → exec .dbgattDetach s = .next ((s.setCtx { c with debugger := false }).endCommand cmd 0 []))) ∧
    (Serves s cmd 0x61 [(8, 5), (0x10, 24)] → ∀ h, c.phase = .saved h →
      let off := field cmd 0x10 8
      let n := field cmd 0x18 8
      off % 16 = 0 → n % 16 = 0 → 1 ≤ n → n ≤ 2 ^ 24 → off + n ≤ c.saveSize →
      (field cmd 0x0C 1 = 0 → exec .saverwToHost s =
        .next ((s.hostWrite (fieldD cmd 0x20) (s.mem.read (c.saveKey + off) n)).endCommand cmd 0 [])) ∧
      (field cmd 0x0C 1 = 1 → ∃ u : State, exec .saverwToSaveArea s = .next (u.endCommand cmd 0 []) ∧
        (s.mem.wf = true → (off + n ≤ 0x50 ∨ 0x54 ≤ off) → u.mem.read (c.saveKey + off) n = s.hostRead (fieldD cmd 0x20) n) ∧
        (s.mem.wf = true → ∀ a, ¬ (c.saveKey + off ≤ a ∧ a < c.saveKey + off + n) →
          ¬ (c.saveKey + 0x50 ≤ a ∧ a < c.saveKey + 0x54) → u.mem.get a = s.mem.get a)))

/-- The commands over queues, pages, faults and displays (R441, R442, R446, R464, R475-R480): QNEW makes a queue of a header and
writes its context there, QRESTART lets a stopped queue go on, QFREE drops it; MAP and UNMAP change a leaf, POOL hands pages
to a lantern; FAULTRSP maps the page of a forwarded fault and replays it, or refuses it; DISPSET assigns an output. -/
def ResourceCommands : Prop :=
  ∀ (s : State) (cmd : Bytes),
    (∀ q, Serves s cmd 0x21 [(8, 4)] → s.queueOf q.qid = some q → field cmd 8 4 = q.qid → FramesPresent s →
      ∃ (u : State) (r : Queue), exec .qrestart s = .next (u.endCommand cmd 0 []) ∧ u.queueOf q.qid = some r ∧
        (r.stat = q.stat &&& 0x7FFFFFFF ∨ (u.ctx q.ctx).map Ctx.phase = some .terminated) ∧ r.rptr = q.rptr) ∧
    (∀ q, Serves s cmd 0x22 [(8, 4)] → s.queueOf q.qid = some q → field cmd 8 4 = q.qid →
      (s.launching q = false → exec .qfree s =
        .next (({ s with queues := s.queues.filter (fun r => r.qid ≠ q.qid) } : State).endCommand cmd 0 [])) ∧
      (s.launching q = true → exec .qfree s = .next (s.endCommand cmd 4 []))) ∧
    (∀ ps, Serves s cmd 0x32 [(8, 1), (0x0C, 12)] → field cmd 8 1 < 4 → 1 ≤ field cmd 0x0C 4 → field cmd 0x0C 4 ≤ 65536 →
      s.poolPages (field cmd 8 1) [] ((List.range (field cmd 0x0C 4)).map (fun i =>
        fieldD (s.hostRead (fieldD cmd 0x10) (8 * field cmd 0x0C 4)) (8 * i))) = some ps →
      let pool := s.pools.getD (field cmd 8 1) [] ++ ps
      exec .pool s = .next (({ s with pools := s.pools.set (field cmd 8 1) pool } : State).endCommand cmd 0 (toBytes 4 pool.length))) ∧
    (Serves s cmd 0x40 [(8, 1), (0x0C, 12)] → field cmd 8 1 < 4 → s.outputs.length = 4 → field cmd 0x0C 4 = 0 →
      ∃ u : State, exec .dispset s = .next (u.endCommand cmd 0 []) ∧ (u.outputs.getD (field cmd 8 1) Output.reset).ctx = 0 ∧
        (u.outputs.getD (field cmd 8 1) Output.reset).commits = [] ∧ u.mem = s.mem) ∧
    ∀ c : Ctx, s.ctx c.id = some c →
    (∀ h t, Serves s cmd 0x20 [(8, 4), (0x10, 8)] → field cmd 8 4 = c.id → c.phase.over = false →
      s.devRead c.id 0xFFFF (fieldD cmd 0x10) 64 = .ok h → headerBad (fieldD cmd 0x10) h = false →
      (s.accessed c.id (fieldD cmd 0x10) 64).devWrite c.id 0xFFFF (fieldD cmd 0x10 + 0x1C) (toBytes 4 c.id) = .ok t → t.stop = none →
      ∃ q : Queue, exec .qnew s = .next (({ t with queues := t.queues ++ [q], nextQueue := t.nextQueue + 1 } : State).endCommand cmd 0
          (toBytes 4 t.nextQueue)) ∧
        q.qid = t.nextQueue ∧ q.ctx = c.id ∧ q.header = fieldD cmd 0x10 ∧ q.ring = fieldD h 0 ∧ q.cap = field h 8 4 ∧
        q.wptr = fieldW h 0x0C ∧ q.rptr = fieldW h 0x10 ∧ q.startPtr = fieldW h 0x10 ∧ q.prio = field h 0x14 1 ∧
        q.slice = field h 0x15 1 ∧ q.mapped = false ∧ q.cmds = [] ∧ q.stat = 0 ∧
        q.pending = decide (fieldW h 0x0C ≠ fieldW h 0x10)) ∧
    (Serves s cmd 0x30 [(8, 4), (0x10, 16)] → field cmd 8 4 = c.id →
      (leafRefused (fieldD cmd 0x10) (fieldD cmd 0x18) = true → exec .mapLeaf s = .next (s.endCommand cmd 2 [])) ∧
      (∀ t, leafRefused (fieldD cmd 0x10) (fieldD cmd 0x18) = false → s.install c (fieldD cmd 0x10) (fieldD cmd 0x18) = some t →
        t.settleAll.stop = none → exec .mapLeaf s = .next (t.settleAll.endCommand cmd 0 []) ∧ t.mem = s.mem)) ∧
    (Serves s cmd 0x31 [(8, 4), (0x10, 8)] → field cmd 8 4 = c.id → bits (fieldD cmd 0x10) 56 8 = 0 →
      s.leaf c.id (lanOf (fieldD cmd 0x10)) (offOf (fieldD cmd 0x10)) = none →
      exec .unmapLeaf s = .next (s.endCommand cmd 0 [0])) ∧
    (∀ e, Serves s cmd 0x31 [(8, 4), (0x10, 8)] → field cmd 8 4 = c.id → bits (fieldD cmd 0x10) 56 8 = 0 → s.tlb = [] →
      s.leaf c.id (lanOf (fieldD cmd 0x10)) (offOf (fieldD cmd 0x10)) = some e →
      ∃ u : State, exec .unmapLeaf s = .next (u.endCommand cmd 0 (toBytes 1 ((bits e 61 1).toNat + 2 * (bits e 60 1).toNat))) ∧
        u.leaf c.id (lanOf (fieldD cmd 0x10)) (offOf (fieldD cmd 0x10)) = none ∧ u.mem = s.mem) ∧
    (∀ e t, Serves s cmd 0x33 [(8, 1), (0x0C, 5), (0x18, 8)] → field cmd 0x10 1 = 0 → s.forwarded cmd = some e → e.ctx = c.id →
      leafRefused (e.va &&& ~~~0xFFFF#64) (fieldD cmd 0x18) = false →
      s.install c (e.va &&& ~~~0xFFFF#64) (fieldD cmd 0x18) = some t → t.stop = none → e.kind = 5 →
      ∃ u : State, exec .faultrspMap s = .next (u.endCommand cmd 0 []) ∧ (∀ x ∈ u.faultq.getD (field cmd 8 1) [],
        field cmd 8 1 < t.faultq.length → x.seq ≠ e.seq) ∧ u.mem = s.mem) ∧
    (∀ e g w, Serves s cmd 0x33 [(8, 1), (0x0C, 5), (0x18, 8)] → field cmd 0x10 1 = 1 → fieldD cmd 0x18 = 0 →
      s.forwarded cmd = some e → e.ctx = c.id → FramesPresent s → e.kind = 3 → s.group e.grp = some g → g.warp e.wid = some w →
      g.ctx = c.id → c.phase.over = false →
      ∃ u : State, exec .faultrspRefuse s = .next (u.endCommand cmd 0 []) ∧ (s.issuing g w = false → Ends (s.dropEntry (field cmd 8 1) e.seq) u c.id 0x10 []) ∧
        (s.issuing g w = true → ∃ (v : Warp) (k : Cause), u.warp e.grp e.wid = some v ∧ v.causes = w.causes ++ [k] ∧
          k.code = 0x10 ∧ { v with causes := w.causes } = w)) ∧
    (Serves s cmd 0x40 [(8, 1), (0x0C, 12)] → field cmd 8 1 < 4 → s.outputs.length = 4 →
      let i := field cmd 8 1
      let b := s.hostRead (fieldD cmd 0x10) 128
      (field cmd 0x0C 4 = c.id → c.id ≠ 0 → c.phase.over = false → (fieldD cmd 0x10).toNat % 64 = 0 → modeBad b = false →
        modeWide b = false → ∃ u : State, exec .dispset s = .next (u.endCommand cmd 0 []) ∧
          (u.outputs.getD i Output.reset).ctx = c.id ∧ (u.outputs.getD i Output.reset).mode = b ∧
          (u.outputs.getD i Output.reset).commits = [] ∧ (u.outputs.getD i Output.reset).last = (s.outputs.getD i Output.reset).last ∧
          u.mem = s.mem))

/-- The Pelonar command set.
Where it rests on the model's own choices, log entries 72, 78, 79 name them. -/
def Obligations.PelonarCommands : Prop := CommandAnswers ∧ ModuleCommands ∧ ContextCommands ∧ ResourceCommands

/-! ### Encodings, memory and reset -/

/-- Decode and encode agree (R82-R106): the word of a well-formed instruction decodes to that instruction, and an instruction to
which a word decodes is well-formed and has that word, so that no bit of a word is dropped. -/
def Obligations.EncodingRoundTrip : Prop :=
  (∀ (i : Instr) (w : Dword), i.wf = true → encode i = some w → decodeSlot w = .ok i) ∧
  (∀ (i : Instr) (w : Dword), decodeSlot w = .ok i → encode i = some w ∧ i.wf = true)

/-- Memory (R218, R236, R250): a write gives the written byte at its address and leaves every other; the stores of one instruction
leave in each byte what the last of them that covers it stored.  The canonical form, which both keep and in which two memories that
read alike are the same data, is the model's own representation, and no rule's (log entry 2). -/
def Obligations.MemoryReadsBack : Prop :=
  (∀ (m : Mem) (a : Nat) (b : Byte), m.wf = true → (m.put a b).wf = true ∧
    ∀ x, (m.put a b).get x = if x = a then b else m.get x) ∧
  (∀ (m : Mem) (ws : List (Nat × Bytes)), m.wf = true → (m.storeAll ws).wf = true ∧
    ∀ x, (m.storeAll ws).get x = lastByte ws x (m.get x)) ∧
  (∀ m n : Mem, m.wf = true → n.wf = true → (∀ x, m.get x = n.get x) → (∀ k, m.poison.contains k = n.poison.contains k) → m = n)

/-- Every step keeps the canonical form of every memory: that of the module and its host, and the scratchpads of the groups on
cores and of the saved ones.  The form is the model's own representation, and no rule's (log entry 2). -/
def Obligations.MemoryFormKept : Prop :=
  ∀ s t : State, s.memWf = true → step s = .next t → t.memWf = true

/-- The machine at power-on (R15, R17, R29, R30, R34, R471, R474): no start has run, both clocks and the start count are 0, there is
no context, queue, group or launch, no response or doorbell stands, and its memories have the canonical form.  That its
memory reads 0 everywhere and no vault is lost is the model's choice (log entries 2 and 3). -/
def Obligations.ResetState : Prop :=
  let s := State.reset
  s.phase = .off ∧ s.clock = 0 ∧ s.ftime = 0 ∧ s.gen = 0 ∧ s.contexts = [] ∧ s.queues = [] ∧ s.groups = [] ∧ s.launches = [] ∧
  s.mbst = 0 ∧ s.irqc = 0 ∧ s.serving = none ∧ s.holdover = false ∧ s.owed = [] ∧ s.peerReqs = [] ∧ s.peerParts = [] ∧
  (∀ p < 12, (s.port p).up = false) ∧ s.memWf = true ∧ (∀ a, s.mem.get a = 0) ∧
  s.columns.length = 192 ∧ ∀ c < 192, (s.column c).bankMask = designBanks c ∧ (s.column c).vault = .normal

/-- Words written out from the encodings of R84 to R96 decode to the instructions that they stand for: IADD v3, v4, v5;
FADD `.f16x2` v10, v11, -v12; LD of global memory at v8 and v9 less 4 into v2; JMP by -2 slots; NOP; the MMA that
17_matrix_instructions encodes; ACCZ of tile 1; CPY of descriptor r6 with token v8; BAR 3; TRAP 7.  A reserved bit and a reserved opcode are refused. -/
def Obligations.WordsDecode : Prop :=
  (∃ f : VFields, decodeSlot 0x000006080A000000 = .ok (.iadd f) ∧ f.ty = 0 ∧ f.d = 3 ∧ f.a = 4 ∧ f.b = 5) ∧
  (∃ f : VFields, decodeSlot 0x4008141618000080 = .ok (.fadd f) ∧ f.ty = 1 ∧ f.d = 10 ∧ f.a = 11 ∧ f.b = 12 ∧ f.mod = 4) ∧
  (∃ f : MFields, decodeSlot 0xA00082000007FFFC = .ok (.ld f) ∧ f.d = 2 ∧ f.a = 8 ∧ f.sp = 0 ∧ f.off.toInt = -4) ∧
  (∃ f : KFields, decodeSlot 0x97000000FFFFFFFE = .ok (.jmp f) ∧ f.tgt.toInt = -2) ∧
  (∃ f : KFields, decodeSlot 0x9E00000000000000 = .ok (.nop f)) ∧
  (∃ f : XFields, decodeSlot 0xC00900080C280000 = .ok (.mma f) ∧ f.fa = 1 ∧ f.fb = 1 ∧ f.fc = 0 ∧ f.shape = 0 ∧ f.a = 8 ∧
    f.b = 12 ∧ f.c = 40) ∧
  (∃ f : XFields, decodeSlot 0xC400000000010000 = .ok (.accz f) ∧ f.c = 1) ∧
  (∃ f : EFields, decodeSlot 0xD001820000000000 = .ok (.cpy f) ∧ f.desc = 6 ∧ f.tok = 8) ∧
  (∃ f : SFields, decodeSlot 0xE000000000300000 = .ok (.bar f) ∧ f.id = 3) ∧
  (∃ f : SFields, decodeSlot 0xF000000000000007 = .ok (.trap f) ∧ f.imm = 7) ∧
  decodeSlot 0x9E40000000000000 = .error 6 ∧ decodeSlot 0x3F00000000000000 = .error 1

/-! ### Statements of several parts -/

/-- A step that the agenda names runs as that step, and a word placed where the machine fetches next runs next.
Where it rests on the model's own choices, log entries 1, 5, 6 name them. -/
def Obligations.EventsAndFetchesRun : Prop := StepRunsNamedEvent ∧ FetchedWordRuns

/-- The sums of products, and the sums and differences with carries. -/
def Obligations.IntegerSums : Prop := IntegerSumResults ∧ CarryResults

/-- Bitwise operations, shifts, fields and counts. -/
def Obligations.BitsAndShifts : Prop := BitResults ∧ ShiftCountResults

/-- Moves between registers and masks, and the shapes of registers. -/
def Obligations.RegisterMoves : Prop := MoveResults ∧ ShapeResults ∧ MaskMoveResults

/-- Floating-point operations, conversions, approximations and tables.
Where it rests on the model's own choices, log entries 10, 37, 93, 94 name them. -/
def Obligations.FloatingPoint : Prop := FloatResults ∧ PackTableResults

/-- Lane moves, votes and matches. -/
def Obligations.LaneExchange : Prop := LaneMoveResults ∧ VoteMatchResults

/-- Transfers of control other than the structured ones.
Where it rests on the model's own choices, log entries 87, 89 name them. -/
def Obligations.JumpsCallsExits : Prop := TransfersOfControl ∧ IndirectCall

/-- Atomics, fences and waits on memory.
Where it rests on the model's own choices, log entries 8, 46, 48, 116, 117, 125 name them. -/
def Obligations.AtomicsAndFences : Prop := AtomicResults ∧ FenceAndWaitv ∧ WaitvReadsAgain

/-- The block store: its instructions complete, and each does its step.
Where it rests on the model's own choices, log entries 16, 96 name them. -/
def Obligations.BlockStore : Prop := BlockStoreCompletes ∧ BlockStoreSteps

/-- Matrix loops: their issue, and their steps.
Where it rests on the model's own choices, log entries 53, 99, 118, 119 name them. -/
def Obligations.MatrixLoops : Prop := LoopIssue ∧ LoopSteps

/-- Moves between tiles and memory.
Where it rests on the model's own choices, log entries 54, 119, 120, 121, 123 name them. -/
def Obligations.TileMoves : Prop := TileMoveIssue ∧ TileLoaded

/-- The operations of the engines, as they are issued.
Where it rests on the model's own choices, log entries 55, 56, 57, 58, 98, 101, 108 name them. -/
def Obligations.EngineOperationsIssue : Prop := EngineIssue ∧ MergeIssue

/-- The operations of the engines, as they run and end.
Where it rests on the model's own choices, log entries 55, 57, 58, 100 name them. -/
def Obligations.EngineOperationsEnd : Prop := EngineOperationEnds ∧ EngineEvents

/-- Records for other nodes, and regrouping.
Where it rests on the model's own choices, log entries 51, 60 name them. -/
def Obligations.RecordsAndRegrouping : Prop := RecordInstructions ∧ Regrouping

/-- Codebook banks, group registers, signals, sleep and frame commits.
Where it rests on the model's own choices, log entries 61, 62 name them. -/
def Obligations.GroupStateInstructions : Prop := BankAndGroupRegisters ∧ SignalSleepFrame

/-- Software traps, and what a handler does at its end.
Where it rests on the model's own choices, log entries 40, 41, 109 name them. -/
def Obligations.TrapsAndReturns : Prop := TrapInstructions ∧ HandlerReturn

/-- What becomes of the warp that a partition looks at.
Where it rests on the model's own choices, log entries 83, 88, 97 name them. -/
def Obligations.ClausesStart : Prop := ClauseStarts ∧ ClauseFaults

/-- Traps are delivered, contexts end, and handlers are entered.
Where it rests on the model's own choices, log entries 38, 40, 106 name them. -/
def Obligations.TrapEvents : Prop := TrapsDelivered ∧ EndingContexts ∧ HandlerEntered

/-- Watchdogs, and the end of a warp and of its group.
Where it rests on the model's own choices, log entries 63, 67, 105, 106, 116, 124 name them. -/
def Obligations.WatchdogsAndRetirement : Prop := WatchdogsEnd ∧ UnacknowledgedWrite ∧ WarpsRetire

/-- Groups come onto cores, and their bindings complete.
Where it rests on the model's own choices, log entries 2, 17, 68, 70, 71, 103, 109 name them (2: what an unwritten scratchpad byte
reads as). -/
def Obligations.Placement : Prop := GroupsPlaced ∧ BindingsComplete

/-- Triangles are set up and rasterised.
Where it rests on the model's own choices, log entries 66, 67 name them. -/
def Obligations.Rasterisation : Prop := TrianglesSetUp ∧ TilesRasterised

/-- A pass closes, and its tiles are classified.
Where it rests on the model's own choices, log entries 65, 67 name them. -/
def Obligations.PassEnds : Prop := PassesClose ∧ TilesClassified

/-- The scheduler, and the saving of contexts.
Where it rests on the model's own choices, log entries 72, 73, 97, 102, 104 name them. -/
def Obligations.SchedulingAndSaves : Prop := SchedulerSteps ∧ ContextSaves
end

