-- ==== Sys2Proof/Laws/Encoding.lean ====
section
/-! SUPPORT. Reading the fields of a word that the encoder wrote: every field comes back. -/

namespace Sys2Proof

theorem put_getLsbD {n : Nat} (x : BitVec n) (lo i : Nat) :
    (put x lo).getLsbD i = (decide (i < 64) && (decide (lo ≤ i) && x.getLsbD (i - lo))) := by
  by_cases h : i < 64
  · by_cases h2 : i < lo
    · have : ¬ lo ≤ i := by omega
      simp [put, BitVec.getLsbD_shiftLeft, h2, this]
    · have h3 : lo ≤ i := by omega
      have h4 : i - lo < 64 := by omega
      simp [put, h, h2, h3]
  · simp [put, h]

end Sys2Proof
end

