-- ==== Sys2Proof/Laws/Memory.lean ====
section
/-! SUPPORT. Laws of memory: every operation keeps the canonical form, and what a byte reads after each of them. -/

namespace Sys2Proof.Machine

/-! ### Cells -/

/-- A list in form from `lo` on is in form from any lower address on. -/
theorem cellsWf_mono {lo lo' : Nat} (h : lo' ≤ lo) : ∀ l : List Host.Cell, cellsWf lo l = true → cellsWf lo' l = true
  | [], _ => rfl
  | (k, b) :: t, w => by
    simp only [cellsWf, Bool.and_eq_true, decide_eq_true_eq] at w ⊢
    exact ⟨⟨by omega, w.1.2⟩, w.2⟩

/-- The same of a rising list of numbers. -/
theorem natsWf_mono {lo lo' : Nat} (h : lo' ≤ lo) : ∀ l : List Nat, natsWf lo l = true → natsWf lo' l = true
  | [], _ => rfl
  | k :: t, w => by
    simp only [natsWf, Bool.and_eq_true, decide_eq_true_eq] at w ⊢
    exact ⟨by omega, w.2⟩

/-- Below the first address of a list every byte reads 0. -/
theorem cellGet_below : ∀ (l : List Host.Cell) (lo a : Nat), cellsWf lo l = true → a < lo → cellGet l a = 0
  | [], _, _, _, _ => rfl
  | (k, b) :: t, lo, a, w, h => by
    simp only [cellsWf, Bool.and_eq_true, decide_eq_true_eq] at w
    simp only [cellGet]
    rw [if_neg (by omega), if_pos (by omega)]

/-- Writing a byte keeps the form. -/
theorem cellPut_wf : ∀ (l : List Host.Cell) (lo a : Nat) (b : Byte), cellsWf lo l = true → lo ≤ a →
    cellsWf lo (cellPut l a b) = true
  | [], lo, a, b, _, h => by
    simp only [cellPut]
    split
    · rfl
    · rename_i hb
      simp only [cellsWf, Bool.and_eq_true, decide_eq_true_eq]
      exact ⟨⟨h, hb⟩, trivial⟩
  | (k, c) :: t, lo, a, b, w, h => by
    have w' := w
    simp only [cellsWf, Bool.and_eq_true, decide_eq_true_eq] at w'
    simp only [cellPut]
    split
    · rename_i hk
      by_cases hb : b = 0
      · simpa [hb] using w
      · simp only [if_neg hb, cellsWf, Bool.and_eq_true, decide_eq_true_eq]
        exact ⟨⟨h, hb⟩, ⟨by omega, w'.1.2⟩, w'.2⟩
    · split
      · rename_i hk he
        subst he
        by_cases hb : b = 0
        · simpa [hb] using cellsWf_mono (by omega) t w'.2
        · simp only [if_neg hb, cellsWf, Bool.and_eq_true, decide_eq_true_eq]
          exact ⟨⟨h, hb⟩, w'.2⟩
      · simp only [cellsWf, Bool.and_eq_true, decide_eq_true_eq]
        exact ⟨w'.1, cellPut_wf t (k + 1) a b w'.2 (by omega)⟩

/-- A byte reads as written, and every other as before. -/
theorem cellGet_cellPut : ∀ (l : List Host.Cell) (lo a : Nat) (b : Byte) (x : Nat), cellsWf lo l = true →
    cellGet (cellPut l a b) x = if x = a then b else cellGet l x
  | [], lo, a, b, x, _ => by
    by_cases hb : b = 0
    · simp [cellPut, cellGet, hb]
    · simp only [cellPut, if_neg hb, cellGet]
      repeat' split
      all_goals first | rfl | omega
  | (k, c) :: t, lo, a, b, x, w => by
    have w' := w
    simp only [cellsWf, Bool.and_eq_true, decide_eq_true_eq] at w'
    have low := cellGet_below t (k + 1)
    simp only [cellPut]
    split
    · by_cases hb : b = 0
      · simp only [hb, if_true, cellGet]
        repeat' split
        all_goals first | rfl | omega
      · simp only [if_neg hb, cellGet]
        repeat' split
        all_goals first | rfl | omega
    · split
      · rename_i _ he
        subst he
        by_cases hb : b = 0
        · simp only [hb, if_true, cellGet]
          split
          · rename_i hx; subst hx; exact low _ w'.2 (by omega)
          · rw [if_neg (by omega)]
            split
            · exact low x w'.2 (by omega)
            · rfl
        · simp only [if_neg hb, cellGet]
          repeat' split
          all_goals first | rfl | omega
      · simp only [cellGet, cellGet_cellPut t (k + 1) a b x w'.2]
        repeat' split
        all_goals first | rfl | omega

/-- Two lists in form that read alike are one list. -/
theorem cells_ext : ∀ (l m : List Host.Cell) (lo : Nat), cellsWf lo l = true → cellsWf lo m = true →
    (∀ x, cellGet l x = cellGet m x) → l = m
  | [], [], _, _, _, _ => rfl
  | [], (k, c) :: t, _, _, w, h => by
    simp only [cellsWf, Bool.and_eq_true, decide_eq_true_eq] at w
    exact absurd (by simpa [cellGet] using (h k).symm) w.1.2
  | (k, c) :: t, [], _, w, _, h => by
    simp only [cellsWf, Bool.and_eq_true, decide_eq_true_eq] at w
    exact absurd (by simpa [cellGet] using h k) w.1.2
  | (k, c) :: t, (j, d) :: u, lo, w, v, h => by
    simp only [cellsWf, Bool.and_eq_true, decide_eq_true_eq] at w v
    have hk := h k
    have hj := h j
    simp only [cellGet] at hk hj
    have e : k = j := by
      rcases Nat.lt_trichotomy k j with l | e | l
      · rw [if_pos trivial, if_neg (by omega), if_pos l] at hk; exact absurd hk w.1.2
      · exact e
      · rw [if_neg (by omega), if_pos l, if_pos trivial] at hj; exact absurd hj.symm v.1.2
    subst e
    rw [if_pos trivial, if_pos rfl] at hk
    subst hk
    rw [cells_ext t u (k + 1) w.2 v.2]
    intro x
    have hx := h x
    simp only [cellGet] at hx
    by_cases l : x < k + 1
    · rw [cellGet_below t _ _ w.2 l, cellGet_below u _ _ v.2 l]
    · rwa [if_neg (by omega), if_neg (by omega), if_neg (by omega), if_neg (by omega)] at hx

/-- Cells picked out of a list in form are in form. -/
theorem cellsWf_filter (p : Host.Cell → Bool) : ∀ (l : List Host.Cell) (lo : Nat), cellsWf lo l = true →
    cellsWf lo (l.filter p) = true
  | [], _, _ => rfl
  | (k, c) :: t, lo, w => by
    simp only [cellsWf, Bool.and_eq_true, decide_eq_true_eq] at w
    have r := cellsWf_filter p t (k + 1) w.2
    rw [List.filter_cons]
    split
    · simp only [cellsWf, Bool.and_eq_true, decide_eq_true_eq]; exact ⟨w.1, r⟩
    · exact cellsWf_mono (by omega) _ r

/-- A byte of the cells picked by address. -/
theorem cellGet_filter (p : Nat → Bool) : ∀ (l : List Host.Cell) (lo a : Nat), cellsWf lo l = true →
    cellGet (l.filter (fun c => p c.1)) a = if p a then cellGet l a else 0
  | [], _, _, _ => by simp [cellGet]
  | (k, c) :: t, lo, a, w => by
    simp only [cellsWf, Bool.and_eq_true, decide_eq_true_eq] at w
    have r := cellGet_filter p t (k + 1) a w.2
    have low := cellGet_below t (k + 1) a w.2
    rw [List.filter_cons]
    by_cases hp : p k
    · simp only [if_pos hp, cellGet, r]
      repeat' split
      all_goals first | rfl | (subst_vars; simp_all)
    · simp only [if_neg hp, cellGet, r]
      by_cases e : k = a
      · subst e; simp [hp]
      · rw [if_neg e]
        by_cases l : a < k
        · rw [if_pos l, low (by omega)]
        · rw [if_neg l]

/-! ### Poison -/

/-- One more sector keeps the form. -/
theorem natPut_wf : ∀ (l : List Nat) (lo a : Nat), natsWf lo l = true → lo ≤ a → natsWf lo (natPut l a) = true
  | [], lo, a, _, h => by simp [natPut, natsWf, h]
  | k :: t, lo, a, w, h => by
    have w' := w
    simp only [natsWf, Bool.and_eq_true, decide_eq_true_eq] at w'
    simp only [natPut]
    split
    · simp only [natsWf, Bool.and_eq_true, decide_eq_true_eq]; exact ⟨h, by omega, w'.2⟩
    · split
      · exact w
      · simp only [natsWf, Bool.and_eq_true, decide_eq_true_eq]
        exact ⟨w'.1, natPut_wf t (k + 1) a w'.2 (by omega)⟩

/-- What a list holds after one more number. -/
theorem mem_natPut : ∀ (l : List Nat) (a x : Nat), x ∈ natPut l a ↔ x = a ∨ x ∈ l
  | [], a, x => by simp [natPut]
  | k :: t, a, x => by
    simp only [natPut]
    split
    · simp
    · split
      · subst_vars; simp
      · simp only [List.mem_cons, mem_natPut t a x, or_left_comm]

/-- Every number of a list in form is at least its bound. -/
theorem natsWf_le : ∀ (l : List Nat) (lo x : Nat), natsWf lo l = true → x ∈ l → lo ≤ x
  | [], _, _, _, h => by simp at h
  | k :: t, lo, x, w, h => by
    simp only [natsWf, Bool.and_eq_true, decide_eq_true_eq] at w
    rcases List.mem_cons.1 h with e | h
    · omega
    · have := natsWf_le t (k + 1) x w.2 h; omega

/-- Two lists in form with the same numbers are one list. -/
theorem nats_ext : ∀ (l m : List Nat) (lo : Nat), natsWf lo l = true → natsWf lo m = true → (∀ x, x ∈ l ↔ x ∈ m) → l = m
  | [], [], _, _, _, _ => rfl
  | [], j :: u, _, _, _, h => absurd ((h j).2 (by simp)) (by simp)
  | k :: t, [], _, _, _, h => absurd ((h k).1 (by simp)) (by simp)
  | k :: t, j :: u, lo, w, v, h => by
    simp only [natsWf, Bool.and_eq_true, decide_eq_true_eq] at w v
    have lt := natsWf_le t (k + 1)
    have lu := natsWf_le u (j + 1)
    have e : k = j := by
      rcases List.mem_cons.1 ((h k).1 (by simp)) with e | hk
      · exact e
      · rcases List.mem_cons.1 ((h j).2 (by simp)) with e | hj
        · exact e.symm
        · have := lu k v.2 hk; have := lt j w.2 hj; omega
    subst e
    rw [nats_ext t u (k + 1) w.2 v.2]
    intro x
    have hx := h x
    simp only [List.mem_cons] at hx
    constructor
    · intro m
      rcases hx.1 (.inr m) with e | m'
      · have := lt x w.2 m; omega
      · exact m'
    · intro m
      rcases hx.2 (.inr m) with e | m'
      · have := lu x v.2 m; omega
      · exact m'

/-- Numbers picked out of a list in form are in form. -/
theorem natsWf_filter (p : Nat → Bool) : ∀ (l : List Nat) (lo : Nat), natsWf lo l = true → natsWf lo (l.filter p) = true
  | [], _, _ => rfl
  | k :: t, lo, w => by
    simp only [natsWf, Bool.and_eq_true, decide_eq_true_eq] at w
    have r := natsWf_filter p t (k + 1) w.2
    rw [List.filter_cons]
    split
    · simp only [natsWf, Bool.and_eq_true, decide_eq_true_eq]; exact ⟨w.1, r⟩
    · exact natsWf_mono (by omega) _ r

/-- Many numbers put in keep the form. -/
theorem foldl_natPut_wf (f : Nat → Nat) : ∀ (ks l : List Nat), natsWf 0 l = true →
    natsWf 0 (ks.foldl (fun l k => natPut l (f k)) l) = true
  | [], _, w => w
  | k :: ks, l, w => foldl_natPut_wf f ks _ (natPut_wf l 0 (f k) w (Nat.zero_le _))

/-- Many cells put in keep the form. -/
theorem foldl_cellPut_wf (f : Host.Cell → Nat) : ∀ (cs l : List Host.Cell), cellsWf 0 l = true →
    cellsWf 0 (cs.foldl (fun l c => cellPut l (f c) c.2) l) = true
  | [], _, w => w
  | c :: cs, l, w => foldl_cellPut_wf f cs _ (cellPut_wf l 0 (f c) c.2 w (Nat.zero_le _))

/-! ### The operations of memory keep its form -/

/-- The form of a memory is that of its cells and of its poison. -/
theorem Mem.wf_iff (m : Mem) : m.wf = true ↔ cellsWf 0 m.cells = true ∧ natsWf 0 m.poison = true := by
  simp [Mem.wf]

theorem Mem.empty_wf : Mem.empty.wf = true := rfl

theorem Mem.put_wf {m : Mem} (w : m.wf = true) (a : Nat) (b : Byte) : (m.put a b).wf = true := by
  rw [Mem.wf_iff] at w ⊢
  exact ⟨cellPut_wf m.cells 0 a b w.1 (Nat.zero_le _), w.2⟩

theorem Mem.write_wf : ∀ (bs : Bytes) {m : Mem} (_ : m.wf = true) (a : Nat), (m.write a bs).wf = true
  | [], _, w, _ => w
  | b :: t, _, w, a => Mem.write_wf t (Mem.put_wf w a b) (a + 1)

theorem Mem.poisonRange_wf {m : Mem} (w : m.wf = true) (a n : Nat) : (m.poisonRange a n).wf = true := by
  rw [Mem.wf_iff] at w ⊢
  exact ⟨w.1, foldl_natPut_wf id (sectors a n) m.poison w.2⟩

theorem Mem.healAll_wf {m : Mem} (w : m.wf = true) (ws : List (Nat × Bytes)) : (m.healAll ws).wf = true := by
  rw [Mem.wf_iff] at w ⊢
  exact ⟨w.1, natsWf_filter _ _ 0 w.2⟩

theorem Mem.foldl_write_wf : ∀ (ws : List (Nat × Bytes)) {m : Mem} (_ : m.wf = true),
    (ws.foldl (fun m w => m.write w.1 w.2) m).wf = true
  | [], _, w => w
  | x :: ws, _, w => Mem.foldl_write_wf ws (Mem.write_wf x.2 w x.1)

theorem Mem.storeAll_wf {m : Mem} (w : m.wf = true) (ws : List (Nat × Bytes)) : (m.storeAll ws).wf = true :=
  Mem.healAll_wf (Mem.foldl_write_wf ws w) ws

theorem Mem.clear_wf {m : Mem} (w : m.wf = true) (a n : Nat) : (m.clear a n).wf = true := by
  rw [Mem.wf_iff] at w ⊢
  exact ⟨cellsWf_filter _ _ 0 w.1, natsWf_filter _ _ 0 w.2⟩

theorem Mem.copyRange_wf {m : Mem} (w : m.wf = true) (src dst n : Nat) : (m.copyRange src dst n).wf = true := by
  have c := Mem.clear_wf w dst n
  rw [Mem.wf_iff] at c ⊢
  exact ⟨foldl_cellPut_wf (fun x => x.1 - src + dst) _ _ c.1, foldl_natPut_wf (fun k => k - src / 32 + dst / 32) _ _ c.2⟩

theorem Mem.taint_wf {m : Mem} (w : m.wf = true) (a : Nat) (bs : List Marked) : (m.taint a bs).wf = true := by
  have go : ∀ (l : List (Nat × Marked)) (m : Mem), m.wf = true →
      (l.foldl (fun m x => if x.2.2 then m.poisonRange (a + x.1) 1 else m) m).wf = true := by
    intro l
    induction l with
    | nil => intro m w; exact w
    | cons x l ih =>
      intro m w
      simp only [List.foldl_cons]
      split
      · exact ih _ (Mem.poisonRange_wf w _ _)
      · exact ih _ w
  exact go _ m w

/-! ### What a byte reads after them -/

@[simp] theorem Mem.empty_get (a : Nat) : Mem.empty.get a = 0 := rfl

theorem Mem.put_get {m : Mem} (w : m.wf = true) (a : Nat) (b : Byte) (x : Nat) :
    (m.put a b).get x = if x = a then b else m.get x :=
  cellGet_cellPut m.cells 0 a b x ((Mem.wf_iff m).1 w).1

/-- A byte before a written range, or after it, reads as before. -/
theorem Mem.write_get_out : ∀ (bs : Bytes) {m : Mem} (_ : m.wf = true) (a x : Nat), (x < a ∨ a + bs.length ≤ x) →
    (m.write a bs).get x = m.get x
  | [], _, _, _, _, _ => rfl
  | b :: t, m, w, a, x, h => by
    simp only [List.length_cons] at h
    simp only [Mem.write]
    rw [Mem.write_get_out t (Mem.put_wf w a b) (a + 1) x (by omega), Mem.put_get w, if_neg (by omega)]

/-- A byte of a written range reads as written. -/
theorem Mem.write_get_in : ∀ (bs : Bytes) {m : Mem} (_ : m.wf = true) (a i : Nat), i < bs.length →
    (m.write a bs).get (a + i) = bs.getD i 0
  | [], _, _, _, _, h => by simp at h
  | b :: t, m, w, a, 0, _ => by
    simp only [Mem.write, Nat.add_zero]
    rw [Mem.write_get_out t (Mem.put_wf w a b) (a + 1) a (.inl (by omega)), Mem.put_get w, if_pos rfl]
    rfl
  | b :: t, m, w, a, i + 1, h => by
    simp only [List.length_cons] at h
    have r := Mem.write_get_in t (Mem.put_wf w a b) (a + 1) i (by omega)
    simp only [Mem.write]
    rw [show a + (i + 1) = a + 1 + i by omega, r]
    rfl

@[simp] theorem Mem.poisonRange_get (m : Mem) (a n x : Nat) : (m.poisonRange a n).get x = m.get x := rfl
@[simp] theorem Mem.healAll_get (m : Mem) (ws : List (Nat × Bytes)) (x : Nat) : (m.healAll ws).get x = m.get x := rfl

/-- A cleared byte reads 0, and every other as before. -/
theorem Mem.clear_get {m : Mem} (w : m.wf = true) (a n x : Nat) :
    (m.clear a n).get x = if x < a ∨ a + n ≤ x then m.get x else 0 := by
  have r := cellGet_filter (fun k => decide (k < a) || decide (a + n ≤ k)) m.cells 0 x ((Mem.wf_iff m).1 w).1
  simpa [Mem.get, Mem.clear] using r

/-- What a range of sectors adds to the poison. -/
theorem mem_foldl_natPut : ∀ (ks l : List Nat) (x : Nat), x ∈ ks.foldl natPut l ↔ x ∈ ks ∨ x ∈ l
  | [], _, _ => by simp
  | k :: ks, l, x => by
    rw [List.foldl_cons, mem_foldl_natPut ks, mem_natPut, List.mem_cons, or_assoc, or_left_comm]

/-- The bytes read are as many as were asked for. -/
@[simp] theorem Mem.read_length (m : Mem) (a n : Nat) : (m.read a n).length = n := by simp [Mem.read]

/-! ### Bytes of numbers -/

@[simp] theorem toBytes_length : ∀ n x : Nat, (toBytes n x).length = n
  | 0, _ => rfl
  | n + 1, x => by simp [toBytes, toBytes_length n]

/-- The number that the bytes of a number hold (R4). -/
theorem leNat_toBytes : ∀ n x : Nat, leNat (toBytes n x) = x % 256 ^ n
  | 0, x => by simp [toBytes, leNat, Nat.mod_one]
  | n + 1, x => by
    simp only [toBytes, leNat, leNat_toBytes n, BitVec.toNat_ofNat]
    have e : 256 ^ (n + 1) = 256 * 256 ^ n := by rw [Nat.pow_succ, Nat.mul_comm]
    rw [e, Nat.mod_mul]

@[simp] theorem leNat_wordBytes (w : Word) : leNat (wordBytes w) = w.toNat := by
  rw [wordBytes, leNat_toBytes]; exact Nat.mod_eq_of_lt w.isLt

@[simp] theorem leNat_dwordBytes (w : Dword) : leNat (dwordBytes w) = w.toNat := by
  rw [dwordBytes, leNat_toBytes]; exact Nat.mod_eq_of_lt w.isLt

end Sys2Proof.Machine
end

