-- ==== Sys2Proof/Laws/State.lean ====
section
/-! SUPPORT. The fields of the machine, of a group and of a warp after each named update: a field that the update does not name
is as it was. -/

namespace Sys2Proof.Machine

/-! ### State.setColumn -/

@[simp] theorem State.setColumn_agenda (s : State) (c : Nat) (x : Column) : (s.setColumn c x).agenda = s.agenda := rfl
@[simp] theorem State.setColumn_round (s : State) (c : Nat) (x : Column) : (s.setColumn c x).round = s.round := rfl
@[simp] theorem State.setColumn_fresh (s : State) (c : Nat) (x : Column) : (s.setColumn c x).fresh = s.fresh := rfl
@[simp] theorem State.setColumn_issuer (s : State) (c : Nat) (x : Column) : (s.setColumn c x).issuer = s.issuer := rfl
@[simp] theorem State.setColumn_stop (s : State) (c : Nat) (x : Column) : (s.setColumn c x).stop = s.stop := rfl
@[simp] theorem State.setColumn_clock (s : State) (c : Nat) (x : Column) : (s.setColumn c x).clock = s.clock := rfl
@[simp] theorem State.setColumn_ftime (s : State) (c : Nat) (x : Column) : (s.setColumn c x).ftime = s.ftime := rfl
@[simp] theorem State.setColumn_ftimeRem (s : State) (c : Nat) (x : Column) : (s.setColumn c x).ftimeRem = s.ftimeRem := rfl
@[simp] theorem State.setColumn_ftimeSlow (s : State) (c : Nat) (x : Column) : (s.setColumn c x).ftimeSlow = s.ftimeSlow := rfl
@[simp] theorem State.setColumn_acquired (s : State) (c : Nat) (x : Column) : (s.setColumn c x).acquired = s.acquired := rfl
@[simp] theorem State.setColumn_holdover (s : State) (c : Nat) (x : Column) : (s.setColumn c x).holdover = s.holdover := rfl
@[simp] theorem State.setColumn_lastBeacon (s : State) (c : Nat) (x : Column) : (s.setColumn c x).lastBeacon = s.lastBeacon := rfl
@[simp] theorem State.setColumn_phase (s : State) (c : Nat) (x : Column) : (s.setColumn c x).phase = s.phase := rfl
@[simp] theorem State.setColumn_fallback (s : State) (c : Nat) (x : Column) : (s.setColumn c x).fallback = s.fallback := rfl
@[simp] theorem State.setColumn_gen (s : State) (c : Nat) (x : Column) : (s.setColumn c x).gen = s.gen := rfl
@[simp] theorem State.setColumn_devid (s : State) (c : Nat) (x : Column) : (s.setColumn c x).devid = s.devid := rfl
@[simp] theorem State.setColumn_switch (s : State) (c : Nat) (x : Column) : (s.setColumn c x).switch = s.switch := rfl
@[simp] theorem State.setColumn_step6 (s : State) (c : Nat) (x : Column) : (s.setColumn c x).step6 = s.step6 := rfl
@[simp] theorem State.setColumn_discovery (s : State) (c : Nat) (x : Column) : (s.setColumn c x).discovery = s.discovery := rfl
@[simp] theorem State.setColumn_keyed (s : State) (c : Nat) (x : Column) : (s.setColumn c x).keyed = s.keyed := rfl
@[simp] theorem State.setColumn_mem (s : State) (c : Nat) (x : Column) : (s.setColumn c x).mem = s.mem := rfl
@[simp] theorem State.setColumn_groups (s : State) (c : Nat) (x : Column) : (s.setColumn c x).groups = s.groups := rfl
@[simp] theorem State.setColumn_nextGroup (s : State) (c : Nat) (x : Column) : (s.setColumn c x).nextGroup = s.nextGroup := rfl
@[simp] theorem State.setColumn_launches (s : State) (c : Nat) (x : Column) : (s.setColumn c x).launches = s.launches := rfl
@[simp] theorem State.setColumn_nextLaunch (s : State) (c : Nat) (x : Column) : (s.setColumn c x).nextLaunch = s.nextLaunch := rfl
@[simp] theorem State.setColumn_contexts (s : State) (c : Nat) (x : Column) : (s.setColumn c x).contexts = s.contexts := rfl
@[simp] theorem State.setColumn_nextCtx (s : State) (c : Nat) (x : Column) : (s.setColumn c x).nextCtx = s.nextCtx := rfl
@[simp] theorem State.setColumn_tables (s : State) (c : Nat) (x : Column) : (s.setColumn c x).tables = s.tables := rfl
@[simp] theorem State.setColumn_nextTable (s : State) (c : Nat) (x : Column) : (s.setColumn c x).nextTable = s.nextTable := rfl
@[simp] theorem State.setColumn_tlb (s : State) (c : Nat) (x : Column) : (s.setColumn c x).tlb = s.tlb := rfl
@[simp] theorem State.setColumn_pools (s : State) (c : Nat) (x : Column) : (s.setColumn c x).pools = s.pools := rfl
@[simp] theorem State.setColumn_faultq (s : State) (c : Nat) (x : Column) : (s.setColumn c x).faultq = s.faultq := rfl
@[simp] theorem State.setColumn_faultWait (s : State) (c : Nat) (x : Column) : (s.setColumn c x).faultWait = s.faultWait := rfl
@[simp] theorem State.setColumn_faultSeq (s : State) (c : Nat) (x : Column) : (s.setColumn c x).faultSeq = s.faultSeq := rfl
@[simp] theorem State.setColumn_queues (s : State) (c : Nat) (x : Column) : (s.setColumn c x).queues = s.queues := rfl
@[simp] theorem State.setColumn_nextQueue (s : State) (c : Nat) (x : Column) : (s.setColumn c x).nextQueue = s.nextQueue := rfl
@[simp] theorem State.setColumn_wakes (s : State) (c : Nat) (x : Column) : (s.setColumn c x).wakes = s.wakes := rfl
@[simp] theorem State.setColumn_wakeAll (s : State) (c : Nat) (x : Column) : (s.setColumn c x).wakeAll = s.wakeAll := rfl
@[simp] theorem State.setColumn_wakeOver (s : State) (c : Nat) (x : Column) : (s.setColumn c x).wakeOver = s.wakeOver := rfl
@[simp] theorem State.setColumn_lastBoundary (s : State) (c : Nat) (x : Column) : (s.setColumn c x).lastBoundary = s.lastBoundary := rfl
@[simp] theorem State.setColumn_mbcmd (s : State) (c : Nat) (x : Column) : (s.setColumn c x).mbcmd = s.mbcmd := rfl
@[simp] theorem State.setColumn_mbrsp (s : State) (c : Nat) (x : Column) : (s.setColumn c x).mbrsp = s.mbrsp := rfl
@[simp] theorem State.setColumn_mbst (s : State) (c : Nat) (x : Column) : (s.setColumn c x).mbst = s.mbst := rfl
@[simp] theorem State.setColumn_serving (s : State) (c : Nat) (x : Column) : (s.setColumn c x).serving = s.serving := rfl
@[simp] theorem State.setColumn_begun (s : State) (c : Nat) (x : Column) : (s.setColumn c x).begun = s.begun := rfl
@[simp] theorem State.setColumn_resetCmd (s : State) (c : Nat) (x : Column) : (s.setColumn c x).resetCmd = s.resetCmd := rfl
@[simp] theorem State.setColumn_irqc (s : State) (c : Nat) (x : Column) : (s.setColumn c x).irqc = s.irqc := rfl
@[simp] theorem State.setColumn_ports (s : State) (c : Nat) (x : Column) : (s.setColumn c x).ports = s.ports := rfl
@[simp] theorem State.setColumn_nextTag (s : State) (c : Nat) (x : Column) : (s.setColumn c x).nextTag = s.nextTag := rfl
@[simp] theorem State.setColumn_peerReqs (s : State) (c : Nat) (x : Column) : (s.setColumn c x).peerReqs = s.peerReqs := rfl
@[simp] theorem State.setColumn_peerParts (s : State) (c : Nat) (x : Column) : (s.setColumn c x).peerParts = s.peerParts := rfl
@[simp] theorem State.setColumn_owed (s : State) (c : Nat) (x : Column) : (s.setColumn c x).owed = s.owed := rfl
@[simp] theorem State.setColumn_poseReg (s : State) (c : Nat) (x : Column) : (s.setColumn c x).poseReg = s.poseReg := rfl
@[simp] theorem State.setColumn_outputs (s : State) (c : Nat) (x : Column) : (s.setColumn c x).outputs = s.outputs := rfl
@[simp] theorem State.setColumn_memTemp (s : State) (c : Nat) (x : Column) : (s.setColumn c x).memTemp = s.memTemp := rfl
@[simp] theorem State.setColumn_memHot (s : State) (c : Nat) (x : Column) : (s.setColumn c x).memHot = s.memHot := rfl
@[simp] theorem State.setColumn_ring (s : State) (c : Nat) (x : Column) : (s.setColumn c x).ring = s.ring := rfl
@[simp] theorem State.setColumn_milliVolt (s : State) (c : Nat) (x : Column) : (s.setColumn c x).milliVolt = s.milliVolt := rfl
@[simp] theorem State.setColumn_lastSample (s : State) (c : Nat) (x : Column) : (s.setColumn c x).lastSample = s.lastSample := rfl
@[simp] theorem State.setColumn_events (s : State) (c : Nat) (x : Column) : (s.setColumn c x).events = s.events := rfl
@[simp] theorem State.setColumn_nextEvent (s : State) (c : Nat) (x : Column) : (s.setColumn c x).nextEvent = s.nextEvent := rfl

/-! ### State.updColumn -/

@[simp] theorem State.updColumn_agenda (s : State) (c : Nat) (f : Column → Column) : (s.updColumn c f).agenda = s.agenda := rfl
@[simp] theorem State.updColumn_round (s : State) (c : Nat) (f : Column → Column) : (s.updColumn c f).round = s.round := rfl
@[simp] theorem State.updColumn_fresh (s : State) (c : Nat) (f : Column → Column) : (s.updColumn c f).fresh = s.fresh := rfl
@[simp] theorem State.updColumn_issuer (s : State) (c : Nat) (f : Column → Column) : (s.updColumn c f).issuer = s.issuer := rfl
@[simp] theorem State.updColumn_stop (s : State) (c : Nat) (f : Column → Column) : (s.updColumn c f).stop = s.stop := rfl
@[simp] theorem State.updColumn_clock (s : State) (c : Nat) (f : Column → Column) : (s.updColumn c f).clock = s.clock := rfl
@[simp] theorem State.updColumn_ftime (s : State) (c : Nat) (f : Column → Column) : (s.updColumn c f).ftime = s.ftime := rfl
@[simp] theorem State.updColumn_ftimeRem (s : State) (c : Nat) (f : Column → Column) : (s.updColumn c f).ftimeRem = s.ftimeRem := rfl
@[simp] theorem State.updColumn_ftimeSlow (s : State) (c : Nat) (f : Column → Column) : (s.updColumn c f).ftimeSlow = s.ftimeSlow := rfl
@[simp] theorem State.updColumn_acquired (s : State) (c : Nat) (f : Column → Column) : (s.updColumn c f).acquired = s.acquired := rfl
@[simp] theorem State.updColumn_holdover (s : State) (c : Nat) (f : Column → Column) : (s.updColumn c f).holdover = s.holdover := rfl
@[simp] theorem State.updColumn_lastBeacon (s : State) (c : Nat) (f : Column → Column) : (s.updColumn c f).lastBeacon = s.lastBeacon := rfl
@[simp] theorem State.updColumn_phase (s : State) (c : Nat) (f : Column → Column) : (s.updColumn c f).phase = s.phase := rfl
@[simp] theorem State.updColumn_fallback (s : State) (c : Nat) (f : Column → Column) : (s.updColumn c f).fallback = s.fallback := rfl
@[simp] theorem State.updColumn_gen (s : State) (c : Nat) (f : Column → Column) : (s.updColumn c f).gen = s.gen := rfl
@[simp] theorem State.updColumn_devid (s : State) (c : Nat) (f : Column → Column) : (s.updColumn c f).devid = s.devid := rfl
@[simp] theorem State.updColumn_switch (s : State) (c : Nat) (f : Column → Column) : (s.updColumn c f).switch = s.switch := rfl
@[simp] theorem State.updColumn_step6 (s : State) (c : Nat) (f : Column → Column) : (s.updColumn c f).step6 = s.step6 := rfl
@[simp] theorem State.updColumn_discovery (s : State) (c : Nat) (f : Column → Column) : (s.updColumn c f).discovery = s.discovery := rfl
@[simp] theorem State.updColumn_keyed (s : State) (c : Nat) (f : Column → Column) : (s.updColumn c f).keyed = s.keyed := rfl
@[simp] theorem State.updColumn_mem (s : State) (c : Nat) (f : Column → Column) : (s.updColumn c f).mem = s.mem := rfl
@[simp] theorem State.updColumn_groups (s : State) (c : Nat) (f : Column → Column) : (s.updColumn c f).groups = s.groups := rfl
@[simp] theorem State.updColumn_nextGroup (s : State) (c : Nat) (f : Column → Column) : (s.updColumn c f).nextGroup = s.nextGroup := rfl
@[simp] theorem State.updColumn_launches (s : State) (c : Nat) (f : Column → Column) : (s.updColumn c f).launches = s.launches := rfl
@[simp] theorem State.updColumn_nextLaunch (s : State) (c : Nat) (f : Column → Column) : (s.updColumn c f).nextLaunch = s.nextLaunch := rfl
@[simp] theorem State.updColumn_contexts (s : State) (c : Nat) (f : Column → Column) : (s.updColumn c f).contexts = s.contexts := rfl
@[simp] theorem State.updColumn_nextCtx (s : State) (c : Nat) (f : Column → Column) : (s.updColumn c f).nextCtx = s.nextCtx := rfl
@[simp] theorem State.updColumn_tables (s : State) (c : Nat) (f : Column → Column) : (s.updColumn c f).tables = s.tables := rfl
@[simp] theorem State.updColumn_nextTable (s : State) (c : Nat) (f : Column → Column) : (s.updColumn c f).nextTable = s.nextTable := rfl
@[simp] theorem State.updColumn_tlb (s : State) (c : Nat) (f : Column → Column) : (s.updColumn c f).tlb = s.tlb := rfl
@[simp] theorem State.updColumn_pools (s : State) (c : Nat) (f : Column → Column) : (s.updColumn c f).pools = s.pools := rfl
@[simp] theorem State.updColumn_faultq (s : State) (c : Nat) (f : Column → Column) : (s.updColumn c f).faultq = s.faultq := rfl
@[simp] theorem State.updColumn_faultWait (s : State) (c : Nat) (f : Column → Column) : (s.updColumn c f).faultWait = s.faultWait := rfl
@[simp] theorem State.updColumn_faultSeq (s : State) (c : Nat) (f : Column → Column) : (s.updColumn c f).faultSeq = s.faultSeq := rfl
@[simp] theorem State.updColumn_queues (s : State) (c : Nat) (f : Column → Column) : (s.updColumn c f).queues = s.queues := rfl
@[simp] theorem State.updColumn_nextQueue (s : State) (c : Nat) (f : Column → Column) : (s.updColumn c f).nextQueue = s.nextQueue := rfl
@[simp] theorem State.updColumn_wakes (s : State) (c : Nat) (f : Column → Column) : (s.updColumn c f).wakes = s.wakes := rfl
@[simp] theorem State.updColumn_wakeAll (s : State) (c : Nat) (f : Column → Column) : (s.updColumn c f).wakeAll = s.wakeAll := rfl
@[simp] theorem State.updColumn_wakeOver (s : State) (c : Nat) (f : Column → Column) : (s.updColumn c f).wakeOver = s.wakeOver := rfl
@[simp] theorem State.updColumn_lastBoundary (s : State) (c : Nat) (f : Column → Column) : (s.updColumn c f).lastBoundary = s.lastBoundary := rfl
@[simp] theorem State.updColumn_mbcmd (s : State) (c : Nat) (f : Column → Column) : (s.updColumn c f).mbcmd = s.mbcmd := rfl
@[simp] theorem State.updColumn_mbrsp (s : State) (c : Nat) (f : Column → Column) : (s.updColumn c f).mbrsp = s.mbrsp := rfl
@[simp] theorem State.updColumn_mbst (s : State) (c : Nat) (f : Column → Column) : (s.updColumn c f).mbst = s.mbst := rfl
@[simp] theorem State.updColumn_serving (s : State) (c : Nat) (f : Column → Column) : (s.updColumn c f).serving = s.serving := rfl
@[simp] theorem State.updColumn_begun (s : State) (c : Nat) (f : Column → Column) : (s.updColumn c f).begun = s.begun := rfl
@[simp] theorem State.updColumn_resetCmd (s : State) (c : Nat) (f : Column → Column) : (s.updColumn c f).resetCmd = s.resetCmd := rfl
@[simp] theorem State.updColumn_irqc (s : State) (c : Nat) (f : Column → Column) : (s.updColumn c f).irqc = s.irqc := rfl
@[simp] theorem State.updColumn_ports (s : State) (c : Nat) (f : Column → Column) : (s.updColumn c f).ports = s.ports := rfl
@[simp] theorem State.updColumn_nextTag (s : State) (c : Nat) (f : Column → Column) : (s.updColumn c f).nextTag = s.nextTag := rfl
@[simp] theorem State.updColumn_peerReqs (s : State) (c : Nat) (f : Column → Column) : (s.updColumn c f).peerReqs = s.peerReqs := rfl
@[simp] theorem State.updColumn_peerParts (s : State) (c : Nat) (f : Column → Column) : (s.updColumn c f).peerParts = s.peerParts := rfl
@[simp] theorem State.updColumn_owed (s : State) (c : Nat) (f : Column → Column) : (s.updColumn c f).owed = s.owed := rfl
@[simp] theorem State.updColumn_poseReg (s : State) (c : Nat) (f : Column → Column) : (s.updColumn c f).poseReg = s.poseReg := rfl
@[simp] theorem State.updColumn_outputs (s : State) (c : Nat) (f : Column → Column) : (s.updColumn c f).outputs = s.outputs := rfl
@[simp] theorem State.updColumn_memTemp (s : State) (c : Nat) (f : Column → Column) : (s.updColumn c f).memTemp = s.memTemp := rfl
@[simp] theorem State.updColumn_memHot (s : State) (c : Nat) (f : Column → Column) : (s.updColumn c f).memHot = s.memHot := rfl
@[simp] theorem State.updColumn_ring (s : State) (c : Nat) (f : Column → Column) : (s.updColumn c f).ring = s.ring := rfl
@[simp] theorem State.updColumn_milliVolt (s : State) (c : Nat) (f : Column → Column) : (s.updColumn c f).milliVolt = s.milliVolt := rfl
@[simp] theorem State.updColumn_lastSample (s : State) (c : Nat) (f : Column → Column) : (s.updColumn c f).lastSample = s.lastSample := rfl
@[simp] theorem State.updColumn_events (s : State) (c : Nat) (f : Column → Column) : (s.updColumn c f).events = s.events := rfl
@[simp] theorem State.updColumn_nextEvent (s : State) (c : Nat) (f : Column → Column) : (s.updColumn c f).nextEvent = s.nextEvent := rfl

/-! ### State.setGroup -/

@[simp] theorem State.setGroup_agenda (s : State) (g : Group) : (s.setGroup g).agenda = s.agenda := rfl
@[simp] theorem State.setGroup_round (s : State) (g : Group) : (s.setGroup g).round = s.round := rfl
@[simp] theorem State.setGroup_fresh (s : State) (g : Group) : (s.setGroup g).fresh = s.fresh := rfl
@[simp] theorem State.setGroup_issuer (s : State) (g : Group) : (s.setGroup g).issuer = s.issuer := rfl
@[simp] theorem State.setGroup_stop (s : State) (g : Group) : (s.setGroup g).stop = s.stop := rfl
@[simp] theorem State.setGroup_clock (s : State) (g : Group) : (s.setGroup g).clock = s.clock := rfl
@[simp] theorem State.setGroup_ftime (s : State) (g : Group) : (s.setGroup g).ftime = s.ftime := rfl
@[simp] theorem State.setGroup_ftimeRem (s : State) (g : Group) : (s.setGroup g).ftimeRem = s.ftimeRem := rfl
@[simp] theorem State.setGroup_ftimeSlow (s : State) (g : Group) : (s.setGroup g).ftimeSlow = s.ftimeSlow := rfl
@[simp] theorem State.setGroup_acquired (s : State) (g : Group) : (s.setGroup g).acquired = s.acquired := rfl
@[simp] theorem State.setGroup_holdover (s : State) (g : Group) : (s.setGroup g).holdover = s.holdover := rfl
@[simp] theorem State.setGroup_lastBeacon (s : State) (g : Group) : (s.setGroup g).lastBeacon = s.lastBeacon := rfl
@[simp] theorem State.setGroup_phase (s : State) (g : Group) : (s.setGroup g).phase = s.phase := rfl
@[simp] theorem State.setGroup_fallback (s : State) (g : Group) : (s.setGroup g).fallback = s.fallback := rfl
@[simp] theorem State.setGroup_gen (s : State) (g : Group) : (s.setGroup g).gen = s.gen := rfl
@[simp] theorem State.setGroup_devid (s : State) (g : Group) : (s.setGroup g).devid = s.devid := rfl
@[simp] theorem State.setGroup_switch (s : State) (g : Group) : (s.setGroup g).switch = s.switch := rfl
@[simp] theorem State.setGroup_step6 (s : State) (g : Group) : (s.setGroup g).step6 = s.step6 := rfl
@[simp] theorem State.setGroup_discovery (s : State) (g : Group) : (s.setGroup g).discovery = s.discovery := rfl
@[simp] theorem State.setGroup_keyed (s : State) (g : Group) : (s.setGroup g).keyed = s.keyed := rfl
@[simp] theorem State.setGroup_mem (s : State) (g : Group) : (s.setGroup g).mem = s.mem := rfl
@[simp] theorem State.setGroup_columns (s : State) (g : Group) : (s.setGroup g).columns = s.columns := rfl
@[simp] theorem State.setGroup_nextGroup (s : State) (g : Group) : (s.setGroup g).nextGroup = s.nextGroup := rfl
@[simp] theorem State.setGroup_launches (s : State) (g : Group) : (s.setGroup g).launches = s.launches := rfl
@[simp] theorem State.setGroup_nextLaunch (s : State) (g : Group) : (s.setGroup g).nextLaunch = s.nextLaunch := rfl
@[simp] theorem State.setGroup_contexts (s : State) (g : Group) : (s.setGroup g).contexts = s.contexts := rfl
@[simp] theorem State.setGroup_nextCtx (s : State) (g : Group) : (s.setGroup g).nextCtx = s.nextCtx := rfl
@[simp] theorem State.setGroup_tables (s : State) (g : Group) : (s.setGroup g).tables = s.tables := rfl
@[simp] theorem State.setGroup_nextTable (s : State) (g : Group) : (s.setGroup g).nextTable = s.nextTable := rfl
@[simp] theorem State.setGroup_tlb (s : State) (g : Group) : (s.setGroup g).tlb = s.tlb := rfl
@[simp] theorem State.setGroup_pools (s : State) (g : Group) : (s.setGroup g).pools = s.pools := rfl
@[simp] theorem State.setGroup_faultq (s : State) (g : Group) : (s.setGroup g).faultq = s.faultq := rfl
@[simp] theorem State.setGroup_faultWait (s : State) (g : Group) : (s.setGroup g).faultWait = s.faultWait := rfl
@[simp] theorem State.setGroup_faultSeq (s : State) (g : Group) : (s.setGroup g).faultSeq = s.faultSeq := rfl
@[simp] theorem State.setGroup_queues (s : State) (g : Group) : (s.setGroup g).queues = s.queues := rfl
@[simp] theorem State.setGroup_nextQueue (s : State) (g : Group) : (s.setGroup g).nextQueue = s.nextQueue := rfl
@[simp] theorem State.setGroup_wakes (s : State) (g : Group) : (s.setGroup g).wakes = s.wakes := rfl
@[simp] theorem State.setGroup_wakeAll (s : State) (g : Group) : (s.setGroup g).wakeAll = s.wakeAll := rfl
@[simp] theorem State.setGroup_wakeOver (s : State) (g : Group) : (s.setGroup g).wakeOver = s.wakeOver := rfl
@[simp] theorem State.setGroup_lastBoundary (s : State) (g : Group) : (s.setGroup g).lastBoundary = s.lastBoundary := rfl
@[simp] theorem State.setGroup_mbcmd (s : State) (g : Group) : (s.setGroup g).mbcmd = s.mbcmd := rfl
@[simp] theorem State.setGroup_mbrsp (s : State) (g : Group) : (s.setGroup g).mbrsp = s.mbrsp := rfl
@[simp] theorem State.setGroup_mbst (s : State) (g : Group) : (s.setGroup g).mbst = s.mbst := rfl
@[simp] theorem State.setGroup_serving (s : State) (g : Group) : (s.setGroup g).serving = s.serving := rfl
@[simp] theorem State.setGroup_begun (s : State) (g : Group) : (s.setGroup g).begun = s.begun := rfl
@[simp] theorem State.setGroup_resetCmd (s : State) (g : Group) : (s.setGroup g).resetCmd = s.resetCmd := rfl
@[simp] theorem State.setGroup_irqc (s : State) (g : Group) : (s.setGroup g).irqc = s.irqc := rfl
@[simp] theorem State.setGroup_ports (s : State) (g : Group) : (s.setGroup g).ports = s.ports := rfl
@[simp] theorem State.setGroup_nextTag (s : State) (g : Group) : (s.setGroup g).nextTag = s.nextTag := rfl
@[simp] theorem State.setGroup_peerReqs (s : State) (g : Group) : (s.setGroup g).peerReqs = s.peerReqs := rfl
@[simp] theorem State.setGroup_peerParts (s : State) (g : Group) : (s.setGroup g).peerParts = s.peerParts := rfl
@[simp] theorem State.setGroup_owed (s : State) (g : Group) : (s.setGroup g).owed = s.owed := rfl
@[simp] theorem State.setGroup_poseReg (s : State) (g : Group) : (s.setGroup g).poseReg = s.poseReg := rfl
@[simp] theorem State.setGroup_outputs (s : State) (g : Group) : (s.setGroup g).outputs = s.outputs := rfl
@[simp] theorem State.setGroup_memTemp (s : State) (g : Group) : (s.setGroup g).memTemp = s.memTemp := rfl
@[simp] theorem State.setGroup_memHot (s : State) (g : Group) : (s.setGroup g).memHot = s.memHot := rfl
@[simp] theorem State.setGroup_ring (s : State) (g : Group) : (s.setGroup g).ring = s.ring := rfl
@[simp] theorem State.setGroup_milliVolt (s : State) (g : Group) : (s.setGroup g).milliVolt = s.milliVolt := rfl
@[simp] theorem State.setGroup_lastSample (s : State) (g : Group) : (s.setGroup g).lastSample = s.lastSample := rfl
@[simp] theorem State.setGroup_events (s : State) (g : Group) : (s.setGroup g).events = s.events := rfl
@[simp] theorem State.setGroup_nextEvent (s : State) (g : Group) : (s.setGroup g).nextEvent = s.nextEvent := rfl

theorem State.updGroup_or (s : State) (uid : Nat) (f : Group → Group) : s.updGroup uid f = s ∨ ∃ g, s.updGroup uid f = s.setGroup g := by
  unfold State.updGroup
  cases s.group uid with
  | none => exact .inl rfl
  | some g => exact .inr ⟨f g, rfl⟩

theorem State.updGroup_field {α : Type} (p : State → α) (h : ∀ (s : State) (g : Group), p (s.setGroup g) = p s) (s : State) (uid : Nat)
    (f : Group → Group) : p (s.updGroup uid f) = p s := by
  rcases s.updGroup_or uid f with e | ⟨g, e⟩
  · rw [e]
  · rw [e, h]

/-! ### State.updGroup and State.updWarp -/

@[simp] theorem State.updGroup_agenda (s : State) (uid : Nat) (f : Group → Group) : (s.updGroup uid f).agenda = s.agenda :=
  s.updGroup_field State.agenda (fun _ _ => rfl) uid f
@[simp] theorem State.updGroup_round (s : State) (uid : Nat) (f : Group → Group) : (s.updGroup uid f).round = s.round :=
  s.updGroup_field State.round (fun _ _ => rfl) uid f
@[simp] theorem State.updGroup_fresh (s : State) (uid : Nat) (f : Group → Group) : (s.updGroup uid f).fresh = s.fresh :=
  s.updGroup_field State.fresh (fun _ _ => rfl) uid f
@[simp] theorem State.updGroup_issuer (s : State) (uid : Nat) (f : Group → Group) : (s.updGroup uid f).issuer = s.issuer :=
  s.updGroup_field State.issuer (fun _ _ => rfl) uid f
@[simp] theorem State.updGroup_stop (s : State) (uid : Nat) (f : Group → Group) : (s.updGroup uid f).stop = s.stop :=
  s.updGroup_field State.stop (fun _ _ => rfl) uid f
@[simp] theorem State.updGroup_clock (s : State) (uid : Nat) (f : Group → Group) : (s.updGroup uid f).clock = s.clock :=
  s.updGroup_field State.clock (fun _ _ => rfl) uid f
@[simp] theorem State.updGroup_ftime (s : State) (uid : Nat) (f : Group → Group) : (s.updGroup uid f).ftime = s.ftime :=
  s.updGroup_field State.ftime (fun _ _ => rfl) uid f
@[simp] theorem State.updGroup_ftimeRem (s : State) (uid : Nat) (f : Group → Group) : (s.updGroup uid f).ftimeRem = s.ftimeRem :=
  s.updGroup_field State.ftimeRem (fun _ _ => rfl) uid f
@[simp] theorem State.updGroup_ftimeSlow (s : State) (uid : Nat) (f : Group → Group) : (s.updGroup uid f).ftimeSlow = s.ftimeSlow :=
  s.updGroup_field State.ftimeSlow (fun _ _ => rfl) uid f
@[simp] theorem State.updGroup_acquired (s : State) (uid : Nat) (f : Group → Group) : (s.updGroup uid f).acquired = s.acquired :=
  s.updGroup_field State.acquired (fun _ _ => rfl) uid f
@[simp] theorem State.updGroup_holdover (s : State) (uid : Nat) (f : Group → Group) : (s.updGroup uid f).holdover = s.holdover :=
  s.updGroup_field State.holdover (fun _ _ => rfl) uid f
@[simp] theorem State.updGroup_lastBeacon (s : State) (uid : Nat) (f : Group → Group) : (s.updGroup uid f).lastBeacon = s.lastBeacon :=
  s.updGroup_field State.lastBeacon (fun _ _ => rfl) uid f
@[simp] theorem State.updGroup_phase (s : State) (uid : Nat) (f : Group → Group) : (s.updGroup uid f).phase = s.phase :=
  s.updGroup_field State.phase (fun _ _ => rfl) uid f
@[simp] theorem State.updGroup_fallback (s : State) (uid : Nat) (f : Group → Group) : (s.updGroup uid f).fallback = s.fallback :=
  s.updGroup_field State.fallback (fun _ _ => rfl) uid f
@[simp] theorem State.updGroup_gen (s : State) (uid : Nat) (f : Group → Group) : (s.updGroup uid f).gen = s.gen :=
  s.updGroup_field State.gen (fun _ _ => rfl) uid f
@[simp] theorem State.updGroup_devid (s : State) (uid : Nat) (f : Group → Group) : (s.updGroup uid f).devid = s.devid :=
  s.updGroup_field State.devid (fun _ _ => rfl) uid f
@[simp] theorem State.updGroup_switch (s : State) (uid : Nat) (f : Group → Group) : (s.updGroup uid f).switch = s.switch :=
  s.updGroup_field State.switch (fun _ _ => rfl) uid f
@[simp] theorem State.updGroup_step6 (s : State) (uid : Nat) (f : Group → Group) : (s.updGroup uid f).step6 = s.step6 :=
  s.updGroup_field State.step6 (fun _ _ => rfl) uid f
@[simp] theorem State.updGroup_discovery (s : State) (uid : Nat) (f : Group → Group) : (s.updGroup uid f).discovery = s.discovery :=
  s.updGroup_field State.discovery (fun _ _ => rfl) uid f
@[simp] theorem State.updGroup_keyed (s : State) (uid : Nat) (f : Group → Group) : (s.updGroup uid f).keyed = s.keyed :=
  s.updGroup_field State.keyed (fun _ _ => rfl) uid f
@[simp] theorem State.updGroup_mem (s : State) (uid : Nat) (f : Group → Group) : (s.updGroup uid f).mem = s.mem :=
  s.updGroup_field State.mem (fun _ _ => rfl) uid f
@[simp] theorem State.updGroup_columns (s : State) (uid : Nat) (f : Group → Group) : (s.updGroup uid f).columns = s.columns :=
  s.updGroup_field State.columns (fun _ _ => rfl) uid f
@[simp] theorem State.updGroup_nextGroup (s : State) (uid : Nat) (f : Group → Group) : (s.updGroup uid f).nextGroup = s.nextGroup :=
  s.updGroup_field State.nextGroup (fun _ _ => rfl) uid f
@[simp] theorem State.updGroup_launches (s : State) (uid : Nat) (f : Group → Group) : (s.updGroup uid f).launches = s.launches :=
  s.updGroup_field State.launches (fun _ _ => rfl) uid f
@[simp] theorem State.updGroup_nextLaunch (s : State) (uid : Nat) (f : Group → Group) : (s.updGroup uid f).nextLaunch = s.nextLaunch :=
  s.updGroup_field State.nextLaunch (fun _ _ => rfl) uid f
@[simp] theorem State.updGroup_contexts (s : State) (uid : Nat) (f : Group → Group) : (s.updGroup uid f).contexts = s.contexts :=
  s.updGroup_field State.contexts (fun _ _ => rfl) uid f
@[simp] theorem State.updGroup_nextCtx (s : State) (uid : Nat) (f : Group → Group) : (s.updGroup uid f).nextCtx = s.nextCtx :=
  s.updGroup_field State.nextCtx (fun _ _ => rfl) uid f
@[simp] theorem State.updGroup_tables (s : State) (uid : Nat) (f : Group → Group) : (s.updGroup uid f).tables = s.tables :=
  s.updGroup_field State.tables (fun _ _ => rfl) uid f
@[simp] theorem State.updGroup_nextTable (s : State) (uid : Nat) (f : Group → Group) : (s.updGroup uid f).nextTable = s.nextTable :=
  s.updGroup_field State.nextTable (fun _ _ => rfl) uid f
@[simp] theorem State.updGroup_tlb (s : State) (uid : Nat) (f : Group → Group) : (s.updGroup uid f).tlb = s.tlb :=
  s.updGroup_field State.tlb (fun _ _ => rfl) uid f
@[simp] theorem State.updGroup_pools (s : State) (uid : Nat) (f : Group → Group) : (s.updGroup uid f).pools = s.pools :=
  s.updGroup_field State.pools (fun _ _ => rfl) uid f
@[simp] theorem State.updGroup_faultq (s : State) (uid : Nat) (f : Group → Group) : (s.updGroup uid f).faultq = s.faultq :=
  s.updGroup_field State.faultq (fun _ _ => rfl) uid f
@[simp] theorem State.updGroup_faultWait (s : State) (uid : Nat) (f : Group → Group) : (s.updGroup uid f).faultWait = s.faultWait :=
  s.updGroup_field State.faultWait (fun _ _ => rfl) uid f
@[simp] theorem State.updGroup_faultSeq (s : State) (uid : Nat) (f : Group → Group) : (s.updGroup uid f).faultSeq = s.faultSeq :=
  s.updGroup_field State.faultSeq (fun _ _ => rfl) uid f
@[simp] theorem State.updGroup_queues (s : State) (uid : Nat) (f : Group → Group) : (s.updGroup uid f).queues = s.queues :=
  s.updGroup_field State.queues (fun _ _ => rfl) uid f
@[simp] theorem State.updGroup_nextQueue (s : State) (uid : Nat) (f : Group → Group) : (s.updGroup uid f).nextQueue = s.nextQueue :=
  s.updGroup_field State.nextQueue (fun _ _ => rfl) uid f
@[simp] theorem State.updGroup_wakes (s : State) (uid : Nat) (f : Group → Group) : (s.updGroup uid f).wakes = s.wakes :=
  s.updGroup_field State.wakes (fun _ _ => rfl) uid f
@[simp] theorem State.updGroup_wakeAll (s : State) (uid : Nat) (f : Group → Group) : (s.updGroup uid f).wakeAll = s.wakeAll :=
  s.updGroup_field State.wakeAll (fun _ _ => rfl) uid f
@[simp] theorem State.updGroup_wakeOver (s : State) (uid : Nat) (f : Group → Group) : (s.updGroup uid f).wakeOver = s.wakeOver :=
  s.updGroup_field State.wakeOver (fun _ _ => rfl) uid f
@[simp] theorem State.updGroup_lastBoundary (s : State) (uid : Nat) (f : Group → Group) : (s.updGroup uid f).lastBoundary = s.lastBoundary :=
  s.updGroup_field State.lastBoundary (fun _ _ => rfl) uid f
@[simp] theorem State.updGroup_mbcmd (s : State) (uid : Nat) (f : Group → Group) : (s.updGroup uid f).mbcmd = s.mbcmd :=
  s.updGroup_field State.mbcmd (fun _ _ => rfl) uid f
@[simp] theorem State.updGroup_mbrsp (s : State) (uid : Nat) (f : Group → Group) : (s.updGroup uid f).mbrsp = s.mbrsp :=
  s.updGroup_field State.mbrsp (fun _ _ => rfl) uid f
@[simp] theorem State.updGroup_mbst (s : State) (uid : Nat) (f : Group → Group) : (s.updGroup uid f).mbst = s.mbst :=
  s.updGroup_field State.mbst (fun _ _ => rfl) uid f
@[simp] theorem State.updGroup_serving (s : State) (uid : Nat) (f : Group → Group) : (s.updGroup uid f).serving = s.serving :=
  s.updGroup_field State.serving (fun _ _ => rfl) uid f
@[simp] theorem State.updGroup_begun (s : State) (uid : Nat) (f : Group → Group) : (s.updGroup uid f).begun = s.begun :=
  s.updGroup_field State.begun (fun _ _ => rfl) uid f
@[simp] theorem State.updGroup_resetCmd (s : State) (uid : Nat) (f : Group → Group) : (s.updGroup uid f).resetCmd = s.resetCmd :=
  s.updGroup_field State.resetCmd (fun _ _ => rfl) uid f
@[simp] theorem State.updGroup_irqc (s : State) (uid : Nat) (f : Group → Group) : (s.updGroup uid f).irqc = s.irqc :=
  s.updGroup_field State.irqc (fun _ _ => rfl) uid f
@[simp] theorem State.updGroup_ports (s : State) (uid : Nat) (f : Group → Group) : (s.updGroup uid f).ports = s.ports :=
  s.updGroup_field State.ports (fun _ _ => rfl) uid f
@[simp] theorem State.updGroup_nextTag (s : State) (uid : Nat) (f : Group → Group) : (s.updGroup uid f).nextTag = s.nextTag :=
  s.updGroup_field State.nextTag (fun _ _ => rfl) uid f
@[simp] theorem State.updGroup_peerReqs (s : State) (uid : Nat) (f : Group → Group) : (s.updGroup uid f).peerReqs = s.peerReqs :=
  s.updGroup_field State.peerReqs (fun _ _ => rfl) uid f
@[simp] theorem State.updGroup_peerParts (s : State) (uid : Nat) (f : Group → Group) : (s.updGroup uid f).peerParts = s.peerParts :=
  s.updGroup_field State.peerParts (fun _ _ => rfl) uid f
@[simp] theorem State.updGroup_owed (s : State) (uid : Nat) (f : Group → Group) : (s.updGroup uid f).owed = s.owed :=
  s.updGroup_field State.owed (fun _ _ => rfl) uid f
@[simp] theorem State.updGroup_poseReg (s : State) (uid : Nat) (f : Group → Group) : (s.updGroup uid f).poseReg = s.poseReg :=
  s.updGroup_field State.poseReg (fun _ _ => rfl) uid f
@[simp] theorem State.updGroup_outputs (s : State) (uid : Nat) (f : Group → Group) : (s.updGroup uid f).outputs = s.outputs :=
  s.updGroup_field State.outputs (fun _ _ => rfl) uid f
@[simp] theorem State.updGroup_memTemp (s : State) (uid : Nat) (f : Group → Group) : (s.updGroup uid f).memTemp = s.memTemp :=
  s.updGroup_field State.memTemp (fun _ _ => rfl) uid f
@[simp] theorem State.updGroup_memHot (s : State) (uid : Nat) (f : Group → Group) : (s.updGroup uid f).memHot = s.memHot :=
  s.updGroup_field State.memHot (fun _ _ => rfl) uid f
@[simp] theorem State.updGroup_ring (s : State) (uid : Nat) (f : Group → Group) : (s.updGroup uid f).ring = s.ring :=
  s.updGroup_field State.ring (fun _ _ => rfl) uid f
@[simp] theorem State.updGroup_milliVolt (s : State) (uid : Nat) (f : Group → Group) : (s.updGroup uid f).milliVolt = s.milliVolt :=
  s.updGroup_field State.milliVolt (fun _ _ => rfl) uid f
@[simp] theorem State.updGroup_lastSample (s : State) (uid : Nat) (f : Group → Group) : (s.updGroup uid f).lastSample = s.lastSample :=
  s.updGroup_field State.lastSample (fun _ _ => rfl) uid f
@[simp] theorem State.updGroup_events (s : State) (uid : Nat) (f : Group → Group) : (s.updGroup uid f).events = s.events :=
  s.updGroup_field State.events (fun _ _ => rfl) uid f
@[simp] theorem State.updGroup_nextEvent (s : State) (uid : Nat) (f : Group → Group) : (s.updGroup uid f).nextEvent = s.nextEvent :=
  s.updGroup_field State.nextEvent (fun _ _ => rfl) uid f
@[simp] theorem State.updWarp_agenda (s : State) (uid wid : Nat) (f : Warp → Warp) : (s.updWarp uid wid f).agenda = s.agenda :=
  s.updGroup_agenda uid _
@[simp] theorem State.updWarp_round (s : State) (uid wid : Nat) (f : Warp → Warp) : (s.updWarp uid wid f).round = s.round :=
  s.updGroup_round uid _
@[simp] theorem State.updWarp_fresh (s : State) (uid wid : Nat) (f : Warp → Warp) : (s.updWarp uid wid f).fresh = s.fresh :=
  s.updGroup_fresh uid _
@[simp] theorem State.updWarp_issuer (s : State) (uid wid : Nat) (f : Warp → Warp) : (s.updWarp uid wid f).issuer = s.issuer :=
  s.updGroup_issuer uid _
@[simp] theorem State.updWarp_stop (s : State) (uid wid : Nat) (f : Warp → Warp) : (s.updWarp uid wid f).stop = s.stop :=
  s.updGroup_stop uid _
@[simp] theorem State.updWarp_clock (s : State) (uid wid : Nat) (f : Warp → Warp) : (s.updWarp uid wid f).clock = s.clock :=
  s.updGroup_clock uid _
@[simp] theorem State.updWarp_ftime (s : State) (uid wid : Nat) (f : Warp → Warp) : (s.updWarp uid wid f).ftime = s.ftime :=
  s.updGroup_ftime uid _
@[simp] theorem State.updWarp_ftimeRem (s : State) (uid wid : Nat) (f : Warp → Warp) : (s.updWarp uid wid f).ftimeRem = s.ftimeRem :=
  s.updGroup_ftimeRem uid _
@[simp] theorem State.updWarp_ftimeSlow (s : State) (uid wid : Nat) (f : Warp → Warp) : (s.updWarp uid wid f).ftimeSlow = s.ftimeSlow :=
  s.updGroup_ftimeSlow uid _
@[simp] theorem State.updWarp_acquired (s : State) (uid wid : Nat) (f : Warp → Warp) : (s.updWarp uid wid f).acquired = s.acquired :=
  s.updGroup_acquired uid _
@[simp] theorem State.updWarp_holdover (s : State) (uid wid : Nat) (f : Warp → Warp) : (s.updWarp uid wid f).holdover = s.holdover :=
  s.updGroup_holdover uid _
@[simp] theorem State.updWarp_lastBeacon (s : State) (uid wid : Nat) (f : Warp → Warp) : (s.updWarp uid wid f).lastBeacon = s.lastBeacon :=
  s.updGroup_lastBeacon uid _
@[simp] theorem State.updWarp_phase (s : State) (uid wid : Nat) (f : Warp → Warp) : (s.updWarp uid wid f).phase = s.phase :=
  s.updGroup_phase uid _
@[simp] theorem State.updWarp_fallback (s : State) (uid wid : Nat) (f : Warp → Warp) : (s.updWarp uid wid f).fallback = s.fallback :=
  s.updGroup_fallback uid _
@[simp] theorem State.updWarp_gen (s : State) (uid wid : Nat) (f : Warp → Warp) : (s.updWarp uid wid f).gen = s.gen :=
  s.updGroup_gen uid _
@[simp] theorem State.updWarp_devid (s : State) (uid wid : Nat) (f : Warp → Warp) : (s.updWarp uid wid f).devid = s.devid :=
  s.updGroup_devid uid _
@[simp] theorem State.updWarp_switch (s : State) (uid wid : Nat) (f : Warp → Warp) : (s.updWarp uid wid f).switch = s.switch :=
  s.updGroup_switch uid _
@[simp] theorem State.updWarp_step6 (s : State) (uid wid : Nat) (f : Warp → Warp) : (s.updWarp uid wid f).step6 = s.step6 :=
  s.updGroup_step6 uid _
@[simp] theorem State.updWarp_discovery (s : State) (uid wid : Nat) (f : Warp → Warp) : (s.updWarp uid wid f).discovery = s.discovery :=
  s.updGroup_discovery uid _
@[simp] theorem State.updWarp_keyed (s : State) (uid wid : Nat) (f : Warp → Warp) : (s.updWarp uid wid f).keyed = s.keyed :=
  s.updGroup_keyed uid _
@[simp] theorem State.updWarp_mem (s : State) (uid wid : Nat) (f : Warp → Warp) : (s.updWarp uid wid f).mem = s.mem :=
  s.updGroup_mem uid _
@[simp] theorem State.updWarp_columns (s : State) (uid wid : Nat) (f : Warp → Warp) : (s.updWarp uid wid f).columns = s.columns :=
  s.updGroup_columns uid _
@[simp] theorem State.updWarp_nextGroup (s : State) (uid wid : Nat) (f : Warp → Warp) : (s.updWarp uid wid f).nextGroup = s.nextGroup :=
  s.updGroup_nextGroup uid _
@[simp] theorem State.updWarp_launches (s : State) (uid wid : Nat) (f : Warp → Warp) : (s.updWarp uid wid f).launches = s.launches :=
  s.updGroup_launches uid _
@[simp] theorem State.updWarp_nextLaunch (s : State) (uid wid : Nat) (f : Warp → Warp) : (s.updWarp uid wid f).nextLaunch = s.nextLaunch :=
  s.updGroup_nextLaunch uid _
@[simp] theorem State.updWarp_contexts (s : State) (uid wid : Nat) (f : Warp → Warp) : (s.updWarp uid wid f).contexts = s.contexts :=
  s.updGroup_contexts uid _
@[simp] theorem State.updWarp_nextCtx (s : State) (uid wid : Nat) (f : Warp → Warp) : (s.updWarp uid wid f).nextCtx = s.nextCtx :=
  s.updGroup_nextCtx uid _
@[simp] theorem State.updWarp_tables (s : State) (uid wid : Nat) (f : Warp → Warp) : (s.updWarp uid wid f).tables = s.tables :=
  s.updGroup_tables uid _
@[simp] theorem State.updWarp_nextTable (s : State) (uid wid : Nat) (f : Warp → Warp) : (s.updWarp uid wid f).nextTable = s.nextTable :=
  s.updGroup_nextTable uid _
@[simp] theorem State.updWarp_tlb (s : State) (uid wid : Nat) (f : Warp → Warp) : (s.updWarp uid wid f).tlb = s.tlb :=
  s.updGroup_tlb uid _
@[simp] theorem State.updWarp_pools (s : State) (uid wid : Nat) (f : Warp → Warp) : (s.updWarp uid wid f).pools = s.pools :=
  s.updGroup_pools uid _
@[simp] theorem State.updWarp_faultq (s : State) (uid wid : Nat) (f : Warp → Warp) : (s.updWarp uid wid f).faultq = s.faultq :=
  s.updGroup_faultq uid _
@[simp] theorem State.updWarp_faultWait (s : State) (uid wid : Nat) (f : Warp → Warp) : (s.updWarp uid wid f).faultWait = s.faultWait :=
  s.updGroup_faultWait uid _
@[simp] theorem State.updWarp_faultSeq (s : State) (uid wid : Nat) (f : Warp → Warp) : (s.updWarp uid wid f).faultSeq = s.faultSeq :=
  s.updGroup_faultSeq uid _
@[simp] theorem State.updWarp_queues (s : State) (uid wid : Nat) (f : Warp → Warp) : (s.updWarp uid wid f).queues = s.queues :=
  s.updGroup_queues uid _
@[simp] theorem State.updWarp_nextQueue (s : State) (uid wid : Nat) (f : Warp → Warp) : (s.updWarp uid wid f).nextQueue = s.nextQueue :=
  s.updGroup_nextQueue uid _
@[simp] theorem State.updWarp_wakes (s : State) (uid wid : Nat) (f : Warp → Warp) : (s.updWarp uid wid f).wakes = s.wakes :=
  s.updGroup_wakes uid _
@[simp] theorem State.updWarp_wakeAll (s : State) (uid wid : Nat) (f : Warp → Warp) : (s.updWarp uid wid f).wakeAll = s.wakeAll :=
  s.updGroup_wakeAll uid _
@[simp] theorem State.updWarp_wakeOver (s : State) (uid wid : Nat) (f : Warp → Warp) : (s.updWarp uid wid f).wakeOver = s.wakeOver :=
  s.updGroup_wakeOver uid _
@[simp] theorem State.updWarp_lastBoundary (s : State) (uid wid : Nat) (f : Warp → Warp) : (s.updWarp uid wid f).lastBoundary = s.lastBoundary :=
  s.updGroup_lastBoundary uid _
@[simp] theorem State.updWarp_mbcmd (s : State) (uid wid : Nat) (f : Warp → Warp) : (s.updWarp uid wid f).mbcmd = s.mbcmd :=
  s.updGroup_mbcmd uid _
@[simp] theorem State.updWarp_mbrsp (s : State) (uid wid : Nat) (f : Warp → Warp) : (s.updWarp uid wid f).mbrsp = s.mbrsp :=
  s.updGroup_mbrsp uid _
@[simp] theorem State.updWarp_mbst (s : State) (uid wid : Nat) (f : Warp → Warp) : (s.updWarp uid wid f).mbst = s.mbst :=
  s.updGroup_mbst uid _
@[simp] theorem State.updWarp_serving (s : State) (uid wid : Nat) (f : Warp → Warp) : (s.updWarp uid wid f).serving = s.serving :=
  s.updGroup_serving uid _
@[simp] theorem State.updWarp_begun (s : State) (uid wid : Nat) (f : Warp → Warp) : (s.updWarp uid wid f).begun = s.begun :=
  s.updGroup_begun uid _
@[simp] theorem State.updWarp_resetCmd (s : State) (uid wid : Nat) (f : Warp → Warp) : (s.updWarp uid wid f).resetCmd = s.resetCmd :=
  s.updGroup_resetCmd uid _
@[simp] theorem State.updWarp_irqc (s : State) (uid wid : Nat) (f : Warp → Warp) : (s.updWarp uid wid f).irqc = s.irqc :=
  s.updGroup_irqc uid _
@[simp] theorem State.updWarp_ports (s : State) (uid wid : Nat) (f : Warp → Warp) : (s.updWarp uid wid f).ports = s.ports :=
  s.updGroup_ports uid _
@[simp] theorem State.updWarp_nextTag (s : State) (uid wid : Nat) (f : Warp → Warp) : (s.updWarp uid wid f).nextTag = s.nextTag :=
  s.updGroup_nextTag uid _
@[simp] theorem State.updWarp_peerReqs (s : State) (uid wid : Nat) (f : Warp → Warp) : (s.updWarp uid wid f).peerReqs = s.peerReqs :=
  s.updGroup_peerReqs uid _
@[simp] theorem State.updWarp_peerParts (s : State) (uid wid : Nat) (f : Warp → Warp) : (s.updWarp uid wid f).peerParts = s.peerParts :=
  s.updGroup_peerParts uid _
@[simp] theorem State.updWarp_owed (s : State) (uid wid : Nat) (f : Warp → Warp) : (s.updWarp uid wid f).owed = s.owed :=
  s.updGroup_owed uid _
@[simp] theorem State.updWarp_poseReg (s : State) (uid wid : Nat) (f : Warp → Warp) : (s.updWarp uid wid f).poseReg = s.poseReg :=
  s.updGroup_poseReg uid _
@[simp] theorem State.updWarp_outputs (s : State) (uid wid : Nat) (f : Warp → Warp) : (s.updWarp uid wid f).outputs = s.outputs :=
  s.updGroup_outputs uid _
@[simp] theorem State.updWarp_memTemp (s : State) (uid wid : Nat) (f : Warp → Warp) : (s.updWarp uid wid f).memTemp = s.memTemp :=
  s.updGroup_memTemp uid _
@[simp] theorem State.updWarp_memHot (s : State) (uid wid : Nat) (f : Warp → Warp) : (s.updWarp uid wid f).memHot = s.memHot :=
  s.updGroup_memHot uid _
@[simp] theorem State.updWarp_ring (s : State) (uid wid : Nat) (f : Warp → Warp) : (s.updWarp uid wid f).ring = s.ring :=
  s.updGroup_ring uid _
@[simp] theorem State.updWarp_milliVolt (s : State) (uid wid : Nat) (f : Warp → Warp) : (s.updWarp uid wid f).milliVolt = s.milliVolt :=
  s.updGroup_milliVolt uid _
@[simp] theorem State.updWarp_lastSample (s : State) (uid wid : Nat) (f : Warp → Warp) : (s.updWarp uid wid f).lastSample = s.lastSample :=
  s.updGroup_lastSample uid _
@[simp] theorem State.updWarp_events (s : State) (uid wid : Nat) (f : Warp → Warp) : (s.updWarp uid wid f).events = s.events :=
  s.updGroup_events uid _
@[simp] theorem State.updWarp_nextEvent (s : State) (uid wid : Nat) (f : Warp → Warp) : (s.updWarp uid wid f).nextEvent = s.nextEvent :=
  s.updGroup_nextEvent uid _

/-! ### State.setCtx -/

@[simp] theorem State.setCtx_agenda (s : State) (c : Ctx) : (s.setCtx c).agenda = s.agenda := rfl
@[simp] theorem State.setCtx_round (s : State) (c : Ctx) : (s.setCtx c).round = s.round := rfl
@[simp] theorem State.setCtx_fresh (s : State) (c : Ctx) : (s.setCtx c).fresh = s.fresh := rfl
@[simp] theorem State.setCtx_issuer (s : State) (c : Ctx) : (s.setCtx c).issuer = s.issuer := rfl
@[simp] theorem State.setCtx_stop (s : State) (c : Ctx) : (s.setCtx c).stop = s.stop := rfl
@[simp] theorem State.setCtx_clock (s : State) (c : Ctx) : (s.setCtx c).clock = s.clock := rfl
@[simp] theorem State.setCtx_ftime (s : State) (c : Ctx) : (s.setCtx c).ftime = s.ftime := rfl
@[simp] theorem State.setCtx_ftimeRem (s : State) (c : Ctx) : (s.setCtx c).ftimeRem = s.ftimeRem := rfl
@[simp] theorem State.setCtx_ftimeSlow (s : State) (c : Ctx) : (s.setCtx c).ftimeSlow = s.ftimeSlow := rfl
@[simp] theorem State.setCtx_acquired (s : State) (c : Ctx) : (s.setCtx c).acquired = s.acquired := rfl
@[simp] theorem State.setCtx_holdover (s : State) (c : Ctx) : (s.setCtx c).holdover = s.holdover := rfl
@[simp] theorem State.setCtx_lastBeacon (s : State) (c : Ctx) : (s.setCtx c).lastBeacon = s.lastBeacon := rfl
@[simp] theorem State.setCtx_phase (s : State) (c : Ctx) : (s.setCtx c).phase = s.phase := rfl
@[simp] theorem State.setCtx_fallback (s : State) (c : Ctx) : (s.setCtx c).fallback = s.fallback := rfl
@[simp] theorem State.setCtx_gen (s : State) (c : Ctx) : (s.setCtx c).gen = s.gen := rfl
@[simp] theorem State.setCtx_devid (s : State) (c : Ctx) : (s.setCtx c).devid = s.devid := rfl
@[simp] theorem State.setCtx_switch (s : State) (c : Ctx) : (s.setCtx c).switch = s.switch := rfl
@[simp] theorem State.setCtx_step6 (s : State) (c : Ctx) : (s.setCtx c).step6 = s.step6 := rfl
@[simp] theorem State.setCtx_discovery (s : State) (c : Ctx) : (s.setCtx c).discovery = s.discovery := rfl
@[simp] theorem State.setCtx_keyed (s : State) (c : Ctx) : (s.setCtx c).keyed = s.keyed := rfl
@[simp] theorem State.setCtx_mem (s : State) (c : Ctx) : (s.setCtx c).mem = s.mem := rfl
@[simp] theorem State.setCtx_columns (s : State) (c : Ctx) : (s.setCtx c).columns = s.columns := rfl
@[simp] theorem State.setCtx_groups (s : State) (c : Ctx) : (s.setCtx c).groups = s.groups := rfl
@[simp] theorem State.setCtx_nextGroup (s : State) (c : Ctx) : (s.setCtx c).nextGroup = s.nextGroup := rfl
@[simp] theorem State.setCtx_launches (s : State) (c : Ctx) : (s.setCtx c).launches = s.launches := rfl
@[simp] theorem State.setCtx_nextLaunch (s : State) (c : Ctx) : (s.setCtx c).nextLaunch = s.nextLaunch := rfl
@[simp] theorem State.setCtx_nextCtx (s : State) (c : Ctx) : (s.setCtx c).nextCtx = s.nextCtx := rfl
@[simp] theorem State.setCtx_tables (s : State) (c : Ctx) : (s.setCtx c).tables = s.tables := rfl
@[simp] theorem State.setCtx_nextTable (s : State) (c : Ctx) : (s.setCtx c).nextTable = s.nextTable := rfl
@[simp] theorem State.setCtx_tlb (s : State) (c : Ctx) : (s.setCtx c).tlb = s.tlb := rfl
@[simp] theorem State.setCtx_pools (s : State) (c : Ctx) : (s.setCtx c).pools = s.pools := rfl
@[simp] theorem State.setCtx_faultq (s : State) (c : Ctx) : (s.setCtx c).faultq = s.faultq := rfl
@[simp] theorem State.setCtx_faultWait (s : State) (c : Ctx) : (s.setCtx c).faultWait = s.faultWait := rfl
@[simp] theorem State.setCtx_faultSeq (s : State) (c : Ctx) : (s.setCtx c).faultSeq = s.faultSeq := rfl
@[simp] theorem State.setCtx_queues (s : State) (c : Ctx) : (s.setCtx c).queues = s.queues := rfl
@[simp] theorem State.setCtx_nextQueue (s : State) (c : Ctx) : (s.setCtx c).nextQueue = s.nextQueue := rfl
@[simp] theorem State.setCtx_wakes (s : State) (c : Ctx) : (s.setCtx c).wakes = s.wakes := rfl
@[simp] theorem State.setCtx_wakeAll (s : State) (c : Ctx) : (s.setCtx c).wakeAll = s.wakeAll := rfl
@[simp] theorem State.setCtx_wakeOver (s : State) (c : Ctx) : (s.setCtx c).wakeOver = s.wakeOver := rfl
@[simp] theorem State.setCtx_lastBoundary (s : State) (c : Ctx) : (s.setCtx c).lastBoundary = s.lastBoundary := rfl
@[simp] theorem State.setCtx_mbcmd (s : State) (c : Ctx) : (s.setCtx c).mbcmd = s.mbcmd := rfl
@[simp] theorem State.setCtx_mbrsp (s : State) (c : Ctx) : (s.setCtx c).mbrsp = s.mbrsp := rfl
@[simp] theorem State.setCtx_mbst (s : State) (c : Ctx) : (s.setCtx c).mbst = s.mbst := rfl
@[simp] theorem State.setCtx_serving (s : State) (c : Ctx) : (s.setCtx c).serving = s.serving := rfl
@[simp] theorem State.setCtx_begun (s : State) (c : Ctx) : (s.setCtx c).begun = s.begun := rfl
@[simp] theorem State.setCtx_resetCmd (s : State) (c : Ctx) : (s.setCtx c).resetCmd = s.resetCmd := rfl
@[simp] theorem State.setCtx_irqc (s : State) (c : Ctx) : (s.setCtx c).irqc = s.irqc := rfl
@[simp] theorem State.setCtx_ports (s : State) (c : Ctx) : (s.setCtx c).ports = s.ports := rfl
@[simp] theorem State.setCtx_nextTag (s : State) (c : Ctx) : (s.setCtx c).nextTag = s.nextTag := rfl
@[simp] theorem State.setCtx_peerReqs (s : State) (c : Ctx) : (s.setCtx c).peerReqs = s.peerReqs := rfl
@[simp] theorem State.setCtx_peerParts (s : State) (c : Ctx) : (s.setCtx c).peerParts = s.peerParts := rfl
@[simp] theorem State.setCtx_owed (s : State) (c : Ctx) : (s.setCtx c).owed = s.owed := rfl
@[simp] theorem State.setCtx_poseReg (s : State) (c : Ctx) : (s.setCtx c).poseReg = s.poseReg := rfl
@[simp] theorem State.setCtx_outputs (s : State) (c : Ctx) : (s.setCtx c).outputs = s.outputs := rfl
@[simp] theorem State.setCtx_memTemp (s : State) (c : Ctx) : (s.setCtx c).memTemp = s.memTemp := rfl
@[simp] theorem State.setCtx_memHot (s : State) (c : Ctx) : (s.setCtx c).memHot = s.memHot := rfl
@[simp] theorem State.setCtx_ring (s : State) (c : Ctx) : (s.setCtx c).ring = s.ring := rfl
@[simp] theorem State.setCtx_milliVolt (s : State) (c : Ctx) : (s.setCtx c).milliVolt = s.milliVolt := rfl
@[simp] theorem State.setCtx_lastSample (s : State) (c : Ctx) : (s.setCtx c).lastSample = s.lastSample := rfl
@[simp] theorem State.setCtx_events (s : State) (c : Ctx) : (s.setCtx c).events = s.events := rfl
@[simp] theorem State.setCtx_nextEvent (s : State) (c : Ctx) : (s.setCtx c).nextEvent = s.nextEvent := rfl

theorem State.updCtx_or (s : State) (id : Nat) (f : Ctx → Ctx) : s.updCtx id f = s ∨ ∃ c, s.updCtx id f = s.setCtx c := by
  unfold State.updCtx
  cases s.ctx id with
  | none => exact .inl rfl
  | some c => exact .inr ⟨f c, rfl⟩

theorem State.updCtx_field {α : Type} (p : State → α) (h : ∀ (s : State) (c : Ctx), p (s.setCtx c) = p s) (s : State) (id : Nat)
    (f : Ctx → Ctx) : p (s.updCtx id f) = p s := by
  rcases s.updCtx_or id f with e | ⟨c, e⟩
  · rw [e]
  · rw [e, h]

@[simp] theorem State.updCtx_agenda (s : State) (id : Nat) (f : Ctx → Ctx) : (s.updCtx id f).agenda = s.agenda :=
  s.updCtx_field State.agenda (fun _ _ => rfl) id f
@[simp] theorem State.updCtx_round (s : State) (id : Nat) (f : Ctx → Ctx) : (s.updCtx id f).round = s.round :=
  s.updCtx_field State.round (fun _ _ => rfl) id f
@[simp] theorem State.updCtx_fresh (s : State) (id : Nat) (f : Ctx → Ctx) : (s.updCtx id f).fresh = s.fresh :=
  s.updCtx_field State.fresh (fun _ _ => rfl) id f
@[simp] theorem State.updCtx_issuer (s : State) (id : Nat) (f : Ctx → Ctx) : (s.updCtx id f).issuer = s.issuer :=
  s.updCtx_field State.issuer (fun _ _ => rfl) id f
@[simp] theorem State.updCtx_stop (s : State) (id : Nat) (f : Ctx → Ctx) : (s.updCtx id f).stop = s.stop :=
  s.updCtx_field State.stop (fun _ _ => rfl) id f
@[simp] theorem State.updCtx_clock (s : State) (id : Nat) (f : Ctx → Ctx) : (s.updCtx id f).clock = s.clock :=
  s.updCtx_field State.clock (fun _ _ => rfl) id f
@[simp] theorem State.updCtx_ftime (s : State) (id : Nat) (f : Ctx → Ctx) : (s.updCtx id f).ftime = s.ftime :=
  s.updCtx_field State.ftime (fun _ _ => rfl) id f
@[simp] theorem State.updCtx_ftimeRem (s : State) (id : Nat) (f : Ctx → Ctx) : (s.updCtx id f).ftimeRem = s.ftimeRem :=
  s.updCtx_field State.ftimeRem (fun _ _ => rfl) id f
@[simp] theorem State.updCtx_ftimeSlow (s : State) (id : Nat) (f : Ctx → Ctx) : (s.updCtx id f).ftimeSlow = s.ftimeSlow :=
  s.updCtx_field State.ftimeSlow (fun _ _ => rfl) id f
@[simp] theorem State.updCtx_acquired (s : State) (id : Nat) (f : Ctx → Ctx) : (s.updCtx id f).acquired = s.acquired :=
  s.updCtx_field State.acquired (fun _ _ => rfl) id f
@[simp] theorem State.updCtx_holdover (s : State) (id : Nat) (f : Ctx → Ctx) : (s.updCtx id f).holdover = s.holdover :=
  s.updCtx_field State.holdover (fun _ _ => rfl) id f
@[simp] theorem State.updCtx_lastBeacon (s : State) (id : Nat) (f : Ctx → Ctx) : (s.updCtx id f).lastBeacon = s.lastBeacon :=
  s.updCtx_field State.lastBeacon (fun _ _ => rfl) id f
@[simp] theorem State.updCtx_phase (s : State) (id : Nat) (f : Ctx → Ctx) : (s.updCtx id f).phase = s.phase :=
  s.updCtx_field State.phase (fun _ _ => rfl) id f
@[simp] theorem State.updCtx_fallback (s : State) (id : Nat) (f : Ctx → Ctx) : (s.updCtx id f).fallback = s.fallback :=
  s.updCtx_field State.fallback (fun _ _ => rfl) id f
@[simp] theorem State.updCtx_gen (s : State) (id : Nat) (f : Ctx → Ctx) : (s.updCtx id f).gen = s.gen :=
  s.updCtx_field State.gen (fun _ _ => rfl) id f
@[simp] theorem State.updCtx_devid (s : State) (id : Nat) (f : Ctx → Ctx) : (s.updCtx id f).devid = s.devid :=
  s.updCtx_field State.devid (fun _ _ => rfl) id f
@[simp] theorem State.updCtx_switch (s : State) (id : Nat) (f : Ctx → Ctx) : (s.updCtx id f).switch = s.switch :=
  s.updCtx_field State.switch (fun _ _ => rfl) id f
@[simp] theorem State.updCtx_step6 (s : State) (id : Nat) (f : Ctx → Ctx) : (s.updCtx id f).step6 = s.step6 :=
  s.updCtx_field State.step6 (fun _ _ => rfl) id f
@[simp] theorem State.updCtx_discovery (s : State) (id : Nat) (f : Ctx → Ctx) : (s.updCtx id f).discovery = s.discovery :=
  s.updCtx_field State.discovery (fun _ _ => rfl) id f
@[simp] theorem State.updCtx_keyed (s : State) (id : Nat) (f : Ctx → Ctx) : (s.updCtx id f).keyed = s.keyed :=
  s.updCtx_field State.keyed (fun _ _ => rfl) id f
@[simp] theorem State.updCtx_mem (s : State) (id : Nat) (f : Ctx → Ctx) : (s.updCtx id f).mem = s.mem :=
  s.updCtx_field State.mem (fun _ _ => rfl) id f
@[simp] theorem State.updCtx_columns (s : State) (id : Nat) (f : Ctx → Ctx) : (s.updCtx id f).columns = s.columns :=
  s.updCtx_field State.columns (fun _ _ => rfl) id f
@[simp] theorem State.updCtx_groups (s : State) (id : Nat) (f : Ctx → Ctx) : (s.updCtx id f).groups = s.groups :=
  s.updCtx_field State.groups (fun _ _ => rfl) id f
@[simp] theorem State.updCtx_nextGroup (s : State) (id : Nat) (f : Ctx → Ctx) : (s.updCtx id f).nextGroup = s.nextGroup :=
  s.updCtx_field State.nextGroup (fun _ _ => rfl) id f
@[simp] theorem State.updCtx_launches (s : State) (id : Nat) (f : Ctx → Ctx) : (s.updCtx id f).launches = s.launches :=
  s.updCtx_field State.launches (fun _ _ => rfl) id f
@[simp] theorem State.updCtx_nextLaunch (s : State) (id : Nat) (f : Ctx → Ctx) : (s.updCtx id f).nextLaunch = s.nextLaunch :=
  s.updCtx_field State.nextLaunch (fun _ _ => rfl) id f
@[simp] theorem State.updCtx_nextCtx (s : State) (id : Nat) (f : Ctx → Ctx) : (s.updCtx id f).nextCtx = s.nextCtx :=
  s.updCtx_field State.nextCtx (fun _ _ => rfl) id f
@[simp] theorem State.updCtx_tables (s : State) (id : Nat) (f : Ctx → Ctx) : (s.updCtx id f).tables = s.tables :=
  s.updCtx_field State.tables (fun _ _ => rfl) id f
@[simp] theorem State.updCtx_nextTable (s : State) (id : Nat) (f : Ctx → Ctx) : (s.updCtx id f).nextTable = s.nextTable :=
  s.updCtx_field State.nextTable (fun _ _ => rfl) id f
@[simp] theorem State.updCtx_tlb (s : State) (id : Nat) (f : Ctx → Ctx) : (s.updCtx id f).tlb = s.tlb :=
  s.updCtx_field State.tlb (fun _ _ => rfl) id f
@[simp] theorem State.updCtx_pools (s : State) (id : Nat) (f : Ctx → Ctx) : (s.updCtx id f).pools = s.pools :=
  s.updCtx_field State.pools (fun _ _ => rfl) id f
@[simp] theorem State.updCtx_faultq (s : State) (id : Nat) (f : Ctx → Ctx) : (s.updCtx id f).faultq = s.faultq :=
  s.updCtx_field State.faultq (fun _ _ => rfl) id f
@[simp] theorem State.updCtx_faultWait (s : State) (id : Nat) (f : Ctx → Ctx) : (s.updCtx id f).faultWait = s.faultWait :=
  s.updCtx_field State.faultWait (fun _ _ => rfl) id f
@[simp] theorem State.updCtx_faultSeq (s : State) (id : Nat) (f : Ctx → Ctx) : (s.updCtx id f).faultSeq = s.faultSeq :=
  s.updCtx_field State.faultSeq (fun _ _ => rfl) id f
@[simp] theorem State.updCtx_queues (s : State) (id : Nat) (f : Ctx → Ctx) : (s.updCtx id f).queues = s.queues :=
  s.updCtx_field State.queues (fun _ _ => rfl) id f
@[simp] theorem State.updCtx_nextQueue (s : State) (id : Nat) (f : Ctx → Ctx) : (s.updCtx id f).nextQueue = s.nextQueue :=
  s.updCtx_field State.nextQueue (fun _ _ => rfl) id f
@[simp] theorem State.updCtx_wakes (s : State) (id : Nat) (f : Ctx → Ctx) : (s.updCtx id f).wakes = s.wakes :=
  s.updCtx_field State.wakes (fun _ _ => rfl) id f
@[simp] theorem State.updCtx_wakeAll (s : State) (id : Nat) (f : Ctx → Ctx) : (s.updCtx id f).wakeAll = s.wakeAll :=
  s.updCtx_field State.wakeAll (fun _ _ => rfl) id f
@[simp] theorem State.updCtx_wakeOver (s : State) (id : Nat) (f : Ctx → Ctx) : (s.updCtx id f).wakeOver = s.wakeOver :=
  s.updCtx_field State.wakeOver (fun _ _ => rfl) id f
@[simp] theorem State.updCtx_lastBoundary (s : State) (id : Nat) (f : Ctx → Ctx) : (s.updCtx id f).lastBoundary = s.lastBoundary :=
  s.updCtx_field State.lastBoundary (fun _ _ => rfl) id f
@[simp] theorem State.updCtx_mbcmd (s : State) (id : Nat) (f : Ctx → Ctx) : (s.updCtx id f).mbcmd = s.mbcmd :=
  s.updCtx_field State.mbcmd (fun _ _ => rfl) id f
@[simp] theorem State.updCtx_mbrsp (s : State) (id : Nat) (f : Ctx → Ctx) : (s.updCtx id f).mbrsp = s.mbrsp :=
  s.updCtx_field State.mbrsp (fun _ _ => rfl) id f
@[simp] theorem State.updCtx_mbst (s : State) (id : Nat) (f : Ctx → Ctx) : (s.updCtx id f).mbst = s.mbst :=
  s.updCtx_field State.mbst (fun _ _ => rfl) id f
@[simp] theorem State.updCtx_serving (s : State) (id : Nat) (f : Ctx → Ctx) : (s.updCtx id f).serving = s.serving :=
  s.updCtx_field State.serving (fun _ _ => rfl) id f
@[simp] theorem State.updCtx_begun (s : State) (id : Nat) (f : Ctx → Ctx) : (s.updCtx id f).begun = s.begun :=
  s.updCtx_field State.begun (fun _ _ => rfl) id f
@[simp] theorem State.updCtx_resetCmd (s : State) (id : Nat) (f : Ctx → Ctx) : (s.updCtx id f).resetCmd = s.resetCmd :=
  s.updCtx_field State.resetCmd (fun _ _ => rfl) id f
@[simp] theorem State.updCtx_irqc (s : State) (id : Nat) (f : Ctx → Ctx) : (s.updCtx id f).irqc = s.irqc :=
  s.updCtx_field State.irqc (fun _ _ => rfl) id f
@[simp] theorem State.updCtx_ports (s : State) (id : Nat) (f : Ctx → Ctx) : (s.updCtx id f).ports = s.ports :=
  s.updCtx_field State.ports (fun _ _ => rfl) id f
@[simp] theorem State.updCtx_nextTag (s : State) (id : Nat) (f : Ctx → Ctx) : (s.updCtx id f).nextTag = s.nextTag :=
  s.updCtx_field State.nextTag (fun _ _ => rfl) id f
@[simp] theorem State.updCtx_peerReqs (s : State) (id : Nat) (f : Ctx → Ctx) : (s.updCtx id f).peerReqs = s.peerReqs :=
  s.updCtx_field State.peerReqs (fun _ _ => rfl) id f
@[simp] theorem State.updCtx_peerParts (s : State) (id : Nat) (f : Ctx → Ctx) : (s.updCtx id f).peerParts = s.peerParts :=
  s.updCtx_field State.peerParts (fun _ _ => rfl) id f
@[simp] theorem State.updCtx_owed (s : State) (id : Nat) (f : Ctx → Ctx) : (s.updCtx id f).owed = s.owed :=
  s.updCtx_field State.owed (fun _ _ => rfl) id f
@[simp] theorem State.updCtx_poseReg (s : State) (id : Nat) (f : Ctx → Ctx) : (s.updCtx id f).poseReg = s.poseReg :=
  s.updCtx_field State.poseReg (fun _ _ => rfl) id f
@[simp] theorem State.updCtx_outputs (s : State) (id : Nat) (f : Ctx → Ctx) : (s.updCtx id f).outputs = s.outputs :=
  s.updCtx_field State.outputs (fun _ _ => rfl) id f
@[simp] theorem State.updCtx_memTemp (s : State) (id : Nat) (f : Ctx → Ctx) : (s.updCtx id f).memTemp = s.memTemp :=
  s.updCtx_field State.memTemp (fun _ _ => rfl) id f
@[simp] theorem State.updCtx_memHot (s : State) (id : Nat) (f : Ctx → Ctx) : (s.updCtx id f).memHot = s.memHot :=
  s.updCtx_field State.memHot (fun _ _ => rfl) id f
@[simp] theorem State.updCtx_ring (s : State) (id : Nat) (f : Ctx → Ctx) : (s.updCtx id f).ring = s.ring :=
  s.updCtx_field State.ring (fun _ _ => rfl) id f
@[simp] theorem State.updCtx_milliVolt (s : State) (id : Nat) (f : Ctx → Ctx) : (s.updCtx id f).milliVolt = s.milliVolt :=
  s.updCtx_field State.milliVolt (fun _ _ => rfl) id f
@[simp] theorem State.updCtx_lastSample (s : State) (id : Nat) (f : Ctx → Ctx) : (s.updCtx id f).lastSample = s.lastSample :=
  s.updCtx_field State.lastSample (fun _ _ => rfl) id f
@[simp] theorem State.updCtx_events (s : State) (id : Nat) (f : Ctx → Ctx) : (s.updCtx id f).events = s.events :=
  s.updCtx_field State.events (fun _ _ => rfl) id f
@[simp] theorem State.updCtx_nextEvent (s : State) (id : Nat) (f : Ctx → Ctx) : (s.updCtx id f).nextEvent = s.nextEvent :=
  s.updCtx_field State.nextEvent (fun _ _ => rfl) id f

/-! ### State.updLaunch -/

@[simp] theorem State.updLaunch_agenda (s : State) (uid : Nat) (f : Launch → Launch) : (s.updLaunch uid f).agenda = s.agenda := rfl
@[simp] theorem State.updLaunch_round (s : State) (uid : Nat) (f : Launch → Launch) : (s.updLaunch uid f).round = s.round := rfl
@[simp] theorem State.updLaunch_fresh (s : State) (uid : Nat) (f : Launch → Launch) : (s.updLaunch uid f).fresh = s.fresh := rfl
@[simp] theorem State.updLaunch_issuer (s : State) (uid : Nat) (f : Launch → Launch) : (s.updLaunch uid f).issuer = s.issuer := rfl
@[simp] theorem State.updLaunch_stop (s : State) (uid : Nat) (f : Launch → Launch) : (s.updLaunch uid f).stop = s.stop := rfl
@[simp] theorem State.updLaunch_clock (s : State) (uid : Nat) (f : Launch → Launch) : (s.updLaunch uid f).clock = s.clock := rfl
@[simp] theorem State.updLaunch_ftime (s : State) (uid : Nat) (f : Launch → Launch) : (s.updLaunch uid f).ftime = s.ftime := rfl
@[simp] theorem State.updLaunch_ftimeRem (s : State) (uid : Nat) (f : Launch → Launch) : (s.updLaunch uid f).ftimeRem = s.ftimeRem := rfl
@[simp] theorem State.updLaunch_ftimeSlow (s : State) (uid : Nat) (f : Launch → Launch) : (s.updLaunch uid f).ftimeSlow = s.ftimeSlow := rfl
@[simp] theorem State.updLaunch_acquired (s : State) (uid : Nat) (f : Launch → Launch) : (s.updLaunch uid f).acquired = s.acquired := rfl
@[simp] theorem State.updLaunch_holdover (s : State) (uid : Nat) (f : Launch → Launch) : (s.updLaunch uid f).holdover = s.holdover := rfl
@[simp] theorem State.updLaunch_lastBeacon (s : State) (uid : Nat) (f : Launch → Launch) : (s.updLaunch uid f).lastBeacon = s.lastBeacon := rfl
@[simp] theorem State.updLaunch_phase (s : State) (uid : Nat) (f : Launch → Launch) : (s.updLaunch uid f).phase = s.phase := rfl
@[simp] theorem State.updLaunch_fallback (s : State) (uid : Nat) (f : Launch → Launch) : (s.updLaunch uid f).fallback = s.fallback := rfl
@[simp] theorem State.updLaunch_gen (s : State) (uid : Nat) (f : Launch → Launch) : (s.updLaunch uid f).gen = s.gen := rfl
@[simp] theorem State.updLaunch_devid (s : State) (uid : Nat) (f : Launch → Launch) : (s.updLaunch uid f).devid = s.devid := rfl
@[simp] theorem State.updLaunch_switch (s : State) (uid : Nat) (f : Launch → Launch) : (s.updLaunch uid f).switch = s.switch := rfl
@[simp] theorem State.updLaunch_step6 (s : State) (uid : Nat) (f : Launch → Launch) : (s.updLaunch uid f).step6 = s.step6 := rfl
@[simp] theorem State.updLaunch_discovery (s : State) (uid : Nat) (f : Launch → Launch) : (s.updLaunch uid f).discovery = s.discovery := rfl
@[simp] theorem State.updLaunch_keyed (s : State) (uid : Nat) (f : Launch → Launch) : (s.updLaunch uid f).keyed = s.keyed := rfl
@[simp] theorem State.updLaunch_mem (s : State) (uid : Nat) (f : Launch → Launch) : (s.updLaunch uid f).mem = s.mem := rfl
@[simp] theorem State.updLaunch_columns (s : State) (uid : Nat) (f : Launch → Launch) : (s.updLaunch uid f).columns = s.columns := rfl
@[simp] theorem State.updLaunch_groups (s : State) (uid : Nat) (f : Launch → Launch) : (s.updLaunch uid f).groups = s.groups := rfl
@[simp] theorem State.updLaunch_nextGroup (s : State) (uid : Nat) (f : Launch → Launch) : (s.updLaunch uid f).nextGroup = s.nextGroup := rfl
@[simp] theorem State.updLaunch_nextLaunch (s : State) (uid : Nat) (f : Launch → Launch) : (s.updLaunch uid f).nextLaunch = s.nextLaunch := rfl
@[simp] theorem State.updLaunch_contexts (s : State) (uid : Nat) (f : Launch → Launch) : (s.updLaunch uid f).contexts = s.contexts := rfl
@[simp] theorem State.updLaunch_nextCtx (s : State) (uid : Nat) (f : Launch → Launch) : (s.updLaunch uid f).nextCtx = s.nextCtx := rfl
@[simp] theorem State.updLaunch_tables (s : State) (uid : Nat) (f : Launch → Launch) : (s.updLaunch uid f).tables = s.tables := rfl
@[simp] theorem State.updLaunch_nextTable (s : State) (uid : Nat) (f : Launch → Launch) : (s.updLaunch uid f).nextTable = s.nextTable := rfl
@[simp] theorem State.updLaunch_tlb (s : State) (uid : Nat) (f : Launch → Launch) : (s.updLaunch uid f).tlb = s.tlb := rfl
@[simp] theorem State.updLaunch_pools (s : State) (uid : Nat) (f : Launch → Launch) : (s.updLaunch uid f).pools = s.pools := rfl
@[simp] theorem State.updLaunch_faultq (s : State) (uid : Nat) (f : Launch → Launch) : (s.updLaunch uid f).faultq = s.faultq := rfl
@[simp] theorem State.updLaunch_faultWait (s : State) (uid : Nat) (f : Launch → Launch) : (s.updLaunch uid f).faultWait = s.faultWait := rfl
@[simp] theorem State.updLaunch_faultSeq (s : State) (uid : Nat) (f : Launch → Launch) : (s.updLaunch uid f).faultSeq = s.faultSeq := rfl
@[simp] theorem State.updLaunch_queues (s : State) (uid : Nat) (f : Launch → Launch) : (s.updLaunch uid f).queues = s.queues := rfl
@[simp] theorem State.updLaunch_nextQueue (s : State) (uid : Nat) (f : Launch → Launch) : (s.updLaunch uid f).nextQueue = s.nextQueue := rfl
@[simp] theorem State.updLaunch_wakes (s : State) (uid : Nat) (f : Launch → Launch) : (s.updLaunch uid f).wakes = s.wakes := rfl
@[simp] theorem State.updLaunch_wakeAll (s : State) (uid : Nat) (f : Launch → Launch) : (s.updLaunch uid f).wakeAll = s.wakeAll := rfl
@[simp] theorem State.updLaunch_wakeOver (s : State) (uid : Nat) (f : Launch → Launch) : (s.updLaunch uid f).wakeOver = s.wakeOver := rfl
@[simp] theorem State.updLaunch_lastBoundary (s : State) (uid : Nat) (f : Launch → Launch) : (s.updLaunch uid f).lastBoundary = s.lastBoundary := rfl
@[simp] theorem State.updLaunch_mbcmd (s : State) (uid : Nat) (f : Launch → Launch) : (s.updLaunch uid f).mbcmd = s.mbcmd := rfl
@[simp] theorem State.updLaunch_mbrsp (s : State) (uid : Nat) (f : Launch → Launch) : (s.updLaunch uid f).mbrsp = s.mbrsp := rfl
@[simp] theorem State.updLaunch_mbst (s : State) (uid : Nat) (f : Launch → Launch) : (s.updLaunch uid f).mbst = s.mbst := rfl
@[simp] theorem State.updLaunch_serving (s : State) (uid : Nat) (f : Launch → Launch) : (s.updLaunch uid f).serving = s.serving := rfl
@[simp] theorem State.updLaunch_begun (s : State) (uid : Nat) (f : Launch → Launch) : (s.updLaunch uid f).begun = s.begun := rfl
@[simp] theorem State.updLaunch_resetCmd (s : State) (uid : Nat) (f : Launch → Launch) : (s.updLaunch uid f).resetCmd = s.resetCmd := rfl
@[simp] theorem State.updLaunch_irqc (s : State) (uid : Nat) (f : Launch → Launch) : (s.updLaunch uid f).irqc = s.irqc := rfl
@[simp] theorem State.updLaunch_ports (s : State) (uid : Nat) (f : Launch → Launch) : (s.updLaunch uid f).ports = s.ports := rfl
@[simp] theorem State.updLaunch_nextTag (s : State) (uid : Nat) (f : Launch → Launch) : (s.updLaunch uid f).nextTag = s.nextTag := rfl
@[simp] theorem State.updLaunch_peerReqs (s : State) (uid : Nat) (f : Launch → Launch) : (s.updLaunch uid f).peerReqs = s.peerReqs := rfl
@[simp] theorem State.updLaunch_peerParts (s : State) (uid : Nat) (f : Launch → Launch) : (s.updLaunch uid f).peerParts = s.peerParts := rfl
@[simp] theorem State.updLaunch_owed (s : State) (uid : Nat) (f : Launch → Launch) : (s.updLaunch uid f).owed = s.owed := rfl
@[simp] theorem State.updLaunch_poseReg (s : State) (uid : Nat) (f : Launch → Launch) : (s.updLaunch uid f).poseReg = s.poseReg := rfl
@[simp] theorem State.updLaunch_outputs (s : State) (uid : Nat) (f : Launch → Launch) : (s.updLaunch uid f).outputs = s.outputs := rfl
@[simp] theorem State.updLaunch_memTemp (s : State) (uid : Nat) (f : Launch → Launch) : (s.updLaunch uid f).memTemp = s.memTemp := rfl
@[simp] theorem State.updLaunch_memHot (s : State) (uid : Nat) (f : Launch → Launch) : (s.updLaunch uid f).memHot = s.memHot := rfl
@[simp] theorem State.updLaunch_ring (s : State) (uid : Nat) (f : Launch → Launch) : (s.updLaunch uid f).ring = s.ring := rfl
@[simp] theorem State.updLaunch_milliVolt (s : State) (uid : Nat) (f : Launch → Launch) : (s.updLaunch uid f).milliVolt = s.milliVolt := rfl
@[simp] theorem State.updLaunch_lastSample (s : State) (uid : Nat) (f : Launch → Launch) : (s.updLaunch uid f).lastSample = s.lastSample := rfl
@[simp] theorem State.updLaunch_events (s : State) (uid : Nat) (f : Launch → Launch) : (s.updLaunch uid f).events = s.events := rfl
@[simp] theorem State.updLaunch_nextEvent (s : State) (uid : Nat) (f : Launch → Launch) : (s.updLaunch uid f).nextEvent = s.nextEvent := rfl

/-! ### State.updQueue -/

@[simp] theorem State.updQueue_agenda (s : State) (qid : Nat) (f : Queue → Queue) : (s.updQueue qid f).agenda = s.agenda := rfl
@[simp] theorem State.updQueue_round (s : State) (qid : Nat) (f : Queue → Queue) : (s.updQueue qid f).round = s.round := rfl
@[simp] theorem State.updQueue_fresh (s : State) (qid : Nat) (f : Queue → Queue) : (s.updQueue qid f).fresh = s.fresh := rfl
@[simp] theorem State.updQueue_issuer (s : State) (qid : Nat) (f : Queue → Queue) : (s.updQueue qid f).issuer = s.issuer := rfl
@[simp] theorem State.updQueue_stop (s : State) (qid : Nat) (f : Queue → Queue) : (s.updQueue qid f).stop = s.stop := rfl
@[simp] theorem State.updQueue_clock (s : State) (qid : Nat) (f : Queue → Queue) : (s.updQueue qid f).clock = s.clock := rfl
@[simp] theorem State.updQueue_ftime (s : State) (qid : Nat) (f : Queue → Queue) : (s.updQueue qid f).ftime = s.ftime := rfl
@[simp] theorem State.updQueue_ftimeRem (s : State) (qid : Nat) (f : Queue → Queue) : (s.updQueue qid f).ftimeRem = s.ftimeRem := rfl
@[simp] theorem State.updQueue_ftimeSlow (s : State) (qid : Nat) (f : Queue → Queue) : (s.updQueue qid f).ftimeSlow = s.ftimeSlow := rfl
@[simp] theorem State.updQueue_acquired (s : State) (qid : Nat) (f : Queue → Queue) : (s.updQueue qid f).acquired = s.acquired := rfl
@[simp] theorem State.updQueue_holdover (s : State) (qid : Nat) (f : Queue → Queue) : (s.updQueue qid f).holdover = s.holdover := rfl
@[simp] theorem State.updQueue_lastBeacon (s : State) (qid : Nat) (f : Queue → Queue) : (s.updQueue qid f).lastBeacon = s.lastBeacon := rfl
@[simp] theorem State.updQueue_phase (s : State) (qid : Nat) (f : Queue → Queue) : (s.updQueue qid f).phase = s.phase := rfl
@[simp] theorem State.updQueue_fallback (s : State) (qid : Nat) (f : Queue → Queue) : (s.updQueue qid f).fallback = s.fallback := rfl
@[simp] theorem State.updQueue_gen (s : State) (qid : Nat) (f : Queue → Queue) : (s.updQueue qid f).gen = s.gen := rfl
@[simp] theorem State.updQueue_devid (s : State) (qid : Nat) (f : Queue → Queue) : (s.updQueue qid f).devid = s.devid := rfl
@[simp] theorem State.updQueue_switch (s : State) (qid : Nat) (f : Queue → Queue) : (s.updQueue qid f).switch = s.switch := rfl
@[simp] theorem State.updQueue_step6 (s : State) (qid : Nat) (f : Queue → Queue) : (s.updQueue qid f).step6 = s.step6 := rfl
@[simp] theorem State.updQueue_discovery (s : State) (qid : Nat) (f : Queue → Queue) : (s.updQueue qid f).discovery = s.discovery := rfl
@[simp] theorem State.updQueue_keyed (s : State) (qid : Nat) (f : Queue → Queue) : (s.updQueue qid f).keyed = s.keyed := rfl
@[simp] theorem State.updQueue_mem (s : State) (qid : Nat) (f : Queue → Queue) : (s.updQueue qid f).mem = s.mem := rfl
@[simp] theorem State.updQueue_columns (s : State) (qid : Nat) (f : Queue → Queue) : (s.updQueue qid f).columns = s.columns := rfl
@[simp] theorem State.updQueue_groups (s : State) (qid : Nat) (f : Queue → Queue) : (s.updQueue qid f).groups = s.groups := rfl
@[simp] theorem State.updQueue_nextGroup (s : State) (qid : Nat) (f : Queue → Queue) : (s.updQueue qid f).nextGroup = s.nextGroup := rfl
@[simp] theorem State.updQueue_launches (s : State) (qid : Nat) (f : Queue → Queue) : (s.updQueue qid f).launches = s.launches := rfl
@[simp] theorem State.updQueue_nextLaunch (s : State) (qid : Nat) (f : Queue → Queue) : (s.updQueue qid f).nextLaunch = s.nextLaunch := rfl
@[simp] theorem State.updQueue_contexts (s : State) (qid : Nat) (f : Queue → Queue) : (s.updQueue qid f).contexts = s.contexts := rfl
@[simp] theorem State.updQueue_nextCtx (s : State) (qid : Nat) (f : Queue → Queue) : (s.updQueue qid f).nextCtx = s.nextCtx := rfl
@[simp] theorem State.updQueue_tables (s : State) (qid : Nat) (f : Queue → Queue) : (s.updQueue qid f).tables = s.tables := rfl
@[simp] theorem State.updQueue_nextTable (s : State) (qid : Nat) (f : Queue → Queue) : (s.updQueue qid f).nextTable = s.nextTable := rfl
@[simp] theorem State.updQueue_tlb (s : State) (qid : Nat) (f : Queue → Queue) : (s.updQueue qid f).tlb = s.tlb := rfl
@[simp] theorem State.updQueue_pools (s : State) (qid : Nat) (f : Queue → Queue) : (s.updQueue qid f).pools = s.pools := rfl
@[simp] theorem State.updQueue_faultq (s : State) (qid : Nat) (f : Queue → Queue) : (s.updQueue qid f).faultq = s.faultq := rfl
@[simp] theorem State.updQueue_faultWait (s : State) (qid : Nat) (f : Queue → Queue) : (s.updQueue qid f).faultWait = s.faultWait := rfl
@[simp] theorem State.updQueue_faultSeq (s : State) (qid : Nat) (f : Queue → Queue) : (s.updQueue qid f).faultSeq = s.faultSeq := rfl
@[simp] theorem State.updQueue_nextQueue (s : State) (qid : Nat) (f : Queue → Queue) : (s.updQueue qid f).nextQueue = s.nextQueue := rfl
@[simp] theorem State.updQueue_wakes (s : State) (qid : Nat) (f : Queue → Queue) : (s.updQueue qid f).wakes = s.wakes := rfl
@[simp] theorem State.updQueue_wakeAll (s : State) (qid : Nat) (f : Queue → Queue) : (s.updQueue qid f).wakeAll = s.wakeAll := rfl
@[simp] theorem State.updQueue_wakeOver (s : State) (qid : Nat) (f : Queue → Queue) : (s.updQueue qid f).wakeOver = s.wakeOver := rfl
@[simp] theorem State.updQueue_lastBoundary (s : State) (qid : Nat) (f : Queue → Queue) : (s.updQueue qid f).lastBoundary = s.lastBoundary := rfl
@[simp] theorem State.updQueue_mbcmd (s : State) (qid : Nat) (f : Queue → Queue) : (s.updQueue qid f).mbcmd = s.mbcmd := rfl
@[simp] theorem State.updQueue_mbrsp (s : State) (qid : Nat) (f : Queue → Queue) : (s.updQueue qid f).mbrsp = s.mbrsp := rfl
@[simp] theorem State.updQueue_mbst (s : State) (qid : Nat) (f : Queue → Queue) : (s.updQueue qid f).mbst = s.mbst := rfl
@[simp] theorem State.updQueue_serving (s : State) (qid : Nat) (f : Queue → Queue) : (s.updQueue qid f).serving = s.serving := rfl
@[simp] theorem State.updQueue_begun (s : State) (qid : Nat) (f : Queue → Queue) : (s.updQueue qid f).begun = s.begun := rfl
@[simp] theorem State.updQueue_resetCmd (s : State) (qid : Nat) (f : Queue → Queue) : (s.updQueue qid f).resetCmd = s.resetCmd := rfl
@[simp] theorem State.updQueue_irqc (s : State) (qid : Nat) (f : Queue → Queue) : (s.updQueue qid f).irqc = s.irqc := rfl
@[simp] theorem State.updQueue_ports (s : State) (qid : Nat) (f : Queue → Queue) : (s.updQueue qid f).ports = s.ports := rfl
@[simp] theorem State.updQueue_nextTag (s : State) (qid : Nat) (f : Queue → Queue) : (s.updQueue qid f).nextTag = s.nextTag := rfl
@[simp] theorem State.updQueue_peerReqs (s : State) (qid : Nat) (f : Queue → Queue) : (s.updQueue qid f).peerReqs = s.peerReqs := rfl
@[simp] theorem State.updQueue_peerParts (s : State) (qid : Nat) (f : Queue → Queue) : (s.updQueue qid f).peerParts = s.peerParts := rfl
@[simp] theorem State.updQueue_owed (s : State) (qid : Nat) (f : Queue → Queue) : (s.updQueue qid f).owed = s.owed := rfl
@[simp] theorem State.updQueue_poseReg (s : State) (qid : Nat) (f : Queue → Queue) : (s.updQueue qid f).poseReg = s.poseReg := rfl
@[simp] theorem State.updQueue_outputs (s : State) (qid : Nat) (f : Queue → Queue) : (s.updQueue qid f).outputs = s.outputs := rfl
@[simp] theorem State.updQueue_memTemp (s : State) (qid : Nat) (f : Queue → Queue) : (s.updQueue qid f).memTemp = s.memTemp := rfl
@[simp] theorem State.updQueue_memHot (s : State) (qid : Nat) (f : Queue → Queue) : (s.updQueue qid f).memHot = s.memHot := rfl
@[simp] theorem State.updQueue_ring (s : State) (qid : Nat) (f : Queue → Queue) : (s.updQueue qid f).ring = s.ring := rfl
@[simp] theorem State.updQueue_milliVolt (s : State) (qid : Nat) (f : Queue → Queue) : (s.updQueue qid f).milliVolt = s.milliVolt := rfl
@[simp] theorem State.updQueue_lastSample (s : State) (qid : Nat) (f : Queue → Queue) : (s.updQueue qid f).lastSample = s.lastSample := rfl
@[simp] theorem State.updQueue_events (s : State) (qid : Nat) (f : Queue → Queue) : (s.updQueue qid f).events = s.events := rfl
@[simp] theorem State.updQueue_nextEvent (s : State) (qid : Nat) (f : Queue → Queue) : (s.updQueue qid f).nextEvent = s.nextEvent := rfl

/-! ### State.setPort -/

@[simp] theorem State.setPort_agenda (s : State) (i : Nat) (p : Port) : (s.setPort i p).agenda = s.agenda := rfl
@[simp] theorem State.setPort_round (s : State) (i : Nat) (p : Port) : (s.setPort i p).round = s.round := rfl
@[simp] theorem State.setPort_fresh (s : State) (i : Nat) (p : Port) : (s.setPort i p).fresh = s.fresh := rfl
@[simp] theorem State.setPort_issuer (s : State) (i : Nat) (p : Port) : (s.setPort i p).issuer = s.issuer := rfl
@[simp] theorem State.setPort_stop (s : State) (i : Nat) (p : Port) : (s.setPort i p).stop = s.stop := rfl
@[simp] theorem State.setPort_clock (s : State) (i : Nat) (p : Port) : (s.setPort i p).clock = s.clock := rfl
@[simp] theorem State.setPort_ftime (s : State) (i : Nat) (p : Port) : (s.setPort i p).ftime = s.ftime := rfl
@[simp] theorem State.setPort_ftimeRem (s : State) (i : Nat) (p : Port) : (s.setPort i p).ftimeRem = s.ftimeRem := rfl
@[simp] theorem State.setPort_ftimeSlow (s : State) (i : Nat) (p : Port) : (s.setPort i p).ftimeSlow = s.ftimeSlow := rfl
@[simp] theorem State.setPort_acquired (s : State) (i : Nat) (p : Port) : (s.setPort i p).acquired = s.acquired := rfl
@[simp] theorem State.setPort_holdover (s : State) (i : Nat) (p : Port) : (s.setPort i p).holdover = s.holdover := rfl
@[simp] theorem State.setPort_lastBeacon (s : State) (i : Nat) (p : Port) : (s.setPort i p).lastBeacon = s.lastBeacon := rfl
@[simp] theorem State.setPort_phase (s : State) (i : Nat) (p : Port) : (s.setPort i p).phase = s.phase := rfl
@[simp] theorem State.setPort_fallback (s : State) (i : Nat) (p : Port) : (s.setPort i p).fallback = s.fallback := rfl
@[simp] theorem State.setPort_gen (s : State) (i : Nat) (p : Port) : (s.setPort i p).gen = s.gen := rfl
@[simp] theorem State.setPort_devid (s : State) (i : Nat) (p : Port) : (s.setPort i p).devid = s.devid := rfl
@[simp] theorem State.setPort_switch (s : State) (i : Nat) (p : Port) : (s.setPort i p).switch = s.switch := rfl
@[simp] theorem State.setPort_step6 (s : State) (i : Nat) (p : Port) : (s.setPort i p).step6 = s.step6 := rfl
@[simp] theorem State.setPort_discovery (s : State) (i : Nat) (p : Port) : (s.setPort i p).discovery = s.discovery := rfl
@[simp] theorem State.setPort_keyed (s : State) (i : Nat) (p : Port) : (s.setPort i p).keyed = s.keyed := rfl
@[simp] theorem State.setPort_mem (s : State) (i : Nat) (p : Port) : (s.setPort i p).mem = s.mem := rfl
@[simp] theorem State.setPort_columns (s : State) (i : Nat) (p : Port) : (s.setPort i p).columns = s.columns := rfl
@[simp] theorem State.setPort_groups (s : State) (i : Nat) (p : Port) : (s.setPort i p).groups = s.groups := rfl
@[simp] theorem State.setPort_nextGroup (s : State) (i : Nat) (p : Port) : (s.setPort i p).nextGroup = s.nextGroup := rfl
@[simp] theorem State.setPort_launches (s : State) (i : Nat) (p : Port) : (s.setPort i p).launches = s.launches := rfl
@[simp] theorem State.setPort_nextLaunch (s : State) (i : Nat) (p : Port) : (s.setPort i p).nextLaunch = s.nextLaunch := rfl
@[simp] theorem State.setPort_contexts (s : State) (i : Nat) (p : Port) : (s.setPort i p).contexts = s.contexts := rfl
@[simp] theorem State.setPort_nextCtx (s : State) (i : Nat) (p : Port) : (s.setPort i p).nextCtx = s.nextCtx := rfl
@[simp] theorem State.setPort_tables (s : State) (i : Nat) (p : Port) : (s.setPort i p).tables = s.tables := rfl
@[simp] theorem State.setPort_nextTable (s : State) (i : Nat) (p : Port) : (s.setPort i p).nextTable = s.nextTable := rfl
@[simp] theorem State.setPort_tlb (s : State) (i : Nat) (p : Port) : (s.setPort i p).tlb = s.tlb := rfl
@[simp] theorem State.setPort_pools (s : State) (i : Nat) (p : Port) : (s.setPort i p).pools = s.pools := rfl
@[simp] theorem State.setPort_faultq (s : State) (i : Nat) (p : Port) : (s.setPort i p).faultq = s.faultq := rfl
@[simp] theorem State.setPort_faultWait (s : State) (i : Nat) (p : Port) : (s.setPort i p).faultWait = s.faultWait := rfl
@[simp] theorem State.setPort_faultSeq (s : State) (i : Nat) (p : Port) : (s.setPort i p).faultSeq = s.faultSeq := rfl
@[simp] theorem State.setPort_queues (s : State) (i : Nat) (p : Port) : (s.setPort i p).queues = s.queues := rfl
@[simp] theorem State.setPort_nextQueue (s : State) (i : Nat) (p : Port) : (s.setPort i p).nextQueue = s.nextQueue := rfl
@[simp] theorem State.setPort_wakes (s : State) (i : Nat) (p : Port) : (s.setPort i p).wakes = s.wakes := rfl
@[simp] theorem State.setPort_wakeAll (s : State) (i : Nat) (p : Port) : (s.setPort i p).wakeAll = s.wakeAll := rfl
@[simp] theorem State.setPort_wakeOver (s : State) (i : Nat) (p : Port) : (s.setPort i p).wakeOver = s.wakeOver := rfl
@[simp] theorem State.setPort_lastBoundary (s : State) (i : Nat) (p : Port) : (s.setPort i p).lastBoundary = s.lastBoundary := rfl
@[simp] theorem State.setPort_mbcmd (s : State) (i : Nat) (p : Port) : (s.setPort i p).mbcmd = s.mbcmd := rfl
@[simp] theorem State.setPort_mbrsp (s : State) (i : Nat) (p : Port) : (s.setPort i p).mbrsp = s.mbrsp := rfl
@[simp] theorem State.setPort_mbst (s : State) (i : Nat) (p : Port) : (s.setPort i p).mbst = s.mbst := rfl
@[simp] theorem State.setPort_serving (s : State) (i : Nat) (p : Port) : (s.setPort i p).serving = s.serving := rfl
@[simp] theorem State.setPort_begun (s : State) (i : Nat) (p : Port) : (s.setPort i p).begun = s.begun := rfl
@[simp] theorem State.setPort_resetCmd (s : State) (i : Nat) (p : Port) : (s.setPort i p).resetCmd = s.resetCmd := rfl
@[simp] theorem State.setPort_irqc (s : State) (i : Nat) (p : Port) : (s.setPort i p).irqc = s.irqc := rfl
@[simp] theorem State.setPort_nextTag (s : State) (i : Nat) (p : Port) : (s.setPort i p).nextTag = s.nextTag := rfl
@[simp] theorem State.setPort_peerReqs (s : State) (i : Nat) (p : Port) : (s.setPort i p).peerReqs = s.peerReqs := rfl
@[simp] theorem State.setPort_peerParts (s : State) (i : Nat) (p : Port) : (s.setPort i p).peerParts = s.peerParts := rfl
@[simp] theorem State.setPort_owed (s : State) (i : Nat) (p : Port) : (s.setPort i p).owed = s.owed := rfl
@[simp] theorem State.setPort_poseReg (s : State) (i : Nat) (p : Port) : (s.setPort i p).poseReg = s.poseReg := rfl
@[simp] theorem State.setPort_outputs (s : State) (i : Nat) (p : Port) : (s.setPort i p).outputs = s.outputs := rfl
@[simp] theorem State.setPort_memTemp (s : State) (i : Nat) (p : Port) : (s.setPort i p).memTemp = s.memTemp := rfl
@[simp] theorem State.setPort_memHot (s : State) (i : Nat) (p : Port) : (s.setPort i p).memHot = s.memHot := rfl
@[simp] theorem State.setPort_ring (s : State) (i : Nat) (p : Port) : (s.setPort i p).ring = s.ring := rfl
@[simp] theorem State.setPort_milliVolt (s : State) (i : Nat) (p : Port) : (s.setPort i p).milliVolt = s.milliVolt := rfl
@[simp] theorem State.setPort_lastSample (s : State) (i : Nat) (p : Port) : (s.setPort i p).lastSample = s.lastSample := rfl
@[simp] theorem State.setPort_events (s : State) (i : Nat) (p : Port) : (s.setPort i p).events = s.events := rfl
@[simp] theorem State.setPort_nextEvent (s : State) (i : Nat) (p : Port) : (s.setPort i p).nextEvent = s.nextEvent := rfl

/-! ### State.draw -/

@[simp] theorem State.draw_agenda (s : State) : s.draw.2.agenda = s.agenda := rfl
@[simp] theorem State.draw_round (s : State) : s.draw.2.round = s.round := rfl
@[simp] theorem State.draw_issuer (s : State) : s.draw.2.issuer = s.issuer := rfl
@[simp] theorem State.draw_stop (s : State) : s.draw.2.stop = s.stop := rfl
@[simp] theorem State.draw_clock (s : State) : s.draw.2.clock = s.clock := rfl
@[simp] theorem State.draw_ftime (s : State) : s.draw.2.ftime = s.ftime := rfl
@[simp] theorem State.draw_ftimeRem (s : State) : s.draw.2.ftimeRem = s.ftimeRem := rfl
@[simp] theorem State.draw_ftimeSlow (s : State) : s.draw.2.ftimeSlow = s.ftimeSlow := rfl
@[simp] theorem State.draw_acquired (s : State) : s.draw.2.acquired = s.acquired := rfl
@[simp] theorem State.draw_holdover (s : State) : s.draw.2.holdover = s.holdover := rfl
@[simp] theorem State.draw_lastBeacon (s : State) : s.draw.2.lastBeacon = s.lastBeacon := rfl
@[simp] theorem State.draw_phase (s : State) : s.draw.2.phase = s.phase := rfl
@[simp] theorem State.draw_fallback (s : State) : s.draw.2.fallback = s.fallback := rfl
@[simp] theorem State.draw_gen (s : State) : s.draw.2.gen = s.gen := rfl
@[simp] theorem State.draw_devid (s : State) : s.draw.2.devid = s.devid := rfl
@[simp] theorem State.draw_switch (s : State) : s.draw.2.switch = s.switch := rfl
@[simp] theorem State.draw_step6 (s : State) : s.draw.2.step6 = s.step6 := rfl
@[simp] theorem State.draw_discovery (s : State) : s.draw.2.discovery = s.discovery := rfl
@[simp] theorem State.draw_keyed (s : State) : s.draw.2.keyed = s.keyed := rfl
@[simp] theorem State.draw_mem (s : State) : s.draw.2.mem = s.mem := rfl
@[simp] theorem State.draw_columns (s : State) : s.draw.2.columns = s.columns := rfl
@[simp] theorem State.draw_groups (s : State) : s.draw.2.groups = s.groups := rfl
@[simp] theorem State.draw_nextGroup (s : State) : s.draw.2.nextGroup = s.nextGroup := rfl
@[simp] theorem State.draw_launches (s : State) : s.draw.2.launches = s.launches := rfl
@[simp] theorem State.draw_nextLaunch (s : State) : s.draw.2.nextLaunch = s.nextLaunch := rfl
@[simp] theorem State.draw_contexts (s : State) : s.draw.2.contexts = s.contexts := rfl
@[simp] theorem State.draw_nextCtx (s : State) : s.draw.2.nextCtx = s.nextCtx := rfl
@[simp] theorem State.draw_tables (s : State) : s.draw.2.tables = s.tables := rfl
@[simp] theorem State.draw_nextTable (s : State) : s.draw.2.nextTable = s.nextTable := rfl
@[simp] theorem State.draw_tlb (s : State) : s.draw.2.tlb = s.tlb := rfl
@[simp] theorem State.draw_pools (s : State) : s.draw.2.pools = s.pools := rfl
@[simp] theorem State.draw_faultq (s : State) : s.draw.2.faultq = s.faultq := rfl
@[simp] theorem State.draw_faultWait (s : State) : s.draw.2.faultWait = s.faultWait := rfl
@[simp] theorem State.draw_faultSeq (s : State) : s.draw.2.faultSeq = s.faultSeq := rfl
@[simp] theorem State.draw_queues (s : State) : s.draw.2.queues = s.queues := rfl
@[simp] theorem State.draw_nextQueue (s : State) : s.draw.2.nextQueue = s.nextQueue := rfl
@[simp] theorem State.draw_wakes (s : State) : s.draw.2.wakes = s.wakes := rfl
@[simp] theorem State.draw_wakeAll (s : State) : s.draw.2.wakeAll = s.wakeAll := rfl
@[simp] theorem State.draw_wakeOver (s : State) : s.draw.2.wakeOver = s.wakeOver := rfl
@[simp] theorem State.draw_lastBoundary (s : State) : s.draw.2.lastBoundary = s.lastBoundary := rfl
@[simp] theorem State.draw_mbcmd (s : State) : s.draw.2.mbcmd = s.mbcmd := rfl
@[simp] theorem State.draw_mbrsp (s : State) : s.draw.2.mbrsp = s.mbrsp := rfl
@[simp] theorem State.draw_mbst (s : State) : s.draw.2.mbst = s.mbst := rfl
@[simp] theorem State.draw_serving (s : State) : s.draw.2.serving = s.serving := rfl
@[simp] theorem State.draw_begun (s : State) : s.draw.2.begun = s.begun := rfl
@[simp] theorem State.draw_resetCmd (s : State) : s.draw.2.resetCmd = s.resetCmd := rfl
@[simp] theorem State.draw_irqc (s : State) : s.draw.2.irqc = s.irqc := rfl
@[simp] theorem State.draw_ports (s : State) : s.draw.2.ports = s.ports := rfl
@[simp] theorem State.draw_nextTag (s : State) : s.draw.2.nextTag = s.nextTag := rfl
@[simp] theorem State.draw_peerReqs (s : State) : s.draw.2.peerReqs = s.peerReqs := rfl
@[simp] theorem State.draw_peerParts (s : State) : s.draw.2.peerParts = s.peerParts := rfl
@[simp] theorem State.draw_owed (s : State) : s.draw.2.owed = s.owed := rfl
@[simp] theorem State.draw_poseReg (s : State) : s.draw.2.poseReg = s.poseReg := rfl
@[simp] theorem State.draw_outputs (s : State) : s.draw.2.outputs = s.outputs := rfl
@[simp] theorem State.draw_memTemp (s : State) : s.draw.2.memTemp = s.memTemp := rfl
@[simp] theorem State.draw_memHot (s : State) : s.draw.2.memHot = s.memHot := rfl
@[simp] theorem State.draw_ring (s : State) : s.draw.2.ring = s.ring := rfl
@[simp] theorem State.draw_milliVolt (s : State) : s.draw.2.milliVolt = s.milliVolt := rfl
@[simp] theorem State.draw_lastSample (s : State) : s.draw.2.lastSample = s.lastSample := rfl
@[simp] theorem State.draw_events (s : State) : s.draw.2.events = s.events := rfl
@[simp] theorem State.draw_nextEvent (s : State) : s.draw.2.nextEvent = s.nextEvent := rfl

/-! ### State.irq -/

@[simp] theorem State.irq_agenda (s : State) (v : Nat) : (s.irq v).agenda = s.agenda := rfl
@[simp] theorem State.irq_round (s : State) (v : Nat) : (s.irq v).round = s.round := rfl
@[simp] theorem State.irq_fresh (s : State) (v : Nat) : (s.irq v).fresh = s.fresh := rfl
@[simp] theorem State.irq_issuer (s : State) (v : Nat) : (s.irq v).issuer = s.issuer := rfl
@[simp] theorem State.irq_stop (s : State) (v : Nat) : (s.irq v).stop = s.stop := rfl
@[simp] theorem State.irq_clock (s : State) (v : Nat) : (s.irq v).clock = s.clock := rfl
@[simp] theorem State.irq_ftime (s : State) (v : Nat) : (s.irq v).ftime = s.ftime := rfl
@[simp] theorem State.irq_ftimeRem (s : State) (v : Nat) : (s.irq v).ftimeRem = s.ftimeRem := rfl
@[simp] theorem State.irq_ftimeSlow (s : State) (v : Nat) : (s.irq v).ftimeSlow = s.ftimeSlow := rfl
@[simp] theorem State.irq_acquired (s : State) (v : Nat) : (s.irq v).acquired = s.acquired := rfl
@[simp] theorem State.irq_holdover (s : State) (v : Nat) : (s.irq v).holdover = s.holdover := rfl
@[simp] theorem State.irq_lastBeacon (s : State) (v : Nat) : (s.irq v).lastBeacon = s.lastBeacon := rfl
@[simp] theorem State.irq_phase (s : State) (v : Nat) : (s.irq v).phase = s.phase := rfl
@[simp] theorem State.irq_fallback (s : State) (v : Nat) : (s.irq v).fallback = s.fallback := rfl
@[simp] theorem State.irq_gen (s : State) (v : Nat) : (s.irq v).gen = s.gen := rfl
@[simp] theorem State.irq_devid (s : State) (v : Nat) : (s.irq v).devid = s.devid := rfl
@[simp] theorem State.irq_switch (s : State) (v : Nat) : (s.irq v).switch = s.switch := rfl
@[simp] theorem State.irq_step6 (s : State) (v : Nat) : (s.irq v).step6 = s.step6 := rfl
@[simp] theorem State.irq_discovery (s : State) (v : Nat) : (s.irq v).discovery = s.discovery := rfl
@[simp] theorem State.irq_keyed (s : State) (v : Nat) : (s.irq v).keyed = s.keyed := rfl
@[simp] theorem State.irq_mem (s : State) (v : Nat) : (s.irq v).mem = s.mem := rfl
@[simp] theorem State.irq_columns (s : State) (v : Nat) : (s.irq v).columns = s.columns := rfl
@[simp] theorem State.irq_groups (s : State) (v : Nat) : (s.irq v).groups = s.groups := rfl
@[simp] theorem State.irq_nextGroup (s : State) (v : Nat) : (s.irq v).nextGroup = s.nextGroup := rfl
@[simp] theorem State.irq_launches (s : State) (v : Nat) : (s.irq v).launches = s.launches := rfl
@[simp] theorem State.irq_nextLaunch (s : State) (v : Nat) : (s.irq v).nextLaunch = s.nextLaunch := rfl
@[simp] theorem State.irq_contexts (s : State) (v : Nat) : (s.irq v).contexts = s.contexts := rfl
@[simp] theorem State.irq_nextCtx (s : State) (v : Nat) : (s.irq v).nextCtx = s.nextCtx := rfl
@[simp] theorem State.irq_tables (s : State) (v : Nat) : (s.irq v).tables = s.tables := rfl
@[simp] theorem State.irq_nextTable (s : State) (v : Nat) : (s.irq v).nextTable = s.nextTable := rfl
@[simp] theorem State.irq_tlb (s : State) (v : Nat) : (s.irq v).tlb = s.tlb := rfl
@[simp] theorem State.irq_pools (s : State) (v : Nat) : (s.irq v).pools = s.pools := rfl
@[simp] theorem State.irq_faultq (s : State) (v : Nat) : (s.irq v).faultq = s.faultq := rfl
@[simp] theorem State.irq_faultWait (s : State) (v : Nat) : (s.irq v).faultWait = s.faultWait := rfl
@[simp] theorem State.irq_faultSeq (s : State) (v : Nat) : (s.irq v).faultSeq = s.faultSeq := rfl
@[simp] theorem State.irq_queues (s : State) (v : Nat) : (s.irq v).queues = s.queues := rfl
@[simp] theorem State.irq_nextQueue (s : State) (v : Nat) : (s.irq v).nextQueue = s.nextQueue := rfl
@[simp] theorem State.irq_wakes (s : State) (v : Nat) : (s.irq v).wakes = s.wakes := rfl
@[simp] theorem State.irq_wakeAll (s : State) (v : Nat) : (s.irq v).wakeAll = s.wakeAll := rfl
@[simp] theorem State.irq_wakeOver (s : State) (v : Nat) : (s.irq v).wakeOver = s.wakeOver := rfl
@[simp] theorem State.irq_lastBoundary (s : State) (v : Nat) : (s.irq v).lastBoundary = s.lastBoundary := rfl
@[simp] theorem State.irq_mbcmd (s : State) (v : Nat) : (s.irq v).mbcmd = s.mbcmd := rfl
@[simp] theorem State.irq_mbrsp (s : State) (v : Nat) : (s.irq v).mbrsp = s.mbrsp := rfl
@[simp] theorem State.irq_mbst (s : State) (v : Nat) : (s.irq v).mbst = s.mbst := rfl
@[simp] theorem State.irq_serving (s : State) (v : Nat) : (s.irq v).serving = s.serving := rfl
@[simp] theorem State.irq_begun (s : State) (v : Nat) : (s.irq v).begun = s.begun := rfl
@[simp] theorem State.irq_resetCmd (s : State) (v : Nat) : (s.irq v).resetCmd = s.resetCmd := rfl
@[simp] theorem State.irq_ports (s : State) (v : Nat) : (s.irq v).ports = s.ports := rfl
@[simp] theorem State.irq_nextTag (s : State) (v : Nat) : (s.irq v).nextTag = s.nextTag := rfl
@[simp] theorem State.irq_peerReqs (s : State) (v : Nat) : (s.irq v).peerReqs = s.peerReqs := rfl
@[simp] theorem State.irq_peerParts (s : State) (v : Nat) : (s.irq v).peerParts = s.peerParts := rfl
@[simp] theorem State.irq_owed (s : State) (v : Nat) : (s.irq v).owed = s.owed := rfl
@[simp] theorem State.irq_poseReg (s : State) (v : Nat) : (s.irq v).poseReg = s.poseReg := rfl
@[simp] theorem State.irq_outputs (s : State) (v : Nat) : (s.irq v).outputs = s.outputs := rfl
@[simp] theorem State.irq_memTemp (s : State) (v : Nat) : (s.irq v).memTemp = s.memTemp := rfl
@[simp] theorem State.irq_memHot (s : State) (v : Nat) : (s.irq v).memHot = s.memHot := rfl
@[simp] theorem State.irq_ring (s : State) (v : Nat) : (s.irq v).ring = s.ring := rfl
@[simp] theorem State.irq_milliVolt (s : State) (v : Nat) : (s.irq v).milliVolt = s.milliVolt := rfl
@[simp] theorem State.irq_lastSample (s : State) (v : Nat) : (s.irq v).lastSample = s.lastSample := rfl
@[simp] theorem State.irq_events (s : State) (v : Nat) : (s.irq v).events = s.events := rfl
@[simp] theorem State.irq_nextEvent (s : State) (v : Nat) : (s.irq v).nextEvent = s.nextEvent := rfl

/-! ### Group.setWarp -/

@[simp] theorem Group.setWarp_uid (g : Group) (w : Warp) : (g.setWarp w).uid = g.uid := rfl
@[simp] theorem Group.setWarp_ctx (g : Group) (w : Warp) : (g.setWarp w).ctx = g.ctx := rfl
@[simp] theorem Group.setWarp_launch (g : Group) (w : Warp) : (g.setWarp w).launch = g.launch := rfl
@[simp] theorem Group.setWarp_record (g : Group) (w : Warp) : (g.setWarp w).record = g.record := rfl
@[simp] theorem Group.setWarp_args (g : Group) (w : Warp) : (g.setWarp w).args = g.args := rfl
@[simp] theorem Group.setWarp_col (g : Group) (w : Warp) : (g.setWarp w).col = g.col := rfl
@[simp] theorem Group.setWarp_p0 (g : Group) (w : Warp) : (g.setWarp w).p0 = g.p0 := rfl
@[simp] theorem Group.setWarp_gid (g : Group) (w : Warp) : (g.setWarp w).gid = g.gid := rfl
@[simp] theorem Group.setWarp_wcount (g : Group) (w : Warp) : (g.setWarp w).wcount = g.wcount := rfl
@[simp] theorem Group.setWarp_lit (g : Group) (w : Warp) : (g.setWarp w).lit = g.lit := rfl
@[simp] theorem Group.setWarp_scrSize (g : Group) (w : Warp) : (g.setWarp w).scrSize = g.scrSize := rfl
@[simp] theorem Group.setWarp_scr (g : Group) (w : Warp) : (g.setWarp w).scr = g.scr := rfl
@[simp] theorem Group.setWarp_absent (g : Group) (w : Warp) : (g.setWarp w).absent = g.absent := rfl
@[simp] theorem Group.setWarp_gregs (g : Group) (w : Warp) : (g.setWarp w).gregs = g.gregs := rfl
@[simp] theorem Group.setWarp_bars (g : Group) (w : Warp) : (g.setWarp w).bars = g.bars := rfl
@[simp] theorem Group.setWarp_ctab (g : Group) (w : Warp) : (g.setWarp w).ctab = g.ctab := rfl
@[simp] theorem Group.setWarp_ops (g : Group) (w : Warp) : (g.setWarp w).ops = g.ops := rfl
@[simp] theorem Group.setWarp_session (g : Group) (w : Warp) : (g.setWarp w).session = g.session := rfl
@[simp] theorem Group.setWarp_closing (g : Group) (w : Warp) : (g.setWarp w).closing = g.closing := rfl
@[simp] theorem Group.setWarp_lastClosed (g : Group) (w : Warp) : (g.setWarp w).lastClosed = g.lastClosed := rfl
@[simp] theorem Group.setWarp_regrp (g : Group) (w : Warp) : (g.setWarp w).regrp = g.regrp := rfl
@[simp] theorem Group.setWarp_bindings (g : Group) (w : Warp) : (g.setWarp w).bindings = g.bindings := rfl
@[simp] theorem Group.setWarp_started (g : Group) (w : Warp) : (g.setWarp w).started = g.started := rfl
@[simp] theorem Group.setWarp_coItem (g : Group) (w : Warp) : (g.setWarp w).coItem = g.coItem := rfl
@[simp] theorem Group.setWarp_pixelTiles (g : Group) (w : Warp) : (g.setWarp w).pixelTiles = g.pixelTiles := rfl
@[simp] theorem Group.setWarp_savedLocks (g : Group) (w : Warp) : (g.setWarp w).savedLocks = g.savedLocks := rfl
@[simp] theorem Group.setWarp_pauses (g : Group) (w : Warp) : (g.setWarp w).pauses = g.pauses := rfl

/-! ### Warp.setReg -/

@[simp] theorem Warp.setReg_wid (w : Warp) (r : Nat) (x : Reg) : (w.setReg r x).wid = w.wid := rfl
@[simp] theorem Warp.setReg_part (w : Warp) (r : Nat) (x : Reg) : (w.setReg r x).part = w.part := rfl
@[simp] theorem Warp.setReg_slot (w : Warp) (r : Nat) (x : Reg) : (w.setReg r x).slot = w.slot := rfl
@[simp] theorem Warp.setReg_mode (w : Warp) (r : Nat) (x : Reg) : (w.setReg r x).mode = w.mode := rfl
@[simp] theorem Warp.setReg_ng (w : Warp) (r : Nat) (x : Reg) : (w.setReg r x).ng = w.ng := rfl
@[simp] theorem Warp.setReg_nu (w : Warp) (r : Nat) (x : Reg) : (w.setReg r x).nu = w.nu := rfl
@[simp] theorem Warp.setReg_acc (w : Warp) (r : Nat) (x : Reg) : (w.setReg r x).acc = w.acc := rfl
@[simp] theorem Warp.setReg_pcs (w : Warp) (r : Nat) (x : Reg) : (w.setReg r x).pcs = w.pcs := rfl
@[simp] theorem Warp.setReg_started (w : Warp) (r : Nat) (x : Reg) : (w.setReg r x).started = w.started := rfl
@[simp] theorem Warp.setReg_live (w : Warp) (r : Nat) (x : Reg) : (w.setReg r x).live = w.live := rfl
@[simp] theorem Warp.setReg_help (w : Warp) (r : Nat) (x : Reg) : (w.setReg r x).help = w.help := rfl
@[simp] theorem Warp.setReg_masks (w : Warp) (r : Nat) (x : Reg) : (w.setReg r x).masks = w.masks := rfl
@[simp] theorem Warp.setReg_stack (w : Warp) (r : Nat) (x : Reg) : (w.setReg r x).stack = w.stack := rfl
@[simp] theorem Warp.setReg_parked (w : Warp) (r : Nat) (x : Reg) : (w.setReg r x).parked = w.parked := rfl
@[simp] theorem Warp.setReg_wait (w : Warp) (r : Nat) (x : Reg) : (w.setReg r x).wait = w.wait := rfl
@[simp] theorem Warp.setReg_rsl (w : Warp) (r : Nat) (x : Reg) : (w.setReg r x).rsl = w.rsl := rfl
@[simp] theorem Warp.setReg_came (w : Warp) (r : Nat) (x : Reg) : (w.setReg r x).came = w.came := rfl
@[simp] theorem Warp.setReg_bundle (w : Warp) (r : Nat) (x : Reg) : (w.setReg r x).bundle = w.bundle := rfl
@[simp] theorem Warp.setReg_ctl (w : Warp) (r : Nat) (x : Reg) : (w.setReg r x).ctl = w.ctl := rfl
@[simp] theorem Warp.setReg_flags (w : Warp) (r : Nat) (x : Reg) : (w.setReg r x).flags = w.flags := rfl
@[simp] theorem Warp.setReg_seed (w : Warp) (r : Nat) (x : Reg) : (w.setReg r x).seed = w.seed := rfl
@[simp] theorem Warp.setReg_gens (w : Warp) (r : Nat) (x : Reg) : (w.setReg r x).gens = w.gens := rfl
@[simp] theorem Warp.setReg_fair (w : Warp) (r : Nat) (x : Reg) : (w.setReg r x).fair = w.fair := rfl
@[simp] theorem Warp.setReg_cur (w : Warp) (r : Nat) (x : Reg) : (w.setReg r x).cur = w.cur := rfl
@[simp] theorem Warp.setReg_curPc (w : Warp) (r : Nat) (x : Reg) : (w.setReg r x).curPc = w.curPc := rfl
@[simp] theorem Warp.setReg_counters (w : Warp) (r : Nat) (x : Reg) : (w.setReg r x).counters = w.counters := rfl
@[simp] theorem Warp.setReg_flights (w : Warp) (r : Nat) (x : Reg) : (w.setReg r x).flights = w.flights := rfl
@[simp] theorem Warp.setReg_nextFlight (w : Warp) (r : Nat) (x : Reg) : (w.setReg r x).nextFlight = w.nextFlight := rfl
@[simp] theorem Warp.setReg_logs (w : Warp) (r : Nat) (x : Reg) : (w.setReg r x).logs = w.logs := rfl
@[simp] theorem Warp.setReg_unack (w : Warp) (r : Nat) (x : Reg) : (w.setReg r x).unack = w.unack := rfl
@[simp] theorem Warp.setReg_yields (w : Warp) (r : Nat) (x : Reg) : (w.setReg r x).yields = w.yields := rfl
@[simp] theorem Warp.setReg_causes (w : Warp) (r : Nat) (x : Reg) : (w.setReg r x).causes = w.causes := rfl
@[simp] theorem Warp.setReg_trapRec (w : Warp) (r : Nat) (x : Reg) : (w.setReg r x).trapRec = w.trapRec := rfl
@[simp] theorem Warp.setReg_entering (w : Warp) (r : Nat) (x : Reg) : (w.setReg r x).entering = w.entering := rfl
@[simp] theorem Warp.setReg_hframe (w : Warp) (r : Nat) (x : Reg) : (w.setReg r x).hframe = w.hframe := rfl
@[simp] theorem Warp.setReg_lvl (w : Warp) (r : Nat) (x : Reg) : (w.setReg r x).lvl = w.lvl := rfl
@[simp] theorem Warp.setReg_recs (w : Warp) (r : Nat) (x : Reg) : (w.setReg r x).recs = w.recs := rfl
@[simp] theorem Warp.setReg_tiles (w : Warp) (r : Nat) (x : Reg) : (w.setReg r x).tiles = w.tiles := rfl
@[simp] theorem Warp.setReg_loops (w : Warp) (r : Nat) (x : Reg) : (w.setReg r x).loops = w.loops := rfl
@[simp] theorem Warp.setReg_stash (w : Warp) (r : Nat) (x : Reg) : (w.setReg r x).stash = w.stash := rfl
@[simp] theorem Warp.setReg_retired (w : Warp) (r : Nat) (x : Reg) : (w.setReg r x).retired = w.retired := rfl

/-! ### Warp.moveTo -/

@[simp] theorem Warp.moveTo_wid (w : Warp) (lanes : Word) (pc : Dword) : (w.moveTo lanes pc).wid = w.wid := rfl
@[simp] theorem Warp.moveTo_part (w : Warp) (lanes : Word) (pc : Dword) : (w.moveTo lanes pc).part = w.part := rfl
@[simp] theorem Warp.moveTo_slot (w : Warp) (lanes : Word) (pc : Dword) : (w.moveTo lanes pc).slot = w.slot := rfl
@[simp] theorem Warp.moveTo_mode (w : Warp) (lanes : Word) (pc : Dword) : (w.moveTo lanes pc).mode = w.mode := rfl
@[simp] theorem Warp.moveTo_ng (w : Warp) (lanes : Word) (pc : Dword) : (w.moveTo lanes pc).ng = w.ng := rfl
@[simp] theorem Warp.moveTo_nu (w : Warp) (lanes : Word) (pc : Dword) : (w.moveTo lanes pc).nu = w.nu := rfl
@[simp] theorem Warp.moveTo_acc (w : Warp) (lanes : Word) (pc : Dword) : (w.moveTo lanes pc).acc = w.acc := rfl
@[simp] theorem Warp.moveTo_started (w : Warp) (lanes : Word) (pc : Dword) : (w.moveTo lanes pc).started = w.started := rfl
@[simp] theorem Warp.moveTo_live (w : Warp) (lanes : Word) (pc : Dword) : (w.moveTo lanes pc).live = w.live := rfl
@[simp] theorem Warp.moveTo_help (w : Warp) (lanes : Word) (pc : Dword) : (w.moveTo lanes pc).help = w.help := rfl
@[simp] theorem Warp.moveTo_regs (w : Warp) (lanes : Word) (pc : Dword) : (w.moveTo lanes pc).regs = w.regs := rfl
@[simp] theorem Warp.moveTo_masks (w : Warp) (lanes : Word) (pc : Dword) : (w.moveTo lanes pc).masks = w.masks := rfl
@[simp] theorem Warp.moveTo_stack (w : Warp) (lanes : Word) (pc : Dword) : (w.moveTo lanes pc).stack = w.stack := rfl
@[simp] theorem Warp.moveTo_parked (w : Warp) (lanes : Word) (pc : Dword) : (w.moveTo lanes pc).parked = w.parked := rfl
@[simp] theorem Warp.moveTo_bundle (w : Warp) (lanes : Word) (pc : Dword) : (w.moveTo lanes pc).bundle = w.bundle := rfl
@[simp] theorem Warp.moveTo_ctl (w : Warp) (lanes : Word) (pc : Dword) : (w.moveTo lanes pc).ctl = w.ctl := rfl
@[simp] theorem Warp.moveTo_flags (w : Warp) (lanes : Word) (pc : Dword) : (w.moveTo lanes pc).flags = w.flags := rfl
@[simp] theorem Warp.moveTo_seed (w : Warp) (lanes : Word) (pc : Dword) : (w.moveTo lanes pc).seed = w.seed := rfl
@[simp] theorem Warp.moveTo_gens (w : Warp) (lanes : Word) (pc : Dword) : (w.moveTo lanes pc).gens = w.gens := rfl
@[simp] theorem Warp.moveTo_fair (w : Warp) (lanes : Word) (pc : Dword) : (w.moveTo lanes pc).fair = w.fair := rfl
@[simp] theorem Warp.moveTo_cur (w : Warp) (lanes : Word) (pc : Dword) : (w.moveTo lanes pc).cur = w.cur := rfl
@[simp] theorem Warp.moveTo_curPc (w : Warp) (lanes : Word) (pc : Dword) : (w.moveTo lanes pc).curPc = w.curPc := rfl
@[simp] theorem Warp.moveTo_counters (w : Warp) (lanes : Word) (pc : Dword) : (w.moveTo lanes pc).counters = w.counters := rfl
@[simp] theorem Warp.moveTo_flights (w : Warp) (lanes : Word) (pc : Dword) : (w.moveTo lanes pc).flights = w.flights := rfl
@[simp] theorem Warp.moveTo_nextFlight (w : Warp) (lanes : Word) (pc : Dword) : (w.moveTo lanes pc).nextFlight = w.nextFlight := rfl
@[simp] theorem Warp.moveTo_logs (w : Warp) (lanes : Word) (pc : Dword) : (w.moveTo lanes pc).logs = w.logs := rfl
@[simp] theorem Warp.moveTo_unack (w : Warp) (lanes : Word) (pc : Dword) : (w.moveTo lanes pc).unack = w.unack := rfl
@[simp] theorem Warp.moveTo_yields (w : Warp) (lanes : Word) (pc : Dword) : (w.moveTo lanes pc).yields = w.yields := rfl
@[simp] theorem Warp.moveTo_causes (w : Warp) (lanes : Word) (pc : Dword) : (w.moveTo lanes pc).causes = w.causes := rfl
@[simp] theorem Warp.moveTo_trapRec (w : Warp) (lanes : Word) (pc : Dword) : (w.moveTo lanes pc).trapRec = w.trapRec := rfl
@[simp] theorem Warp.moveTo_entering (w : Warp) (lanes : Word) (pc : Dword) : (w.moveTo lanes pc).entering = w.entering := rfl
@[simp] theorem Warp.moveTo_hframe (w : Warp) (lanes : Word) (pc : Dword) : (w.moveTo lanes pc).hframe = w.hframe := rfl
@[simp] theorem Warp.moveTo_lvl (w : Warp) (lanes : Word) (pc : Dword) : (w.moveTo lanes pc).lvl = w.lvl := rfl
@[simp] theorem Warp.moveTo_recs (w : Warp) (lanes : Word) (pc : Dword) : (w.moveTo lanes pc).recs = w.recs := rfl
@[simp] theorem Warp.moveTo_tiles (w : Warp) (lanes : Word) (pc : Dword) : (w.moveTo lanes pc).tiles = w.tiles := rfl
@[simp] theorem Warp.moveTo_loops (w : Warp) (lanes : Word) (pc : Dword) : (w.moveTo lanes pc).loops = w.loops := rfl
@[simp] theorem Warp.moveTo_stash (w : Warp) (lanes : Word) (pc : Dword) : (w.moveTo lanes pc).stash = w.stash := rfl
@[simp] theorem Warp.moveTo_retired (w : Warp) (lanes : Word) (pc : Dword) : (w.moveTo lanes pc).retired = w.retired := rfl

/-! ### Warp.stopAt -/

@[simp] theorem Warp.stopAt_wid (w : Warp) (lanes : Word) (slot : Nat) (why : Wait) : (w.stopAt lanes slot why).wid = w.wid := rfl
@[simp] theorem Warp.stopAt_part (w : Warp) (lanes : Word) (slot : Nat) (why : Wait) : (w.stopAt lanes slot why).part = w.part := rfl
@[simp] theorem Warp.stopAt_slot (w : Warp) (lanes : Word) (slot : Nat) (why : Wait) : (w.stopAt lanes slot why).slot = w.slot := rfl
@[simp] theorem Warp.stopAt_mode (w : Warp) (lanes : Word) (slot : Nat) (why : Wait) : (w.stopAt lanes slot why).mode = w.mode := rfl
@[simp] theorem Warp.stopAt_ng (w : Warp) (lanes : Word) (slot : Nat) (why : Wait) : (w.stopAt lanes slot why).ng = w.ng := rfl
@[simp] theorem Warp.stopAt_nu (w : Warp) (lanes : Word) (slot : Nat) (why : Wait) : (w.stopAt lanes slot why).nu = w.nu := rfl
@[simp] theorem Warp.stopAt_acc (w : Warp) (lanes : Word) (slot : Nat) (why : Wait) : (w.stopAt lanes slot why).acc = w.acc := rfl
@[simp] theorem Warp.stopAt_pcs (w : Warp) (lanes : Word) (slot : Nat) (why : Wait) : (w.stopAt lanes slot why).pcs = w.pcs := rfl
@[simp] theorem Warp.stopAt_started (w : Warp) (lanes : Word) (slot : Nat) (why : Wait) : (w.stopAt lanes slot why).started = w.started := rfl
@[simp] theorem Warp.stopAt_live (w : Warp) (lanes : Word) (slot : Nat) (why : Wait) : (w.stopAt lanes slot why).live = w.live := rfl
@[simp] theorem Warp.stopAt_help (w : Warp) (lanes : Word) (slot : Nat) (why : Wait) : (w.stopAt lanes slot why).help = w.help := rfl
@[simp] theorem Warp.stopAt_regs (w : Warp) (lanes : Word) (slot : Nat) (why : Wait) : (w.stopAt lanes slot why).regs = w.regs := rfl
@[simp] theorem Warp.stopAt_masks (w : Warp) (lanes : Word) (slot : Nat) (why : Wait) : (w.stopAt lanes slot why).masks = w.masks := rfl
@[simp] theorem Warp.stopAt_stack (w : Warp) (lanes : Word) (slot : Nat) (why : Wait) : (w.stopAt lanes slot why).stack = w.stack := rfl
@[simp] theorem Warp.stopAt_parked (w : Warp) (lanes : Word) (slot : Nat) (why : Wait) : (w.stopAt lanes slot why).parked = w.parked := rfl
@[simp] theorem Warp.stopAt_came (w : Warp) (lanes : Word) (slot : Nat) (why : Wait) : (w.stopAt lanes slot why).came = w.came := rfl
@[simp] theorem Warp.stopAt_bundle (w : Warp) (lanes : Word) (slot : Nat) (why : Wait) : (w.stopAt lanes slot why).bundle = w.bundle := rfl
@[simp] theorem Warp.stopAt_ctl (w : Warp) (lanes : Word) (slot : Nat) (why : Wait) : (w.stopAt lanes slot why).ctl = w.ctl := rfl
@[simp] theorem Warp.stopAt_flags (w : Warp) (lanes : Word) (slot : Nat) (why : Wait) : (w.stopAt lanes slot why).flags = w.flags := rfl
@[simp] theorem Warp.stopAt_seed (w : Warp) (lanes : Word) (slot : Nat) (why : Wait) : (w.stopAt lanes slot why).seed = w.seed := rfl
@[simp] theorem Warp.stopAt_gens (w : Warp) (lanes : Word) (slot : Nat) (why : Wait) : (w.stopAt lanes slot why).gens = w.gens := rfl
@[simp] theorem Warp.stopAt_fair (w : Warp) (lanes : Word) (slot : Nat) (why : Wait) : (w.stopAt lanes slot why).fair = w.fair := rfl
@[simp] theorem Warp.stopAt_cur (w : Warp) (lanes : Word) (slot : Nat) (why : Wait) : (w.stopAt lanes slot why).cur = w.cur := rfl
@[simp] theorem Warp.stopAt_curPc (w : Warp) (lanes : Word) (slot : Nat) (why : Wait) : (w.stopAt lanes slot why).curPc = w.curPc := rfl
@[simp] theorem Warp.stopAt_counters (w : Warp) (lanes : Word) (slot : Nat) (why : Wait) : (w.stopAt lanes slot why).counters = w.counters := rfl
@[simp] theorem Warp.stopAt_flights (w : Warp) (lanes : Word) (slot : Nat) (why : Wait) : (w.stopAt lanes slot why).flights = w.flights := rfl
@[simp] theorem Warp.stopAt_nextFlight (w : Warp) (lanes : Word) (slot : Nat) (why : Wait) : (w.stopAt lanes slot why).nextFlight = w.nextFlight := rfl
@[simp] theorem Warp.stopAt_logs (w : Warp) (lanes : Word) (slot : Nat) (why : Wait) : (w.stopAt lanes slot why).logs = w.logs := rfl
@[simp] theorem Warp.stopAt_unack (w : Warp) (lanes : Word) (slot : Nat) (why : Wait) : (w.stopAt lanes slot why).unack = w.unack := rfl
@[simp] theorem Warp.stopAt_yields (w : Warp) (lanes : Word) (slot : Nat) (why : Wait) : (w.stopAt lanes slot why).yields = w.yields := rfl
@[simp] theorem Warp.stopAt_causes (w : Warp) (lanes : Word) (slot : Nat) (why : Wait) : (w.stopAt lanes slot why).causes = w.causes := rfl
@[simp] theorem Warp.stopAt_trapRec (w : Warp) (lanes : Word) (slot : Nat) (why : Wait) : (w.stopAt lanes slot why).trapRec = w.trapRec := rfl
@[simp] theorem Warp.stopAt_entering (w : Warp) (lanes : Word) (slot : Nat) (why : Wait) : (w.stopAt lanes slot why).entering = w.entering := rfl
@[simp] theorem Warp.stopAt_hframe (w : Warp) (lanes : Word) (slot : Nat) (why : Wait) : (w.stopAt lanes slot why).hframe = w.hframe := rfl
@[simp] theorem Warp.stopAt_lvl (w : Warp) (lanes : Word) (slot : Nat) (why : Wait) : (w.stopAt lanes slot why).lvl = w.lvl := rfl
@[simp] theorem Warp.stopAt_recs (w : Warp) (lanes : Word) (slot : Nat) (why : Wait) : (w.stopAt lanes slot why).recs = w.recs := rfl
@[simp] theorem Warp.stopAt_tiles (w : Warp) (lanes : Word) (slot : Nat) (why : Wait) : (w.stopAt lanes slot why).tiles = w.tiles := rfl
@[simp] theorem Warp.stopAt_loops (w : Warp) (lanes : Word) (slot : Nat) (why : Wait) : (w.stopAt lanes slot why).loops = w.loops := rfl
@[simp] theorem Warp.stopAt_stash (w : Warp) (lanes : Word) (slot : Nat) (why : Wait) : (w.stopAt lanes slot why).stash = w.stash := rfl
@[simp] theorem Warp.stopAt_retired (w : Warp) (lanes : Word) (slot : Nat) (why : Wait) : (w.stopAt lanes slot why).retired = w.retired := rfl

/-! ### Warp.count -/

@[simp] theorem Warp.count_wid (w : Warp) (k : Nat) : (w.count k).wid = w.wid := rfl
@[simp] theorem Warp.count_part (w : Warp) (k : Nat) : (w.count k).part = w.part := rfl
@[simp] theorem Warp.count_slot (w : Warp) (k : Nat) : (w.count k).slot = w.slot := rfl
@[simp] theorem Warp.count_mode (w : Warp) (k : Nat) : (w.count k).mode = w.mode := rfl
@[simp] theorem Warp.count_ng (w : Warp) (k : Nat) : (w.count k).ng = w.ng := rfl
@[simp] theorem Warp.count_nu (w : Warp) (k : Nat) : (w.count k).nu = w.nu := rfl
@[simp] theorem Warp.count_acc (w : Warp) (k : Nat) : (w.count k).acc = w.acc := rfl
@[simp] theorem Warp.count_pcs (w : Warp) (k : Nat) : (w.count k).pcs = w.pcs := rfl
@[simp] theorem Warp.count_started (w : Warp) (k : Nat) : (w.count k).started = w.started := rfl
@[simp] theorem Warp.count_live (w : Warp) (k : Nat) : (w.count k).live = w.live := rfl
@[simp] theorem Warp.count_help (w : Warp) (k : Nat) : (w.count k).help = w.help := rfl
@[simp] theorem Warp.count_regs (w : Warp) (k : Nat) : (w.count k).regs = w.regs := rfl
@[simp] theorem Warp.count_masks (w : Warp) (k : Nat) : (w.count k).masks = w.masks := rfl
@[simp] theorem Warp.count_stack (w : Warp) (k : Nat) : (w.count k).stack = w.stack := rfl
@[simp] theorem Warp.count_parked (w : Warp) (k : Nat) : (w.count k).parked = w.parked := rfl
@[simp] theorem Warp.count_wait (w : Warp) (k : Nat) : (w.count k).wait = w.wait := rfl
@[simp] theorem Warp.count_rsl (w : Warp) (k : Nat) : (w.count k).rsl = w.rsl := rfl
@[simp] theorem Warp.count_came (w : Warp) (k : Nat) : (w.count k).came = w.came := rfl
@[simp] theorem Warp.count_bundle (w : Warp) (k : Nat) : (w.count k).bundle = w.bundle := rfl
@[simp] theorem Warp.count_ctl (w : Warp) (k : Nat) : (w.count k).ctl = w.ctl := rfl
@[simp] theorem Warp.count_flags (w : Warp) (k : Nat) : (w.count k).flags = w.flags := rfl
@[simp] theorem Warp.count_seed (w : Warp) (k : Nat) : (w.count k).seed = w.seed := rfl
@[simp] theorem Warp.count_gens (w : Warp) (k : Nat) : (w.count k).gens = w.gens := rfl
@[simp] theorem Warp.count_fair (w : Warp) (k : Nat) : (w.count k).fair = w.fair := rfl
@[simp] theorem Warp.count_cur (w : Warp) (k : Nat) : (w.count k).cur = w.cur := rfl
@[simp] theorem Warp.count_curPc (w : Warp) (k : Nat) : (w.count k).curPc = w.curPc := rfl
@[simp] theorem Warp.count_flights (w : Warp) (k : Nat) : (w.count k).flights = w.flights := rfl
@[simp] theorem Warp.count_nextFlight (w : Warp) (k : Nat) : (w.count k).nextFlight = w.nextFlight := rfl
@[simp] theorem Warp.count_logs (w : Warp) (k : Nat) : (w.count k).logs = w.logs := rfl
@[simp] theorem Warp.count_unack (w : Warp) (k : Nat) : (w.count k).unack = w.unack := rfl
@[simp] theorem Warp.count_yields (w : Warp) (k : Nat) : (w.count k).yields = w.yields := rfl
@[simp] theorem Warp.count_causes (w : Warp) (k : Nat) : (w.count k).causes = w.causes := rfl
@[simp] theorem Warp.count_trapRec (w : Warp) (k : Nat) : (w.count k).trapRec = w.trapRec := rfl
@[simp] theorem Warp.count_entering (w : Warp) (k : Nat) : (w.count k).entering = w.entering := rfl
@[simp] theorem Warp.count_hframe (w : Warp) (k : Nat) : (w.count k).hframe = w.hframe := rfl
@[simp] theorem Warp.count_lvl (w : Warp) (k : Nat) : (w.count k).lvl = w.lvl := rfl
@[simp] theorem Warp.count_recs (w : Warp) (k : Nat) : (w.count k).recs = w.recs := rfl
@[simp] theorem Warp.count_tiles (w : Warp) (k : Nat) : (w.count k).tiles = w.tiles := rfl
@[simp] theorem Warp.count_loops (w : Warp) (k : Nat) : (w.count k).loops = w.loops := rfl
@[simp] theorem Warp.count_stash (w : Warp) (k : Nat) : (w.count k).stash = w.stash := rfl
@[simp] theorem Warp.count_retired (w : Warp) (k : Nat) : (w.count k).retired = w.retired := rfl

end Sys2Proof.Machine
end

