-- ==== Sys2Proof/Laws/Parts.lean ====
section
/-! SUPPORT. What each shared operation does, said once: lists of numbered parts, registers and masks, columns, groups, warps,
contexts, queues and launches, the end of a slot, translation and the service of a command. -/

namespace Sys2Proof.Machine

/-! ### The end of a meaning -/

/-- A meaning answers a next state exactly when no stop was met, and it is that state. -/
theorem done_next (s t : State) : done s = .next t ↔ s.stop = none ∧ t = s := by
  unfold done
  cases h : s.stop with
  | none => simp [eq_comm]
  | some f => simp

/-- A meaning with no stop answers its state. -/
theorem done_of_none {s : State} (h : s.stop = none) : done s = .next s := (done_next s s).2 ⟨h, rfl⟩

/-! ### Numbered lists -/

/-- An entry of a numbered list with one entry replaced, where reading beyond the list gives what fills it. -/
theorem putAt_getD {α : Type} (d : α) : ∀ (l : List α) (n k : Nat) (x : α),
    (putAt d l n x).getD k d = if k = n then x else l.getD k d
  | [], 0, 0, _ => rfl
  | [], 0, k + 1, _ => by simp [putAt]
  | [], n + 1, 0, _ => by simp [putAt]
  | [], n + 1, k + 1, x => by
    have r := putAt_getD d [] n k x
    simp only [List.getD_eq_getElem?_getD, putAt, List.getElem?_cons_succ, List.getElem?_nil, Nat.add_right_cancel_iff] at r ⊢
    exact r
  | _ :: t, 0, 0, _ => rfl
  | _ :: t, 0, k + 1, _ => by simp [putAt]
  | h :: t, n + 1, 0, _ => by simp [putAt]
  | h :: t, n + 1, k + 1, x => by
    have r := putAt_getD d t n k x
    simp only [List.getD_eq_getElem?_getD, putAt, List.getElem?_cons_succ, Nat.add_right_cancel_iff] at r ⊢
    exact r

/-- A list of the lanes' values, read at a lane. -/
theorem lanes_getD {α : Type} (f : Nat → α) (d : α) {l : Nat} (h : l < 32) : ((List.range 32).map f).getD l d = f l := by
  rw [List.getD_eq_getElem?_getD, List.getElem?_map, List.getElem?_range h]
  rfl

/-! ### Registers and masks -/

/-- A register after a write of one. -/
@[simp] theorem Warp.reg_setReg (w : Warp) (r q : Nat) (x : Reg) : (w.setReg r x).reg q = if q = r then x else w.reg q := by
  simp only [Warp.reg, Warp.setReg, putAt_getD]

@[simp] theorem Warp.setReg_mask (w : Warp) (r m : Nat) (x : Reg) : (w.setReg r x).mask m = w.mask m := rfl

/-- A mask register after a write of one; m0 stays the live mask. -/
theorem Warp.mask_setMask (w : Warp) (m k : Nat) (x : Word) :
    (w.setMask m x).mask k = if m ≠ 0 ∧ k = m then x else w.mask k := by
  unfold Warp.setMask Warp.mask
  by_cases hm : m = 0
  · simp [hm]
  · simp only [if_neg hm]
    by_cases hk : k = 0
    · subst hk; simp [hm, Ne.symm hm]
    · simp only [if_neg hk, putAt_getD]
      by_cases e : k = m
      · subst e; simp [hm]
      · rw [if_neg (by omega), if_neg (by simp [e])]

@[simp] theorem Warp.setMask_reg (w : Warp) (m r : Nat) (x : Word) : (w.setMask m x).reg r = w.reg r := by
  unfold Warp.setMask; split <;> rfl

/-- A lane of a register after a write (R104). -/
theorem mergeReg_get (full : Bool) (lanes : Word) (old val : Reg) {l : Nat} (h : l < 32) :
    (mergeReg full lanes old val).get l =
      if full ∧ val.tag ≠ 2 then val.get l else if lanes.getLsbD l then val.get l else old.get l := by
  cases val <;> cases full <;> simp [mergeReg, Reg.tag] <;> exact lanes_getD _ _ h

/-- A register made from a lane function, with tag G. -/
theorem mkReg_get_g (f : Nat) (val : Nat → Word) {l : Nat} (h : l < 32) : (mkReg 2 f val).get l = val l := lanes_getD val 0 h

/-- A register made from a lane function, with tag U. -/
@[simp] theorem mkReg_get_u (f : Nat) (val : Nat → Word) (l : Nat) : (mkReg 0 f val).get l = val f := rfl

/-- The wait counters after one is raised. -/
@[simp] theorem Warp.counter_count (w : Warp) (k j : Nat) :
    (w.count k).counter j = if j = k then w.counter k + 1 else w.counter j := putAt_getD 0 w.counters k j _

/-- The thread state that a move leaves in a lane. -/
theorem Warp.pcOf_moveTo (w : Warp) (lanes : Word) (pc : Dword) {l : Nat} (h : l < 32) :
    (w.moveTo lanes pc).pcOf l = if lanes.getLsbD l then pc else w.pcOf l := by
  unfold Warp.pcOf Warp.moveTo
  exact lanes_getD (fun l => if lanes.getLsbD l then pc else w.pcOf l) 0 h

theorem Warp.waitOf_stopAt (w : Warp) (lanes : Word) (slot : Nat) (why : Wait) {l : Nat} (h : l < 32) :
    (w.stopAt lanes slot why).waitOf l = if lanes.getLsbD l then why else w.waitOf l := by
  unfold Warp.waitOf Warp.stopAt
  exact lanes_getD (fun l => if lanes.getLsbD l then why else w.waitOf l) .none h

@[simp] theorem Warp.pcOf_stopAt (w : Warp) (lanes : Word) (slot : Nat) (why : Wait) (l : Nat) :
    (w.stopAt lanes slot why).pcOf l = w.pcOf l := rfl

/-! ### Columns -/

theorem State.column_setColumn (s : State) (c d : Nat) (x : Column) (h : c < s.columns.length) :
    (s.setColumn c x).column d = if d = c then x else s.column d := by
  simp only [State.column, State.setColumn, List.getD_eq_getElem?_getD, List.getElem?_set]
  by_cases e : c = d
  · subst e; simp [h]
  · rw [if_neg e, if_neg (Ne.symm e)]

@[simp] theorem State.setColumn_length (s : State) (c : Nat) (x : Column) :
    (s.setColumn c x).columns.length = s.columns.length := by simp [State.setColumn]

/-- An entry of a list found by number, after those with that number were replaced. -/
theorem find?_replace {α : Type} (key : α → Nat) (x : α) (k : Nat) : ∀ l : List α,
    (l.map (fun y => if key y = key x then x else y)).find? (fun y => key y = k) =
      if key x = k then (l.find? (fun y => key y = k)).map (fun _ => x) else l.find? (fun y => key y = k)
  | [] => by simp
  | y :: t => by
    have r := find?_replace key x k t
    simp only [List.map_cons, List.find?_cons]
    by_cases e : key y = key x <;> by_cases f : key x = k <;> by_cases g : key y = k <;> simp_all

/-- An entry of a list found by number, after a change that keeps numbers. -/
theorem find?_update {α : Type} (key : α → Nat) (f : α → α) (n k : Nat) (keep : ∀ y, key (f y) = key y) : ∀ l : List α,
    (l.map (fun y => if key y = n then f y else y)).find? (fun y => key y = k) =
      if k = n then (l.find? (fun y => key y = k)).map f else l.find? (fun y => key y = k)
  | [] => by simp
  | y :: t => by
    have r := find?_update key f n k keep t
    simp only [List.map_cons, List.find?_cons]
    by_cases e : key y = n <;> by_cases g : key y = k <;> by_cases h : k = n <;> simp_all

/-! ### Groups and warps -/

/-- A group after one is put back: the one put, where a group of that number stands. -/
theorem State.group_setGroup (s : State) (g : Group) (uid : Nat) :
    (s.setGroup g).group uid = if g.uid = uid then (s.group uid).map (fun _ => g) else s.group uid :=
  find?_replace Group.uid g uid s.groups

theorem Group.warp_setWarp (g : Group) (w : Warp) (wid : Nat) :
    (g.setWarp w).warp wid = if w.wid = wid then (g.warp wid).map (fun _ => w) else g.warp wid :=
  find?_replace Warp.wid w wid g.warps

/-- The number of a group found. -/
theorem State.group_uid {s : State} {uid : Nat} {g : Group} (h : s.group uid = some g) : g.uid = uid := by
  simpa using List.find?_some h

theorem Group.warp_wid {g : Group} {wid : Nat} {w : Warp} (h : g.warp wid = some w) : w.wid = wid := by
  simpa using List.find?_some h

theorem State.group_mem {s : State} {uid : Nat} {g : Group} (h : s.group uid = some g) : g ∈ s.groups := List.mem_of_find?_eq_some h

/-- An update of a warp, where it stands. -/
theorem State.warp_updWarp {s : State} {uid wid : Nat} {g : Group} {w : Warp} {f : Warp → Warp} (hg : s.group uid = some g)
    (hw : g.warp wid = some w) (hf : (f w).wid = wid) : (s.updWarp uid wid f).warp uid wid = some (f w) := by
  have hu := State.group_uid hg
  simp [State.updWarp, State.updGroup, State.warp, hg, hw, State.group_setGroup, hu, Group.warp_setWarp, hf]

/-! ### Contexts, queues and launches -/

theorem State.ctx_setCtx (s : State) (c : Ctx) (id : Nat) :
    (s.setCtx c).ctx id = if c.id = id then (s.ctx id).map (fun _ => c) else s.ctx id :=
  find?_replace Ctx.id c id s.contexts

theorem State.ctx_id {s : State} {id : Nat} {c : Ctx} (h : s.ctx id = some c) : c.id = id := by
  simpa using List.find?_some h

/-- An update of a context that keeps its number. -/
theorem State.ctx_updCtx (s : State) (id k : Nat) (f : Ctx → Ctx) (keep : ∀ c, (f c).id = c.id) :
    (s.updCtx id f).ctx k = if k = id then (s.ctx k).map f else s.ctx k := by
  unfold State.updCtx
  cases h : s.ctx id with
  | none =>
    by_cases e : k = id
    · subst e; simp [h]
    · simp [e]
  | some c =>
    have hc := State.ctx_id h
    have hf : (f c).id = id := by rw [keep, hc]
    simp only [State.ctx_setCtx, hf]
    by_cases e : k = id
    · subst e; simp [h]
    · simp [e, Ne.symm e]

theorem State.queueOf_updQueue (s : State) (qid k : Nat) (f : Queue → Queue) (keep : ∀ q, (f q).qid = q.qid) :
    (s.updQueue qid f).queueOf k = if k = qid then (s.queueOf k).map f else s.queueOf k :=
  find?_update Queue.qid f qid k keep s.queues

theorem State.launchOf_updLaunch (s : State) (uid k : Nat) (f : Launch → Launch) (keep : ∀ l, (f l).uid = l.uid) :
    (s.updLaunch uid f).launchOf k = if k = uid then (s.launchOf k).map f else s.launchOf k :=
  find?_update Launch.uid f uid k keep s.launches

/-! ### The issuing slot -/

/-- The machine of an issuing slot is the machine that it was found in. -/
theorem cx_state {s : State} {c : Cx} (h : cx s = some c) : c.s = s := by
  unfold cx at h
  split at h
  · cases h
  · split at h
    · cases h
    · split at h
      · cases h
      · cases h; rfl

/-- Where an issuing slot comes from: a partition's clause, its group and its warp. -/
theorem cx_parts {s : State} {c : Cx} (h : cx s = some c) :
    c.col = s.issuer.1 ∧ c.part = s.issuer.2 ∧ s.group c.run.grp = some c.g ∧ c.g.warp c.run.wid = some c.w ∧
      ((s.column c.col).parts[c.part]?).bind Partition.running = some c.run := by
  unfold cx at h
  split at h
  · cases h
  · rename_i hr
    split at h
    · cases h
    · rename_i hg
      split at h
      · cases h
      · rename_i hw
        cases h; exact ⟨rfl, rfl, hg, hw, hr⟩

/-- The end of a slot without control transfer (R79, R97): it goes on inside the clause, or stands at the word after it. -/
theorem Cx.finish_cases (c : Cx) (y : Bool) :
    (c.slot + 1 < c.run.words.length ∧
      c.finish y = (c.yielding y).commit (some { c.run with idx := c.slot + 1, lanes := c.joined (c.slot + 1) })) ∨
    (c.run.words.length ≤ c.slot + 1 ∧
      c.finish y = { c.yielding y with w := (c.yielding y).w.moveTo c.run.lanes c.after }.commit none) := by
  have e : (c.yielding y).slot = c.slot ∧ (c.yielding y).run = c.run ∧ (c.yielding y).after = c.after ∧
      (c.yielding y).joined (c.slot + 1) = c.joined (c.slot + 1) := by
    unfold Cx.yielding; split <;> exact ⟨rfl, rfl, rfl, rfl⟩
  by_cases h : c.slot + 1 < c.run.words.length
  · exact .inl ⟨h, by simp only [Cx.finish, e.1, e.2.1, e.2.2.2, if_pos h]⟩
  · exact .inr ⟨by omega, by simp only [Cx.finish, e.1, e.2.1, e.2.2.1, if_neg h]⟩

/-- What a slot's end leaves of the machine outside its group and its column. -/
theorem Cx.commit_frame (c : Cx) (r : Option Running) :
    (c.commit r).mem = c.s.mem ∧ (c.commit r).contexts = c.s.contexts ∧ (c.commit r).queues = c.s.queues ∧
      (c.commit r).launches = c.s.launches ∧ (c.commit r).stop = c.s.stop ∧ (c.commit r).clock = c.s.clock ∧
      (c.commit r).groups = (c.s.setGroup (c.g.setWarp c.w)).groups := ⟨rfl, rfl, rfl, rfl, rfl, rfl, rfl⟩

/-- The same of a slot's end. -/
theorem Cx.finish_frame (c : Cx) (y : Bool) :
    (c.finish y).mem = c.s.mem ∧ (c.finish y).contexts = c.s.contexts ∧ (c.finish y).queues = c.s.queues ∧
      (c.finish y).launches = c.s.launches ∧ (c.finish y).stop = c.s.stop ∧ (c.finish y).clock = c.s.clock := by
  unfold Cx.finish Cx.yielding
  dsimp only
  split <;> split <;> exact ⟨rfl, rfl, rfl, rfl, rfl, rfl⟩

/-- A fixed-latency slot with results (R97, R105, R134): a shape fault, its end, or its end with a trap. -/
theorem Cx.fixed_cases (c : Cx) (r : Results) (y : Bool) :
    (∃ q, c.badResult r = some q ∧ c.fixed r y = c.shape q) ∨
    (c.badResult r = none ∧ c.w.enabledLanes r.flags = 0 ∧ c.fixed r y = ({ c with w := c.land r } : Cx).finish y) ∨
    (c.badResult r = none ∧ c.w.enabledLanes r.flags ≠ 0 ∧
      c.fixed r y = ({ c with w := c.land r } : Cx).trapAfter 0x41 1 (c.w.newLanes r.flags)
        [(c.w.newFlags r.flags).setWidth 32] y) := by
  unfold Cx.fixed
  cases h : c.badResult r with
  | some q => exact .inl ⟨q, rfl, rfl⟩
  | none =>
    by_cases e : c.w.enabledLanes r.flags = 0
    · exact .inr (.inl ⟨rfl, e, by simp [e]⟩)
    · exact .inr (.inr ⟨rfl, e, by simp only [if_neg e]⟩)

/-- A format V instruction at an issuing slot is its runner there. -/
theorem runV_next {op : Nat} {v : VFields} {more : List RegUse} {gens : Cx → List Nat}
    {sem : Cx → VDesc → Except State Results} {s : State} {c : Cx} {d : VDesc} (hc : cx s = some c)
    (hd : vDesc op v.ty.toNat v.sub.toNat = some d) :
    runV op v more gens sem s = .next (c.issueV op v more gens sem d) := by simp [runV, hc, hd]

/-- A format V slot whose checks pass and whose results are fixed-latency. -/
theorem Cx.issueV_fixed {c : Cx} {op : Nat} {v : VFields} {more : List RegUse} {gens : Cx → List Nat}
    {sem : Cx → VDesc → Except State Results} {d : VDesc} {r : Results}
    (h : c.vChecks op v (c.uses v d ++ more) (maskUses op v d) = none) (hs : sem c d = .ok r) (hl : (vLatency op).1 = false) :
    c.issueV op v more gens sem d = c.fixed r v.y := by simp [Cx.issueV, h, hs, hl]

/-- The same with variable-latency results. -/
theorem Cx.issueV_variable {c : Cx} {op : Nat} {v : VFields} {more : List RegUse} {gens : Cx → List Nat}
    {sem : Cx → VDesc → Except State Results} {d : VDesc} {r : Results}
    (h : c.vChecks op v (c.uses v d ++ more) (maskUses op v d) = none) (hs : sem c d = .ok r) (hl : (vLatency op).1 = true) :
    c.issueV op v more gens sem d = c.variable (vLatency op).2 (c.captures v ++ gens c) r v.y := by simp [Cx.issueV, h, hs, hl]

/-! ### Translation -/

/-- A translation succeeds exactly when a valid leaf entry, with the permission and no poison, covers the address (R221). -/
theorem State.translate_ok {s : State} {ctx lan off : Nat} {acc : Acc} {k : Nat} :
    s.translate ctx lan off acc = .ok k ↔ ∃ e, s.leaf ctx lan off = some e ∧ leafValid e = true ∧
      ((acc = .write && !entWR e) || (acc = .fetch && !entEX e)) = false ∧ entPoison e = false ∧
      k = if entLoc e = 0 then gddrKey lan (entFrame e + off % 2 ^ pageBits (entSz e))
        else hostKey (entFrame e + off % 2 ^ pageBits (entSz e)) := by
  unfold State.translate
  generalize s.leaf ctx lan off = o
  cases o with
  | none => simp only [reduceCtorEq, false_and, exists_false]
  | some e =>
    simp only [Option.some.injEq]
    constructor
    · intro h
      split at h
      · cases h
      · rename_i hv
        split at h
        · cases h
        · rename_i hp
          split at h
          · cases h
          · rename_i ho
            exact ⟨e, rfl, by simpa using hv, by simpa using hp, by simpa using ho, (Except.ok.inj h).symm⟩
    · rintro ⟨_, rfl, hv, hp, ho, rfl⟩
      rw [if_neg (by simp [hv]), if_neg (by rw [hp]; decide), if_neg (by simp [ho])]

@[simp] theorem State.present_mem (s : State) (k : Nat) : (s.present k).mem = s.mem := by unfold State.present; split <;> rfl

@[simp] theorem State.reach_mem (s : State) (ctx lan off : Nat) : (s.reach ctx lan off).mem = s.mem := by
  unfold State.reach
  split
  · split
    · exact State.present_mem _ _
    · rfl
  · rfl

@[simp] theorem State.markPage_mem (s : State) (ctx : Nat) (l : Option Nat) (lan off : Nat) (w : Bool) :
    (s.markPage ctx l lan off w).mem = s.mem := by
  unfold State.markPage
  dsimp only
  split <;> rfl

/-- Gathering of `ACC` and `DRT` changes no memory. -/
@[simp] theorem State.gather_mem (s : State) (ctx : Nat) (l : Option Nat) (lan off : Nat) (w : Bool) :
    (s.gather ctx l lan off w).mem = s.mem := by
  unfold State.gather; rw [State.markPage_mem, State.reach_mem]

@[simp] theorem State.touchLine_mem (s : State) (k : Nat) : (s.touchLine k).mem = s.mem := by
  unfold State.touchLine
  split
  · dsimp only
    split <;> rfl
  · rfl

/-- Marking the lines of a range dirty leaves memory alone. -/
@[simp] theorem State.touchRange_mem (s : State) (k n : Nat) : (s.touchRange k n).mem = s.mem := by
  unfold State.touchRange
  induction lineKeys k n generalizing s with
  | nil => rfl
  | cons x xs ih => rw [List.foldl_cons, ih, State.touchLine_mem]

/-- No slice comes to hold more dirty lines than there is room for (R21). -/
theorem State.touchLine_dirty (s : State) (k col : Nat)
    (h : ∀ c, (s.column c).dirty.length ≤ sliceLines) : ((s.touchLine k).column col).dirty.length ≤ sliceLines := by
  unfold State.touchLine
  split
  · dsimp only
    split
    · by_cases hk : keySlice k < s.columns.length
      · rw [State.column_setColumn _ _ _ _ hk]
        split
        · have := h (keySlice k)
          simp only [List.length_append, List.length_drop, List.length_cons, List.length_nil]
          have : sliceLines = 16384 := rfl
          omega
        · exact h col
      · rw [State.setColumn, List.set_eq_of_length_le (by omega)]
        exact h col
    · exact h col
  · exact h col

/-! ### Flits on a port (R455) -/

/-- A flit put on the link stands last among those that are not acknowledged. -/
theorem Port.put_replay (p : Port) (f : Flit) : (p.put f).replay.length = p.replay.length + 1 := by simp [Port.put]

/-- Filling a link puts as many waiting flits on it as there is room for. -/
theorem Port.fill_replay (p : Port) :
    p.fill.replay.length = if p.up then p.replay.length + min (128 - p.replay.length) p.queued.length else p.replay.length := by
  have run (fs : List Flit) (q : Port) : (fs.foldl Port.put q).replay.length = q.replay.length + fs.length := by
    induction fs generalizing q with
    | nil => rfl
    | cons f fs ih => rw [List.foldl_cons, ih, Port.put_replay, List.length_cons]; omega
  unfold Port.fill
  split <;> simp_all

/-- A link never has more than 128 flits that are not acknowledged. -/
theorem Port.push_le (p : Port) (f : Flit) (h : p.replay.length ≤ 128) : (p.push f).replay.length ≤ 128 := by
  unfold Port.push
  rw [Port.fill_replay]
  split
  · dsimp only; omega
  · exact h

end Sys2Proof.Machine
end

