-- ==== Sys2Proof/Laws/Machine.lean ====
section
/-! SUPPORT. The form of the machine's memories under the shared operations, and the ways in which a mailbox command ends. -/

namespace Sys2Proof.Machine

/-! ### The form of every memory -/

/-- What the form of a machine's memories says. -/
theorem State.memWf_iff (s : State) : s.memWf = true ↔ s.mem.wf = true ∧ (∀ g ∈ s.groups, g.scr.wf = true) ∧
    ∀ c ∈ s.contexts, ∀ g ∈ c.savedGroups, g.scr.wf = true := by
  simp [State.memWf, List.all_eq_true, and_assoc]

/-- Two machines with the same memory, groups and contexts have memories of the same form. -/
theorem State.memWf_congr {s t : State} (m : t.mem = s.mem) (g : t.groups = s.groups) (c : t.contexts = s.contexts) :
    t.memWf = s.memWf := by simp only [State.memWf, m, g, c]

@[simp] theorem State.setColumn_memWf (s : State) (c : Nat) (x : Column) : (s.setColumn c x).memWf = s.memWf := rfl
@[simp] theorem State.updColumn_memWf (s : State) (c : Nat) (f : Column → Column) : (s.updColumn c f).memWf = s.memWf := rfl
@[simp] theorem State.updLaunch_memWf (s : State) (u : Nat) (f : Launch → Launch) : (s.updLaunch u f).memWf = s.memWf := rfl
@[simp] theorem State.updQueue_memWf (s : State) (q : Nat) (f : Queue → Queue) : (s.updQueue q f).memWf = s.memWf := rfl
@[simp] theorem State.irq_memWf (s : State) (v : Nat) : (s.irq v).memWf = s.memWf := rfl
@[simp] theorem State.draw_memWf (s : State) : s.draw.2.memWf = s.memWf := rfl

/-- A group put back keeps the form if its scratchpad has it. -/
theorem State.setGroup_memWf {s : State} (h : s.memWf = true) {g : Group} (w : g.scr.wf = true) :
    (s.setGroup g).memWf = true := by
  rw [State.memWf_iff] at h ⊢
  refine ⟨h.1, ?_, h.2.2⟩
  intro k hk
  obtain ⟨y, hy, rfl⟩ := List.mem_map.1 hk
  split
  · exact w
  · exact h.2.1 y hy

/-- A context put back keeps the form if the scratchpads of its saved groups have it. -/
theorem State.setCtx_memWf {s : State} (h : s.memWf = true) {c : Ctx} (w : ∀ g ∈ c.savedGroups, g.scr.wf = true) :
    (s.setCtx c).memWf = true := by
  rw [State.memWf_iff] at h ⊢
  refine ⟨h.1, h.2.1, ?_⟩
  intro k hk
  obtain ⟨y, hy, rfl⟩ := List.mem_map.1 hk
  split
  · exact w
  · exact h.2.2 y hy

/-- The scratchpad of a group found in a machine in form is in form. -/
theorem State.group_scr_wf {s : State} (h : s.memWf = true) {uid : Nat} {g : Group} (hg : s.group uid = some g) :
    g.scr.wf = true := ((State.memWf_iff s).1 h).2.1 g (State.group_mem hg)

/-- An update of a warp keeps the form. -/
theorem State.updWarp_memWf {s : State} (h : s.memWf = true) (uid wid : Nat) (f : Warp → Warp) :
    (s.updWarp uid wid f).memWf = true := by
  unfold State.updWarp State.updGroup
  split
  · rename_i g hg
    have w := State.group_scr_wf h hg
    dsimp only
    split
    · exact State.setGroup_memWf h (by exact w)
    · exact State.setGroup_memWf h w
  · exact h

/-- An update of a context that keeps its saved groups keeps the form. -/
theorem State.updCtx_memWf {s : State} (h : s.memWf = true) (id : Nat) (f : Ctx → Ctx)
    (w : ∀ c, ∀ g ∈ (f c).savedGroups, g ∈ c.savedGroups) : (s.updCtx id f).memWf = true := by
  unfold State.updCtx
  split
  · rename_i c hc
    refine State.setCtx_memWf h fun g hg => ?_
    exact ((State.memWf_iff s).1 h).2.2 c (List.mem_of_find?_eq_some hc) g (w c g hg)
  · exact h

/-- Stores of the module keep the form. -/
theorem State.storeAll_memWf {s : State} (h : s.memWf = true) (ws : List (Nat × Bytes)) :
    ({ s with mem := s.mem.storeAll ws } : State).memWf = true := by
  rw [State.memWf_iff] at h ⊢
  exact ⟨Mem.storeAll_wf h.1 ws, h.2⟩

/-- The end of a slot keeps the form. -/
theorem Cx.commit_memWf (c : Cx) (h : c.s.memWf = true) (w : c.g.scr.wf = true) (r : Option Running) :
    (c.commit r).memWf = true := State.setGroup_memWf h (g := c.g.setWarp c.w) w

theorem Cx.yielding_parts (c : Cx) (y : Bool) : (c.yielding y).s = c.s ∧ (c.yielding y).g = c.g := by
  unfold Cx.yielding; split <;> exact ⟨rfl, rfl⟩

theorem Cx.finish_memWf (c : Cx) (h : c.s.memWf = true) (w : c.g.scr.wf = true) (y : Bool) :
    (c.finish y).memWf = true := by
  obtain ⟨e, f⟩ := Cx.yielding_parts c y
  rcases Cx.finish_cases c y with ⟨_, r⟩ | ⟨_, r⟩
  · rw [r]; exact Cx.commit_memWf _ (by rw [e]; exact h) (by rw [f]; exact w) _
  · rw [r]; apply Cx.commit_memWf
    · exact (congrArg State.memWf e).trans h
    · exact (congrArg (fun g : Group => g.scr.wf) f).trans w

theorem Cx.park_memWf (c : Cx) (h : c.s.memWf = true) (w : c.g.scr.wf = true) (slot : Nat) (why : Wait) :
    (c.park slot why).memWf = true := by
  unfold Cx.park
  apply Cx.commit_memWf <;> assumption

/-! ### The mailbox -/

/-- One step of a command (R473, R474): nothing is served, the command in service is answered for its code, its moment or
its bytes, another command is in service, or the command runs. -/
theorem State.serve_cases (s : State) (code : Nat) (mine : Bytes → Bool) (uses : List (Nat × Nat)) (during : Bool)
    (run : State → Bytes → Served) :
    (s.serving = none ∧ s.serve code mine uses during run = s) ∨
    ∃ cmd, s.serving = some cmd ∧
      ((pelonarCodes.contains (field cmd 0 2) = false ∧ s.serve code mine uses during run = s.endCommand cmd 1 []) ∨
       (¬(field cmd 0 2 = code ∧ mine cmd = true) ∧ s.serve code mine uses during run = s) ∨
       (s.phase ≠ .ready ∧ during = false ∧ s.serve code mine uses during run = s.endCommand cmd 4 []) ∨
       (strayBytes cmd uses = true ∧ s.serve code mine uses during run = s.endCommand cmd 2 []) ∨
       ((s.phase = .ready ∨ during = true) ∧ strayBytes cmd uses = false ∧
        s.serve code mine uses during run = match run s cmd with
          | .over t status results => t.endCommand cmd status results
          | .busy t => t)) := by
  unfold State.serve
  cases s.serving with
  | none => exact .inl ⟨rfl, rfl⟩
  | some cmd =>
    refine .inr ⟨cmd, rfl, ?_⟩
    dsimp only
    cases h1 : pelonarCodes.contains (field cmd 0 2)
    · exact .inl ⟨rfl, rfl⟩
    · right
      by_cases h2 : field cmd 0 2 ≠ code || !mine cmd
      · left
        refine ⟨fun e => ?_, by simp only [h2, if_true]; rfl⟩
        simp [e.1, e.2] at h2
      · right
        rw [if_neg (by decide), if_neg h2]
        by_cases h3 : s.phase ≠ .ready && !during
        · left
          rw [if_pos h3]
          simp only [ne_eq, decide_not, Bool.and_eq_true, Bool.not_eq_true', decide_eq_false_iff_not] at h3
          exact ⟨h3.1, h3.2, rfl⟩
        · right
          rw [if_neg h3]
          cases h4 : strayBytes cmd uses
          · right
            refine ⟨?_, rfl, rfl⟩
            by_cases hp : s.phase = .ready
            · exact .inl hp
            · refine .inr ?_
              simpa [hp] using h3
          · exact .inl ⟨rfl, rfl⟩

end Sys2Proof.Machine
end

