-- ==== Sys2Proof/Laws/PerInstr.lean ====
section
/-! SUPPORT. Laws made per instruction, one lemma for each constructor of `Instr`. -/

namespace Sys2Proof.Laws.Encoded

/-- An instruction has a slot word exactly if it has field checks (R106): steps of the device have neither. -/
def Statement (i : Instr) : Prop :=
  match i.check with
  | some _ => (encode i).isSome = true
  | none => encode i = none

theorem clauseStart (col part : Nat) : Statement (.clauseStart col part) := rfl
theorem fairnessPeriod (grp wid : Nat) : Statement (.fairnessPeriod grp wid) := rfl
theorem resultWritten (grp wid flight : Nat) : Statement (.resultWritten grp wid flight) := rfl
theorem storeCompletion (grp wid flight : Nat) : Statement (.storeCompletion grp wid flight) := rfl
theorem trapDelivery (grp wid : Nat) : Statement (.trapDelivery grp wid) := rfl
theorem handlerEntry (grp wid : Nat) : Statement (.handlerEntry grp wid) := rfl
theorem groupPlacement (col p0 : Nat) : Statement (.groupPlacement col p0) := rfl
theorem taperBindingComplete (grp binding : Nat) : Statement (.taperBindingComplete grp binding) := rfl
theorem warpRetire (grp wid : Nat) : Statement (.warpRetire grp wid) := rfl
theorem triangleSetup (ctx : Nat) : Statement (.triangleSetup ctx) := rfl
theorem tileRasterise (ctx work : Nat) : Statement (.tileRasterise ctx work) := rfl
theorem passCloseEffect (ctx : Nat) : Statement (.passCloseEffect ctx) := rfl
theorem classify (ctx tile : Nat) : Statement (.classify ctx tile) := rfl
theorem binTimerLapse (ctx node : Nat) (key : Word) (lan : Nat) : Statement (.binTimerLapse ctx node key lan) := rfl
theorem recordFits (ctx node : Nat) : Statement (.recordFits ctx node) := rfl
theorem barrierTimeout (grp bar : Nat) : Statement (.barrierTimeout grp bar) := rfl
theorem collectiveTimeout (grp wid : Nat) : Statement (.collectiveTimeout grp wid) := rfl
theorem faultQueueRoom (lan : Nat) : Statement (.faultQueueRoom lan) := rfl
theorem faultService (lan : Nat) : Statement (.faultService lan) := rfl
theorem drtAccWriteback (ctx : Nat) (va : Dword) : Statement (.drtAccWriteback ctx va) := rfl
theorem engineLineWritten (grp slot line : Nat) : Statement (.engineLineWritten grp slot line) := rfl
theorem engineOperationComplete (grp slot : Nat) : Statement (.engineOperationComplete grp slot) := rfl
theorem mergeSessionOpen (grp : Nat) : Statement (.mergeSessionOpen grp) := rfl
theorem loopStep (grp wid tile : Nat) : Statement (.loopStep grp wid tile) := rfl
theorem cbloadComplete (grp wid flight : Nat) : Statement (.cbloadComplete grp wid flight) := rfl
theorem waitvWake (grp wid lane : Nat) : Statement (.waitvWake grp wid lane) := rfl
theorem sleepExpiry (grp wid lane : Nat) : Statement (.sleepExpiry grp wid lane) := rfl
theorem waittokSatisfied (queue : Nat) : Statement (.waittokSatisfied queue) := rfl
theorem contextSave (ctx : Nat) : Statement (.contextSave ctx) := rfl
theorem contextSaveComplete (ctx : Nat) : Statement (.contextSaveComplete ctx) := rfl
theorem maxrtExceeded (launch : Nat) : Statement (.maxrtExceeded launch) := rfl
theorem launch (queue : Nat) : Statement (.launch queue) := rfl
theorem waittok (queue : Nat) : Statement (.waittok queue) := rfl
theorem signal (queue : Nat) : Statement (.signal queue) := rfl
theorem nodes (queue : Nat) : Statement (.nodes queue) := rfl
theorem passopen (queue : Nat) : Statement (.passopen queue) := rfl
theorem passclose (queue : Nat) : Statement (.passclose queue) := rfl
theorem drain (queue : Nat) : Statement (.drain queue) := rfl
theorem requestFlit (port : Nat) (flit : Flit) : Statement (.requestFlit port flit) := rfl
theorem portRetrain (port : Nat) : Statement (.portRetrain port) := rfl
theorem responseFlit (port : Nat) (flit : Flit) : Statement (.responseFlit port flit) := rfl
theorem fabricAcknowledgementTimeout (grp wid : Nat) : Statement (.fabricAcknowledgementTimeout grp wid) := rfl
theorem beacon (port : Nat) (time : Dword) : Statement (.beacon port time) := rfl
theorem poseFlit (port : Nat) (pose : Pose) : Statement (.poseFlit port pose) := rfl
theorem frameLatch (out : Nat) : Statement (.frameLatch out) := rfl
theorem frameDeadline (out : Nat) : Statement (.frameDeadline out) := rfl
theorem frameStart (out : Nat) : Statement (.frameStart out) := rfl
theorem frameRetire (out : Nat) : Statement (.frameRetire out) := rfl
theorem monitorSample (readings : Readings) : Statement (.monitorSample readings) := rfl
theorem l2ShutdownWindowEnd (col : Nat) : Statement (.l2ShutdownWindowEnd col) := rfl
theorem railTrip (col : Nat) (rail : Rail) : Statement (.railTrip col rail) := rfl
theorem railRecovery (col : Nat) (rail : Rail) : Statement (.railRecovery col rail) := rfl
theorem coldStart (report : StartReport) : Statement (.coldStart report) := rfl
theorem mbstWrite (value : Word) : Statement (.mbstWrite value) := rfl
theorem qwake (value : Dword) : Statement (.qwake value) := rfl
theorem qwstWrite (value : Word) : Statement (.qwstWrite value) := rfl
theorem irqcWrite (value : Word) : Statement (.irqcWrite value) := rfl
theorem bar0Write (offset : Nat) (data : Bytes) : Statement (.bar0Write offset data) := rfl
theorem resetCold (report : StartReport) : Statement (.resetCold report) := rfl
theorem resetWarm (report : StartReport) : Statement (.resetWarm report) := rfl
theorem iadd (v : VFields) : Statement (.iadd v) := rfl
theorem isub (v : VFields) : Statement (.isub v) := rfl
theorem imul (v : VFields) : Statement (.imul v) := rfl
theorem imulh (v : VFields) : Statement (.imulh v) := rfl
theorem imad (v : VFields) : Statement (.imad v) := rfl
theorem imadw (v : VFields) : Statement (.imadw v) := rfl
theorem iaddc (v : VFields) : Statement (.iaddc v) := rfl
theorem isubb (v : VFields) : Statement (.isubb v) := rfl
theorem imin (v : VFields) : Statement (.imin v) := rfl
theorem imax (v : VFields) : Statement (.imax v) := rfl
theorem iabs (v : VFields) : Statement (.iabs v) := rfl
theorem isad (v : VFields) : Statement (.isad v) := rfl
theorem iclamp (v : VFields) : Statement (.iclamp v) := rfl
theorem idot2 (v : VFields) : Statement (.idot2 v) := rfl
theorem idot4 (v : VFields) : Statement (.idot4 v) := rfl
theorem icmp (v : VFields) : Statement (.icmp v) := rfl
theorem andB (v : VFields) : Statement (.andB v) := rfl
theorem orB (v : VFields) : Statement (.orB v) := rfl
theorem xorB (v : VFields) : Statement (.xorB v) := rfl
theorem andn (v : VFields) : Statement (.andn v) := rfl
theorem lop3 (v : VFields) : Statement (.lop3 v) := rfl
theorem shl (v : VFields) : Statement (.shl v) := rfl
theorem shr (v : VFields) : Statement (.shr v) := rfl
theorem sar (v : VFields) : Statement (.sar v) := rfl
theorem rot (v : VFields) : Statement (.rot v) := rfl
theorem fshf (v : VFields) : Statement (.fshf v) := rfl
theorem bfe (v : VFields) : Statement (.bfe v) := rfl
theorem bfi (v : VFields) : Statement (.bfi v) := rfl
theorem brev (v : VFields) : Statement (.brev v) := rfl
theorem popc (v : VFields) : Statement (.popc v) := rfl
theorem clz (v : VFields) : Statement (.clz v) := rfl
theorem ctz (v : VFields) : Statement (.ctz v) := rfl
theorem mov (v : VFields) : Statement (.mov v) := rfl
theorem movl (v : VFields) : Statement (.movl v) := rfl
theorem sel (v : VFields) : Statement (.sel v) := rfl
theorem prmt (v : VFields) : Statement (.prmt v) := rfl
theorem sext (v : VFields) : Statement (.sext v) := rfl
theorem mkaff (v : VFields) : Statement (.mkaff v) := rfl
theorem mkgen (v : VFields) : Statement (.mkgen v) := rfl
theorem shape (v : VFields) : Statement (.shape v) := rfl
theorem laneid (v : VFields) : Statement (.laneid v) := rfl
theorem mskop (v : VFields) : Statement (.mskop v) := rfl
theorem mskmov (v : VFields) : Statement (.mskmov v) := rfl
theorem mskmovLane (v : VFields) : Statement (.mskmovLane v) := rfl
theorem mskmovWord (v : VFields) : Statement (.mskmovWord v) := rfl
theorem fadd (v : VFields) : Statement (.fadd v) := rfl
theorem fsub (v : VFields) : Statement (.fsub v) := rfl
theorem fmul (v : VFields) : Statement (.fmul v) := rfl
theorem ffma (v : VFields) : Statement (.ffma v) := rfl
theorem fmin (v : VFields) : Statement (.fmin v) := rfl
theorem fmax (v : VFields) : Statement (.fmax v) := rfl
theorem fminm (v : VFields) : Statement (.fminm v) := rfl
theorem fmaxm (v : VFields) : Statement (.fmaxm v) := rfl
theorem fcmp (v : VFields) : Statement (.fcmp v) := rfl
theorem frnd (v : VFields) : Statement (.frnd v) := rfl
theorem ffrac (v : VFields) : Statement (.ffrac v) := rfl
theorem fclass (v : VFields) : Statement (.fclass v) := rfl
theorem fldexp (v : VFields) : Statement (.fldexp v) := rfl
theorem fexpo (v : VFields) : Statement (.fexpo v) := rfl
theorem fmant (v : VFields) : Statement (.fmant v) := rfl
theorem fdot2 (v : VFields) : Statement (.fdot2 v) := rfl
theorem fdot4 (v : VFields) : Statement (.fdot4 v) := rfl
theorem fcpys (v : VFields) : Statement (.fcpys v) := rfl
theorem fmed3 (v : VFields) : Statement (.fmed3 v) := rfl
theorem cvt (v : VFields) : Statement (.cvt v) := rfl
theorem cvtpk (v : VFields) : Statement (.cvtpk v) := rfl
theorem cvtup (v : VFields) : Statement (.cvtup v) := rfl
theorem qblk (v : VFields) : Statement (.qblk v) := rfl
theorem dqblk (v : VFields) : Statement (.dqblk v) := rfl
theorem rcp (v : VFields) : Statement (.rcp v) := rfl
theorem rsq (v : VFields) : Statement (.rsq v) := rfl
theorem sqrt (v : VFields) : Statement (.sqrt v) := rfl
theorem exp2 (v : VFields) : Statement (.exp2 v) := rfl
theorem log2 (v : VFields) : Statement (.log2 v) := rfl
theorem sinpi (v : VFields) : Statement (.sinpi v) := rfl
theorem cospi (v : VFields) : Statement (.cospi v) := rfl
theorem tanh (v : VFields) : Statement (.tanh v) := rfl
theorem sigm (v : VFields) : Statement (.sigm v) := rfl
theorem tbl (v : VFields) : Statement (.tbl v) := rfl
theorem tbli (v : VFields) : Statement (.tbli v) := rfl
theorem divf (v : VFields) : Statement (.divf v) := rfl
theorem shfl (v : VFields) : Statement (.shfl v) := rfl
theorem rdfirst (v : VFields) : Statement (.rdfirst v) := rfl
theorem rdlane (v : VFields) : Statement (.rdlane v) := rfl
theorem wrlane (v : VFields) : Statement (.wrlane v) := rfl
theorem vote (v : VFields) : Statement (.vote v) := rfl
theorem matchKey (v : VFields) : Statement (.matchKey v) := rfl
theorem compact (v : VFields) : Statement (.compact v) := rfl
theorem expand (v : VFields) : Statement (.expand v) := rfl
theorem reduce (v : VFields) : Statement (.reduce v) := rfl
theorem scan (v : VFields) : Statement (.scan v) := rfl
theorem sortk (v : VFields) : Statement (.sortk v) := rfl
theorem ifCond (k : KFields) : Statement (.ifCond k) := rfl
theorem elseJoin (k : KFields) : Statement (.elseJoin k) := rfl
theorem endif (k : KFields) : Statement (.endif k) := rfl
theorem loop (k : KFields) : Statement (.loop k) := rfl
theorem endloop (k : KFields) : Statement (.endloop k) := rfl
theorem brk (k : KFields) : Statement (.brk k) := rfl
theorem cont (k : KFields) : Statement (.cont k) := rfl
theorem jmp (k : KFields) : Statement (.jmp k) := rfl
theorem jmpu (k : KFields) : Statement (.jmpu k) := rfl
theorem call (k : KFields) : Statement (.call k) := rfl
theorem calli (k : KFields) : Statement (.calli k) := rfl
theorem ret (k : KFields) : Statement (.ret k) := rfl
theorem exit (k : KFields) : Statement (.exit k) := rfl
theorem setbnd (k : KFields) : Statement (.setbnd k) := rfl
theorem nop (k : KFields) : Statement (.nop k) := rfl
theorem ld (m : MFields) : Statement (.ld m) := rfl
theorem st (m : MFields) : Statement (.st m) := rfl
theorem ldu (m : MFields) : Statement (.ldu m) := rfl
theorem ldq (m : MFields) : Statement (.ldq m) := rfl
theorem stq (m : MFields) : Statement (.stq m) := rfl
theorem atom (m : MFields) : Statement (.atom m) := rfl
theorem cas (m : MFields) : Statement (.cas m) := rfl
theorem atomu (m : MFields) : Statement (.atomu m) := rfl
theorem fence (m : MFields) : Statement (.fence m) := rfl
theorem waitv (m : MFields) : Statement (.waitv m) := rfl
theorem bsalloc (m : MFields) : Statement (.bsalloc m) := rfl
theorem bsfree (m : MFields) : Statement (.bsfree m) := rfl
theorem bsshare (m : MFields) : Statement (.bsshare m) := rfl
theorem bslook (m : MFields) : Statement (.bslook m) := rfl
theorem tex (m : MFields) : Statement (.tex m) := rfl
theorem texg (m : MFields) : Statement (.texg m) := rfl
theorem rayq (m : MFields) : Statement (.rayq m) := rfl
theorem rayb (m : MFields) : Statement (.rayb m) := rfl
theorem attr (m : MFields) : Statement (.attr m) := rfl
theorem mma (x : XFields) : Statement (.mma x) := rfl
theorem mmas (x : XFields) : Statement (.mmas x) := rfl
theorem mloop (x : XFields) : Statement (.mloop x) := rfl
theorem mloops (x : XFields) : Statement (.mloops x) := rfl
theorem accz (x : XFields) : Statement (.accz x) := rfl
theorem accld (x : XFields) : Statement (.accld x) := rfl
theorem accst (x : XFields) : Statement (.accst x) := rfl
theorem accdrain (x : XFields) : Statement (.accdrain x) := rfl
theorem mapchk (x : XFields) : Statement (.mapchk x) := rfl
theorem fragxGet (x : XFields) : Statement (.fragxGet x) := rfl
theorem fragxPut (x : XFields) : Statement (.fragxPut x) := rfl
theorem fragxStat (x : XFields) : Statement (.fragxStat x) := rfl
theorem cpy (e : EFields) : Statement (.cpy e) := rfl
theorem cpyx (e : EFields) : Statement (.cpyx e) := rfl
theorem pfl2 (e : EFields) : Statement (.pfl2 e) := rfl
theorem gathr (e : EFields) : Statement (.gathr e) := rfl
theorem scatb (e : EFields) : Statement (.scatb e) := rfl
theorem binrpl (e : EFields) : Statement (.binrpl e) := rfl
theorem mrgo (e : EFields) : Statement (.mrgo e) := rfl
theorem mrgp (e : EFields) : Statement (.mrgp e) := rfl
theorem mrgc (e : EFields) : Statement (.mrgc e) := rfl
theorem mrgs (e : EFields) : Statement (.mrgs e) := rfl
theorem tokw (e : EFields) : Statement (.tokw e) := rfl
theorem tokq (e : EFields) : Statement (.tokq e) := rfl
theorem cancel (e : EFields) : Statement (.cancel e) := rfl
theorem bar (f : SFields) : Statement (.bar f) := rfl
theorem bara (f : SFields) : Statement (.bara f) := rfl
theorem barw (f : SFields) : Statement (.barw f) := rfl
theorem spawn (f : SFields) : Statement (.spawn f) := rfl
theorem emit (f : SFields) : Statement (.emit f) := rfl
theorem claim (f : SFields) : Statement (.claim f) := rfl
theorem regrp (f : SFields) : Statement (.regrp f) := rfl
theorem cbload (f : SFields) : Statement (.cbload f) := rfl
theorem cbcommit (f : SFields) : Statement (.cbcommit f) := rfl
theorem gwr (f : SFields) : Statement (.gwr f) := rfl
theorem gatom (f : SFields) : Statement (.gatom f) := rfl
theorem qsig (f : SFields) : Statement (.qsig f) := rfl
theorem sleep (f : SFields) : Statement (.sleep f) := rfl
theorem framec (f : SFields) : Statement (.framec f) := rfl
theorem trap (f : SFields) : Statement (.trap f) := rfl
theorem rte (f : SFields) : Statement (.rte f) := rfl
theorem rdsr (f : SFields) : Statement (.rdsr f) := rfl
theorem wrsrCtl (f : SFields) : Statement (.wrsrCtl f) := rfl
theorem wrsrFlags (f : SFields) : Statement (.wrsrFlags f) := rfl
theorem wrsrSeed (f : SFields) : Statement (.wrsrSeed f) := rfl
theorem clk (f : SFields) : Statement (.clk f) := rfl
theorem bkpt (f : SFields) : Statement (.bkpt f) := rfl
theorem rply (f : SFields) : Statement (.rply f) := rfl
theorem harvest (f : SFields) : Statement (.harvest f) := rfl
theorem diag (f : SFields) : Statement (.diag f) := rfl
theorem flgClr (f : SFields) : Statement (.flgClr f) := rfl
theorem flgTest (f : SFields) : Statement (.flgTest f) := rfl
theorem blockMove (ctx block : Nat) (dest : BlockPlace) : Statement (.blockMove ctx block dest) := rfl
theorem idleFlit (port : Nat) (flit : Flit) : Statement (.idleFlit port flit) := rfl
theorem harvestEntriesWritten (grp wid lane : Nat) : Statement (.harvestEntriesWritten grp wid lane) := rfl
theorem schedulingBoundary : Statement (.schedulingBoundary) := rfl
theorem holdover : Statement (.holdover) := rfl
theorem drained : Statement (.drained) := rfl
theorem startHoldover : Statement (.startHoldover) := rfl
theorem status : Statement (.status) := rfl
theorem readdt : Statement (.readdt) := rfl
theorem ctxnew : Statement (.ctxnew) := rfl
theorem ctxend : Statement (.ctxend) := rfl
theorem ctxsave : Statement (.ctxsave) := rfl
theorem ctxrun : Statement (.ctxrun) := rfl
theorem diagrd : Statement (.diagrd) := rfl
theorem qnew : Statement (.qnew) := rfl
theorem qrestart : Statement (.qrestart) := rfl
theorem qfree : Statement (.qfree) := rfl
theorem mapLeaf : Statement (.mapLeaf) := rfl
theorem unmapLeaf : Statement (.unmapLeaf) := rfl
theorem pool : Statement (.pool) := rfl
theorem faultrspMap : Statement (.faultrspMap) := rfl
theorem faultrspRefuse : Statement (.faultrspRefuse) := rfl
theorem dispset : Statement (.dispset) := rfl
theorem pose : Statement (.pose) := rfl
theorem depart : Statement (.depart) := rfl
theorem evlog : Statement (.evlog) := rfl
theorem dbgattAttach : Statement (.dbgattAttach) := rfl
theorem dbgattDetach : Statement (.dbgattDetach) := rfl
theorem saverwToHost : Statement (.saverwToHost) := rfl
theorem saverwToSaveArea : Statement (.saverwToSaveArea) := rfl
theorem getid : Statement (.getid) := rfl
theorem attest : Statement (.attest) := rfl

end Sys2Proof.Laws.Encoded
end

