-- ==== Sys2Proof/Laws/Vector.lean ====
section
/-! SUPPORT. What a format V slot leaves when it completes: its results stand in the warp, at once or when RESULT_WRITTEN
brings them. -/

namespace Sys2Proof.Machine

/-! ### Registers and masks after several writes -/

/-- A register after a list of writes to other registers. -/
theorem Warp.reg_foldl_setReg_other (q : Nat) : ∀ (l : List (Nat × Reg)) (w : Warp), (∀ x ∈ l, x.1 ≠ q) →
    (l.foldl (fun w x => w.setReg x.1 x.2) w).reg q = w.reg q
  | [], _, _ => rfl
  | x :: t, w, h => by
    rw [List.foldl_cons, Warp.reg_foldl_setReg_other q t _ (fun y hy => h y (List.mem_cons_of_mem _ hy)), Warp.reg_setReg,
      if_neg (Ne.symm (h x (List.mem_cons_self ..)))]

/-- A register after a list of writes to different registers, one of which is to it. -/
theorem Warp.reg_foldl_setReg (q : Nat) (v : Reg) (l : List (Nat × Reg)) : ∀ w : Warp, (l.map Prod.fst).Nodup → (q, v) ∈ l →
    (l.foldl (fun w x => w.setReg x.1 x.2) w).reg q = v := by
  induction l with
  | nil => intro w _ h; cases h
  | cons x t ih =>
    intro w n h
    rw [List.map_cons, List.nodup_cons] at n
    rw [List.foldl_cons]
    cases h with
    | head =>
      have o : ∀ y ∈ t, y.1 ≠ q := fun y hy e => n.1 (List.mem_map.2 ⟨y, hy, e⟩)
      rw [Warp.reg_foldl_setReg_other q t _ o, Warp.reg_setReg, if_pos rfl]
    | tail _ h => exact ih _ n.2 h

/-- A list of register writes changes nothing but registers. -/
theorem Warp.foldl_setReg_rest : ∀ (l : List (Nat × Reg)) (w : Warp),
    { l.foldl (fun w x => w.setReg x.1 x.2) w with regs := w.regs } = w
  | [], _ => rfl
  | x :: t, w => by
    rw [List.foldl_cons]
    have r := Warp.foldl_setReg_rest t (w.setReg x.1 x.2)
    calc _ = { ({ t.foldl (fun w x => w.setReg x.1 x.2) (w.setReg x.1 x.2) with regs := (w.setReg x.1 x.2).regs } : Warp) with
        regs := w.regs } := rfl
      _ = { w.setReg x.1 x.2 with regs := w.regs } := by rw [r]
      _ = w := rfl

/-- A warp with its registers, masks and what goes with results replaced by those of another. -/
def Warp.blank (w v : Warp) : Warp :=
  { w with regs := v.regs, masks := v.masks, flags := v.flags, gens := v.gens, flights := v.flights, nextFlight := v.nextFlight
           counters := v.counters, causes := v.causes, yields := v.yields, unack := v.unack }

@[simp] theorem Warp.blank_setReg (w v : Warp) (r : Nat) (x : Reg) : (w.setReg r x).blank v = w.blank v := rfl
@[simp] theorem Warp.blank_addFlags (w v : Warp) (fs : List (BitVec 5)) : (w.addFlags fs).blank v = w.blank v := rfl
@[simp] theorem Warp.blank_self (w : Warp) : w.blank w = w := rfl
@[simp] theorem Warp.blank_putMask (w v : Warp) (m : Nat) (a b : Word) : (w.putMask m a b).blank v = w.blank v := by
  unfold Warp.putMask Warp.setMask; split <;> rfl
@[simp] theorem Warp.blank_uncount (w v : Warp) (k : Option Nat) : (w.uncount k).blank v = w.blank v := by
  unfold Warp.uncount; split <;> rfl
@[simp] theorem Warp.blank_count (w v : Warp) (k : Nat) : (w.count k).blank v = w.blank v := rfl
@[simp] theorem Warp.blank_endFlight (w v : Warp) (i : Nat) : (w.endFlight i).blank v = w.blank v := by
  unfold Warp.endFlight; split
  · rfl
  · rw [Warp.blank_uncount]; rfl

theorem Warp.blank_foldl_setReg (v : Warp) : ∀ (l : List (Nat × Reg)) (w : Warp),
    (l.foldl (fun w x => w.setReg x.1 x.2) w).blank v = w.blank v
  | [], _ => rfl
  | x :: t, w => by rw [List.foldl_cons, Warp.blank_foldl_setReg v t]; rfl

theorem Warp.blank_foldl_putMask (v : Warp) : ∀ (l : List (Nat × Word × Word)) (w : Warp),
    (l.foldl (fun w m => w.putMask m.1 m.2.1 m.2.2) w).blank v = w.blank v
  | [], _ => rfl
  | x :: t, w => by rw [List.foldl_cons, Warp.blank_foldl_putMask v t, Warp.blank_putMask]

/-! ### What a mask write and flags leave -/

@[simp] theorem Warp.putMask_reg (w : Warp) (m : Nat) (a b : Word) (r : Nat) : (w.putMask m a b).reg r = w.reg r :=
  Warp.setMask_reg w m r _

theorem Warp.foldl_putMask_reg (r : Nat) : ∀ (l : List (Nat × Word × Word)) (w : Warp),
    (l.foldl (fun w m => w.putMask m.1 m.2.1 m.2.2) w).reg r = w.reg r
  | [], _ => rfl
  | x :: t, w => by rw [List.foldl_cons, Warp.foldl_putMask_reg r t, Warp.putMask_reg]

theorem Warp.foldl_setReg_mask (m : Nat) : ∀ (l : List (Nat × Reg)) (w : Warp),
    (l.foldl (fun w x => w.setReg x.1 x.2) w).mask m = w.mask m
  | [], _ => rfl
  | x :: t, w => by rw [List.foldl_cons, Warp.foldl_setReg_mask m t, Warp.setReg_mask]

theorem Warp.foldl_putMask_mask (k : Nat) : ∀ (l : List (Nat × Word × Word)) (w : Warp), (∀ x ∈ l, x.1 ≠ k) →
    (l.foldl (fun w m => w.putMask m.1 m.2.1 m.2.2) w).mask k = w.mask k
  | [], _, _ => rfl
  | x :: t, w, h => by
    rw [List.foldl_cons, Warp.foldl_putMask_mask k t _ (fun y hy => h y (List.mem_cons_of_mem _ hy)), Warp.putMask,
      Warp.mask_setMask, if_neg (by rintro ⟨_, e⟩; exact h x (List.mem_cons_self ..) e.symm)]

theorem Warp.flagOf_addFlags (w : Warp) (fs : List (BitVec 5)) {l : Nat} (h : l < 32) :
    (w.addFlags fs).flagOf l = w.flagOf l ||| fs.getD l 0 := by
  unfold Warp.addFlags
  exact lanes_getD (fun l => w.flagOf l ||| fs.getD l 0) 0 h

/-- Writes of registers and mask registers leave what the warp owes. -/
theorem Warp.foldl_setReg_unack (l : List (Nat × Reg)) (w : Warp) :
    (l.foldl (fun w x => w.setReg x.1 x.2) w).unack = w.unack := by
  have h := congrArg Warp.unack (Warp.foldl_setReg_rest l w)
  exact h

theorem Warp.foldl_putMask_unack : ∀ (l : List (Nat × Word × Word)) (w : Warp),
    (l.foldl (fun w m => w.putMask m.1 m.2.1 m.2.2) w).unack = w.unack
  | [], _ => rfl
  | x :: t, w => by
    rw [List.foldl_cons, Warp.foldl_putMask_unack t]
    unfold Warp.putMask Warp.setMask; split <;> rfl

theorem Warp.endFlight_unack (w : Warp) (i : Nat) {f : Flight} (h : w.flights.find? (fun f => f.id = i) = some f) :
    (w.endFlight i).unack = w.unack.filter (fun a => a.flight ≠ some i) := by
  unfold Warp.endFlight Warp.uncount
  rw [h]; dsimp only; split <;> rfl

/-- The end of an operation takes away only acknowledgements of its own. -/
theorem Warp.endFlight_owes (w : Warp) (i : Nat) :
    (∀ a ∈ (w.endFlight i).unack, a ∈ w.unack) ∧ ∀ a ∈ w.unack, a.flight ≠ some i → a ∈ (w.endFlight i).unack := by
  cases h : w.flights.find? (fun f => f.id = i) with
  | none =>
    have e : w.endFlight i = w := by unfold Warp.endFlight; rw [h]
    rw [e]; exact ⟨fun a m => m, fun a m _ => m⟩
  | some f =>
    rw [Warp.endFlight_unack w i h]
    exact ⟨fun a m => (List.mem_filter.1 m).1, fun a m n => List.mem_filter.2 ⟨m, by simpa using n⟩⟩

/-! ### The end of a slot with results -/

/-- The warp that a completed slot's results leave: its registers and masks written, its flags raised. -/
structure Cx.Left (c : Cx) (r : Results) (w : Warp) : Prop where
  regs : ∀ q, w.reg q = (c.writeRegs r).reg q
  masks : ∀ m, w.mask m = (r.masks.foldl (fun w m => w.putMask m.1 m.2.1 m.2.2) c.w).mask m
  flags : ∀ l, l < 32 → w.flagOf l = c.w.flagOf l ||| r.flags.getD l 0
  gens : w.gens = r.gens
  causes : w.causes = c.w.causes
  owes : c.Owes w
  rest : w.blank c.w = c.w

/-- Mask writes do not look at registers. -/
theorem Warp.foldl_putMask_congr (k : Nat) : ∀ (l : List (Nat × Word × Word)) (w v : Warp), w.masks = v.masks → w.live = v.live →
    (l.foldl (fun w m => w.putMask m.1 m.2.1 m.2.2) w).mask k = (l.foldl (fun w m => w.putMask m.1 m.2.1 m.2.2) v).mask k
  | [], w, v, h, e => by simp only [List.foldl_nil, Warp.mask, h, e]
  | x :: t, w, v, h, e => by
    rw [List.foldl_cons, List.foldl_cons]
    apply Warp.foldl_putMask_congr k t
    · simp only [Warp.putMask, Warp.setMask, Warp.mask, h, e]
      split <;> simp [h]
    · simp only [Warp.putMask, Warp.setMask]
      split <;> exact e

theorem Warp.foldl_setReg_fields : ∀ (l : List (Nat × Reg)) (w : Warp),
    let v := l.foldl (fun w x => w.setReg x.1 x.2) w
    v.masks = w.masks ∧ v.live = w.live ∧ v.flags = w.flags ∧ v.causes = w.causes ∧ v.ctl = w.ctl ∧ v.gens = w.gens
  | [], _ => ⟨rfl, rfl, rfl, rfl, rfl, rfl⟩
  | x :: t, w => Warp.foldl_setReg_fields t (w.setReg x.1 x.2)

theorem Warp.foldl_putMask_fields : ∀ (l : List (Nat × Word × Word)) (w : Warp),
    let v := l.foldl (fun w m => w.putMask m.1 m.2.1 m.2.2) w
    v.flags = w.flags ∧ v.causes = w.causes ∧ v.ctl = w.ctl ∧ v.gens = w.gens
  | [], _ => ⟨rfl, rfl, rfl, rfl⟩
  | x :: t, w => by
    obtain ⟨a, b, d, e⟩ := Warp.foldl_putMask_fields t (w.putMask x.1 x.2.1 x.2.2)
    have k : (w.putMask x.1 x.2.1 x.2.2).flags = w.flags ∧ (w.putMask x.1 x.2.1 x.2.2).causes = w.causes ∧
        (w.putMask x.1 x.2.1 x.2.2).ctl = w.ctl ∧ (w.putMask x.1 x.2.1 x.2.2).gens = w.gens := by
      unfold Warp.putMask Warp.setMask; split <;> exact ⟨rfl, rfl, rfl, rfl⟩
    exact ⟨a.trans k.1, b.trans k.2.1, d.trans k.2.2.1, e.trans k.2.2.2⟩

/-- Fixed-latency results stand at once (R97). -/
theorem Cx.land_left (c : Cx) (r : Results) : c.Left r (c.land r) where
  regs q := by
    show (r.masks.foldl (fun w m => w.putMask m.1 m.2.1 m.2.2) (c.writeRegs r)).reg q = _
    exact Warp.foldl_putMask_reg q _ _
  masks m := by
    show (r.masks.foldl (fun w m => w.putMask m.1 m.2.1 m.2.2) (c.writeRegs r)).mask m = _
    obtain ⟨a, b, -⟩ := Warp.foldl_setReg_fields (c.settled r) c.w
    exact Warp.foldl_putMask_congr m _ _ _ a b
  flags l h := by
    show ((r.masks.foldl (fun w m => w.putMask m.1 m.2.1 m.2.2) (c.writeRegs r)).addFlags r.flags).flagOf l = _
    rw [Warp.flagOf_addFlags _ _ h]
    obtain ⟨a, -⟩ := Warp.foldl_putMask_fields r.masks (c.writeRegs r)
    obtain ⟨-, -, e, -⟩ := Warp.foldl_setReg_fields (c.settled r) c.w
    unfold Warp.flagOf
    rw [a, show (c.writeRegs r).flags = c.w.flags from e]
  gens := rfl
  causes := by
    obtain ⟨-, a, -⟩ := Warp.foldl_putMask_fields r.masks (c.writeRegs r)
    obtain ⟨-, -, -, e, -⟩ := Warp.foldl_setReg_fields (c.settled r) c.w
    exact a.trans e
  owes := by
    have h : (c.land r).unack = c.w.unack := by
      show (r.masks.foldl (fun w m => w.putMask m.1 m.2.1 m.2.2) (c.writeRegs r)).unack = _
      rw [Warp.foldl_putMask_unack]
      exact Warp.foldl_setReg_unack (c.settled r) c.w
    unfold Cx.Owes
    rw [h]; exact ⟨fun a m => m, fun a m _ => m⟩
  rest := by
    show ((r.masks.foldl (fun w m => w.putMask m.1 m.2.1 m.2.2) (c.writeRegs r)).addFlags r.flags).blank c.w = c.w
    rw [Warp.blank_addFlags, Warp.blank_foldl_putMask]
    show ((c.settled r).foldl (fun w x => w.setReg x.1 x.2) c.w).blank c.w = c.w
    rw [Warp.blank_foldl_setReg, Warp.blank_self]

/-- Nothing is on its way after a fixed-latency slot. -/
theorem Cx.landed_land (c : Cx) (r : Results) : c.landed (c.land r) = c.land r := by
  have e : (c.land r).flights = c.w.flights := by
    have h := congrArg Warp.flights (Warp.foldl_setReg_rest (c.settled r) c.w)
    have m : ∀ (l : List (Nat × Word × Word)) (w : Warp),
        (l.foldl (fun w m => w.putMask m.1 m.2.1 m.2.2) w).flights = w.flights := by
      intro l
      induction l with
      | nil => intro w; rfl
      | cons x t ih =>
        intro w
        rw [List.foldl_cons, ih]
        unfold Warp.putMask Warp.setMask; split <;> rfl
    show (r.masks.foldl (fun w m => w.putMask m.1 m.2.1 m.2.2) (c.writeRegs r)).flights = _
    rw [m]; exact h
  unfold Cx.landed
  rw [e, List.drop_length]
  rfl

/-- A fixed-latency slot whose results fit and raise no enabled flag completes with them. -/
theorem Cx.fixed_gives {c : Cx} {r : Results} {y : Bool} {P : Warp → Prop} (hb : c.badResult r = none)
    (hf : c.w.enabledLanes r.flags = 0) (hP : ∀ w, c.Left r w → P w) : c.Gives (.next (c.fixed r y)) y P := by
  refine ⟨c.land r, ?_, ?_⟩
  · rcases Cx.fixed_cases c r y with ⟨q, h, _⟩ | ⟨_, _, h⟩ | ⟨_, h, _⟩
    · rw [hb] at h; cases h
    · rw [h]
    · exact absurd hf h
  · rw [Cx.landed_land]; exact hP _ (Cx.land_left c r)

theorem Warp.endFlight_parts (w : Warp) (i : Nat) :
    (w.endFlight i).regs = w.regs ∧ (w.endFlight i).masks = w.masks ∧ (w.endFlight i).live = w.live ∧
      (w.endFlight i).flags = w.flags ∧ (w.endFlight i).gens = w.gens ∧ (w.endFlight i).causes = w.causes := by
  have u : ∀ (v : Warp) k, (v.uncount k).regs = v.regs ∧ (v.uncount k).masks = v.masks ∧ (v.uncount k).live = v.live ∧
      (v.uncount k).flags = v.flags ∧ (v.uncount k).gens = v.gens ∧ (v.uncount k).causes = v.causes := by
    intro v k; unfold Warp.uncount; split <;> exact ⟨rfl, rfl, rfl, rfl, rfl, rfl⟩
  unfold Warp.endFlight
  split
  · exact ⟨rfl, rfl, rfl, rfl, rfl, rfl⟩
  · obtain ⟨a, b, d, e, f, g⟩ := u { w with flights := w.flights.filter (fun f => f.id ≠ i), yields := w.yields.filter (fun y => y ≠ i), unack := w.unack.filter (fun a => a.flight ≠ some i) } (‹Flight›).counter
    exact ⟨a, b, d, e, f, g⟩

/-- A variable-latency slot whose results fit and raise no enabled flag completes with them once they are written (R98). -/
theorem Cx.variable_gives {c : Cx} {counter : Option Nat} {gens : List Nat} {r : Results} {y : Bool} {P : Warp → Prop}
    (hb : c.badResult r = none) (hf : c.w.enabledLanes r.flags = 0) (hP : ∀ w, c.Left r w → P w) :
    c.Gives (.next (c.variable counter gens r y)) y P := by
  let c' := c.launchFlight counter (c.dests r) r.flags .result none [] gens
  refine ⟨{ c'.w with gens := r.gens }, ?_, ?_⟩
  · simp only [Cx.variable, hb]; rfl
  apply hP
  have parts : ∃ f : Flight, c'.w.flights = c.w.flights ++ [f] ∧ f.dests = c.dests r ∧ f.flags = r.flags ∧
      c'.w.regs = c.w.regs ∧ c'.w.masks = c.w.masks ∧ c'.w.live = c.w.live ∧ c'.w.flags = c.w.flags ∧
      c'.w.causes = c.w.causes ∧ c'.w.ctl = c.w.ctl ∧ c'.w.blank c.w = c.w ∧ c'.w.unack = c.w.unack ∧ f.id = c.w.nextFlight := by
    refine ⟨{ id := c.w.nextFlight, counter, dests := c.dests r, flags := r.flags, kind := .result, log := none, remote := [],
              gens, pc := c.run.pc, slot := c.slot, op := opOf (c.run.words.getD c.slot 0), grp := c.run.lanes,
              issued := c.s.clock.toNat }, ?_⟩
    cases counter <;> exact ⟨rfl, rfl, rfl, rfl, rfl, rfl, rfl, rfl, rfl, rfl, rfl, rfl⟩
  obtain ⟨f, hfl, hd, hfg, p1, p2, p3, p4, p5, p6, p7, p8, hid⟩ := parts
  have hl : c.landed { c'.w with gens := r.gens } = Warp.takeResult { c'.w with gens := r.gens } f := by
    unfold Cx.landed
    show (c'.w.flights.drop c.w.flights.length).foldl Warp.takeResult _ = _
    rw [hfl, List.drop_left]; rfl
  rw [hl]
  have hen : Warp.enabledLanes { c'.w with gens := r.gens } f.flags = 0 := by
    rw [hfg, ← hf]; unfold Warp.enabledLanes Warp.trapEnables
    show maskOf (fun l => r.flags.getD l 0 &&& c'.w.ctl.extractLsb' 4 5 ≠ 0) = _
    rw [p6]
  have ht : Warp.takeResult { c'.w with gens := r.gens } f =
      ((r.masks.foldl (fun (w : Warp) m => w.putMask m.1 m.2.1 m.2.2)
        ((c.settled r).foldl (fun (w : Warp) x => w.setReg x.1 x.2) { c'.w with gens := r.gens })).addFlags r.flags).endFlight f.id := by
    unfold Warp.takeResult
    dsimp only
    rw [hen, if_pos rfl, hd, hfg]
    simp only [Cx.dests, Cx.settled, List.foldl_append, List.foldl_map]
  rw [ht]
  generalize hw : ({ c'.w with gens := r.gens } : Warp) = w0
  have q1 : w0.regs = c.w.regs := by rw [← hw]; exact p1
  have q2 : w0.masks = c.w.masks := by rw [← hw]; exact p2
  have q3 : w0.live = c.w.live := by rw [← hw]; exact p3
  have q4 : w0.flags = c.w.flags := by rw [← hw]; exact p4
  have q5 : w0.causes = c.w.causes := by rw [← hw]; exact p5
  have q6 : w0.gens = r.gens := by rw [← hw]
  have q7 : w0.blank c.w = c.w := by rw [← hw]; exact p7
  generalize hv : (c.settled r).foldl (fun w x => w.setReg x.1 x.2) w0 = w1
  obtain ⟨s1, s2, s3, s4, -, s6⟩ := Warp.foldl_setReg_fields (c.settled r) w0
  rw [hv] at s1 s2 s3 s4 s6
  generalize hu : r.masks.foldl (fun w m => w.putMask m.1 m.2.1 m.2.2) w1 = w2
  obtain ⟨t1, t2, -, t4⟩ := Warp.foldl_putMask_fields r.masks w1
  rw [hu] at t1 t2 t4
  obtain ⟨e1, e2, e3, e4, e5, e6⟩ := Warp.endFlight_parts (w2.addFlags r.flags) f.id
  have regs_congr : ∀ (l : List (Nat × Reg)) (a b : Warp), a.regs = b.regs →
      (l.foldl (fun w x => w.setReg x.1 x.2) a).regs = (l.foldl (fun w x => w.setReg x.1 x.2) b).regs := by
    intro l
    induction l with
    | nil => intro a b h; exact h
    | cons x t ih => intro a b h; exact ih _ _ (by simp only [Warp.setReg, h])
  constructor
  · intro q
    show ((w2.addFlags r.flags).endFlight f.id).regs.getD q _ = _
    rw [e1]
    show w2.reg q = _
    rw [← hu, Warp.foldl_putMask_reg, ← hv]
    show ((c.settled r).foldl (fun w x => w.setReg x.1 x.2) w0).regs.getD q _ = _
    rw [regs_congr _ w0 c.w q1]; rfl
  · intro m
    have : ((w2.addFlags r.flags).endFlight f.id).mask m = w2.mask m := by
      unfold Warp.mask; rw [e2, e3]; rfl
    rw [this, ← hu]
    exact Warp.foldl_putMask_congr m _ _ _ (s1.trans q2) (s2.trans q3)
  · intro l h
    show ((w2.addFlags r.flags).endFlight f.id).flags.getD l 0 = _
    rw [e4]
    show (w2.addFlags r.flags).flagOf l = _
    rw [Warp.flagOf_addFlags _ _ h]
    unfold Warp.flagOf
    rw [t1, s3, q4]
  · rw [e5]; show w2.gens = _; rw [t4, s6, q6]
  · rw [e6]; show w2.causes = _; rw [t2, s4, q5]
  · have hun : (w2.addFlags r.flags).unack = c.w.unack := by
      show w2.unack = _
      rw [← hu, Warp.foldl_putMask_unack, ← hv, Warp.foldl_setReg_unack, ← hw]
      exact p8
    have o := Warp.endFlight_owes (w2.addFlags r.flags) f.id
    rw [hun, hid] at o
    unfold Cx.Owes
    rw [hid]; exact o
  · rw [Warp.blank_endFlight, Warp.blank_addFlags, ← hu, Warp.blank_foldl_putMask, ← hv, Warp.blank_foldl_setReg, q7]

end Sys2Proof.Machine
end

