-- ==== Sys2Proof/Tests/Slice0.lean ====
section
/-! SUPPORT. Tests: ill-formed instructions, words written out from the spec's encodings, single steps on small states, and for
every statement with hypotheses a concrete state and operands that meet them. -/

namespace Sys2Proof.Tests

set_option Elab.async false

open Sys2Proof Sys2Proof.Machine

/-! ### Small states -/

/-- A decidable fact about a value that is there gives the value. -/
theorem there {α : Type} {o : Option α} {p : α → Prop} [DecidablePred p] (h : o.any (fun x => decide (p x)) = true) :
    ∃ x, o = some x ∧ p x := by
  cases o with
  | none => cases h
  | some x => exact ⟨x, rfl, of_decide_eq_true h⟩

/-- The same for two values. -/
theorem there₂ {α β : Type} {o : Option α} {q : α → Option β} {p : α → β → Prop} [∀ x, DecidablePred (p x)]
    (h : o.any (fun x => (q x).any (fun y => decide (p x y))) = true) : ∃ x, o = some x ∧ ∃ y, q x = some y ∧ p x y := by
  cases o with
  | none => cases h
  | some x => exact ⟨x, rfl, there h⟩

/-- Partition 0 of column 0 stands at slot `idx` of a clause at address 0, in all live lanes of its warp: the fetched group of
`withFetchWord`, changed by `h`, with its warp changed by `f`, in the machine after reset changed by `k`. -/
def stand (words : List Dword) (idx : Nat) (f : Warp → Warp := id) (h : Group → Group := id) (k : State → State := id) :
    State :=
  let s := k State.reset
  let slot := words.getD idx 0
  let g := h (fetchGroup s.nextGroup slot)
  let g := { g with warps := g.warps.map f }
  let r := { fetchRunning s.nextGroup slot with words, idx, lanes := ((g.warp 0).map Warp.live).getD 0 }
  { s.updColumn 0 (fun c => { c with parts := c.parts.set 0 { running := some r, lastSlot := 15 } }) with
    groups := s.groups ++ [g], nextGroup := s.nextGroup + 1 }

/-- Two live lanes. -/
def two (w : Warp) : Warp := { w with live := 3, started := 3 }

/-- A format V slot whose checks all pass and whose destination takes its result. -/
def ready (op : Nat) (v : VFields) (c : Cx) : Bool :=
  (vDesc op v.ty.toNat v.sub.toNat).any (fun d => c.admits op v d [] && c.fitsDest d.d v.d.toNat (c.ruleTag op v d))

/-- Format V fields: type, `D`, `A`, `B`, `C` and `SUB`. -/
def vf (ty : BitVec 3) (d a b c : BitVec 8) (sub : BitVec 5) : VFields :=
  { y := false, q := false, ty, bk := 0, d, a, b, c, cb := 0, cw := false, sel := 0, hi := false, mod := 0, sub }

theorem hyp_IntegerElementResults : ∃ c, cx (stand [0x000006080A000000] 0 two) = some c ∧ ready 0x00 (vf 0 3 4 5 0 0) c = true :=
  there (by decide +kernel)

/-- The highest register of the budget. -/
theorem hyp_IntegerElementResults_top : ∃ c, cx (stand [0] 0) = some c ∧ ready 0x0C (vf 3 63 63 63 63 0) c = true :=
  there (by decide +kernel)

/-- The group with other bytes in its launch record. -/
def withRecord (a : Nat) (bs : Bytes) (g : Group) : Group :=
  { g with record := g.record.take a ++ bs ++ g.record.drop (a + bs.length) }

theorem hyp_IntegerSums_IMADW : ∃ c, cx (stand [0] 0 two) = some c ∧ ready 0x05 (vf 1 2 4 5 6 0) c = true :=
  there (by decide +kernel)

theorem hyp_IntegerSums_IADDC : ∃ c, cx (stand [0] 0 two) = some c ∧ ready 0x06 (vf 0 2 4 5 9 0) c = true ∧ c.fits 2 2 = true :=
  there (by decide +kernel)

theorem hyp_TestResults : ∃ c, cx (stand [0] 0 two) = some c ∧ ready 0x48 (vf 0 7 4 5 0 5) c = true ∧ c.w.trapEnables = 0 :=
  there (by decide +kernel)

theorem hyp_BitsAndShifts_BFE : ∃ c, cx (stand [0] 0 two) = some c ∧ ready 0x1A (vf 0 3 4 5 0 1) c = true :=
  there (by decide +kernel)

theorem hyp_BitsAndShifts_SAR : ∃ c, cx (stand [0] 0 two) = some c ∧ ready 0x17 (vf 6 4 6 5 0 0) c = true :=
  there (by decide +kernel)

theorem hyp_RegisterMoves_SEL : ∃ c, cx (stand [0] 0 two) = some c ∧ ready 0x22 (vf 6 4 6 8 0 7) c = true :=
  there (by decide +kernel)

theorem hyp_RegisterMoves_MKAFF : ∃ c, cx (stand [0] 0 two) = some c ∧ ready 0x25 (vf 0 3 4 5 0 0) c = true ∧
    (c.w.reg 4).tag = 0 ∧ c.tagB (vf 0 3 4 5 0 0) false = 0 ∧ c.fits 3 1 = true :=
  there (by decide +kernel)

theorem hyp_RegisterMoves_MSKOP : ∃ c, cx (stand [0] 0 two) = some c ∧ ready 0x29 (vf 0 7 1 2 0 3) c = true :=
  there (by decide +kernel)

theorem hyp_RegisterMoves_MSKMOV_WORD : ∃ c, cx (stand [0] 0 two) = some c ∧ ready 0x2A (vf 0 0 4 0 0 2) c = true ∧ c.w.reg 4 = .u 0 :=
  there (by decide +kernel)

theorem hyp_FloatingPoint_FFMA : ∃ c, cx (stand [0] 0 two) = some c ∧ ready 0x43 (vf 2 3 4 5 6 0) c = true ∧ c.w.trapEnables = 0 :=
  there (by decide +kernel)

theorem hyp_FloatingPoint_CVTPK : ∃ c, cx (stand [0] 0 two) = some c ∧ ready 0x54 (vf 0 3 4 5 0 2) c = true ∧ c.w.trapEnables = 0 :=
  there (by decide +kernel)

theorem hyp_FloatingPoint_TBL :
    ∃ c, cx (stand [0] 0 two (withRecord 0x17 [4]) (fun s => s.updColumn 0 (fun k => { k with banks := k.banks.map (fun b =>
        { b with cur := { b.cur with mode := 1 } }) }))) = some c ∧
      ready 0x69 (vf 0 3 4 0 0 23) c = true ∧ c.noBanks = false ∧ (c.bank 7).cur.mode = 1 :=
  there (by decide +kernel)

/-- Format slot 0 of E4M3 elements in blocks of 32 with E8M0 scales. -/
def e4m3 : Group → Group := withRecord 0x40 [0xC3, 0, 0, 0, 0, 0, 0, 0x80]

theorem hyp_BlockConversionResults_QBLK : ∃ c, cx (stand [0] 0 two e4m3) = some c ∧
    ((blockSlot (recFS c.g.record 0) c.w.width).toOption.map Prod.snd = some 1 ∧ ready 0x56 (vf 0 2 4 0 0 0) c = true ∧
      c.w.busy [(0, 2, 2), (1, 4, 1)] [] = false ∧ c.w.badReg [(0, 2, 2), (1, 4, 1)] = none ∧ c.fits 2 2 = true ∧
      c.fits 3 2 = true ∧ c.w.trapEnables = 0) :=
  there (by decide +kernel)

theorem hyp_BlockConversionResults_DQBLK : ∃ c, cx (stand [0] 0 two e4m3) = some c ∧
    ((blockSlot (recFS c.g.record 0) c.w.width).toOption.map Prod.snd = some 1 ∧ ready 0x57 (vf 0 2 4 5 0 0) c = true ∧
      c.w.busy [(0, 2, 1), (1, 4, 1)] [] = false ∧ c.w.badReg [(0, 2, 1), (1, 4, 1)] = none ∧ c.w.trapEnables = 0) :=
  there (by decide +kernel)

theorem hyp_LaneExchange_SHFL : ∃ c, cx (stand [0] 0 two) = some c ∧ ready 0x80 (vf 6 2 4 6 0 31) c = true ∧ c.fits 2 2 = true ∧ c.fits 3 2 = true :=
  there (by decide +kernel)

theorem hyp_LaneExchange_RDLANE : ∃ c, cx (stand [0] 0 two) = some c ∧ ready 0x82 (vf 0 2 4 6 0 0) c = true ∧ c.tagB (vf 0 2 4 6 0 0) false = 0 :=
  there (by decide +kernel)

theorem hyp_LaneExchange_VOTE_any : ∃ c, cx (stand [0] 0 two) = some c ∧ ready 0x84 (vf 0 7 4 0 0 3) c = true :=
  there (by decide +kernel)

theorem hyp_LaneExchange_VOTE_first : ∃ c, cx (stand [0] 0 two) = some c ∧ ready 0x84 (vf 0 2 7 0 0 14) c = true ∧ c.fits 2 2 = true :=
  there (by decide +kernel)

theorem hyp_LaneExchange_MATCH : ∃ c, cx (stand [0] 0 two) = some c ∧ ready 0x85 (vf 6 2 4 0 0 0) c = true ∧ c.fits 2 2 = true :=
  there (by decide +kernel)

theorem hyp_CompactExpandResults_COMPACT : ∃ c, cx (stand [0] 0 two) = some c ∧ ∃ c', c.gather.toOption = some c' ∧
    (ready 0x86 (vf 6 2 4 0 6 0) c' = true ∧ c'.admits 0x86 (vf 6 2 4 0 6 0) (VDesc.mk' .pair .pair .none .reg) [(3, 6, 1)] = true ∧
      c'.w.compact 2 = false ∧ c'.w.compact 3 = false ∧ c'.uniform = false ∧ c'.masked = false) :=
  there₂ (by decide +kernel)

theorem hyp_CompactExpandResults_EXPAND : ∃ c, cx (stand [0] 0 two) = some c ∧ ∃ c', c.gather.toOption = some c' ∧
    ready 0x87 (vf 6 2 4 0 0 0) c' = true :=
  there₂ (by decide +kernel)

theorem hyp_FoldSortResults_SCAN : ∃ c, cx (stand [0] 0 two) = some c ∧ ready 0x89 (vf 0 2 4 0 0 24) c = true ∧ c.fits 2 2 = true :=
  there (by decide +kernel)

theorem hyp_FoldSortResults_REDUCE : ∃ c, cx (stand [0] 0 two) = some c ∧ ready 0x88 (vf 6 2 4 0 0 7) c = true :=
  there (by decide +kernel)

theorem hyp_FoldSortResults_SORTK : ∃ c, cx (stand [0] 0 two) = some c ∧ ready 0x8A (vf 0 2 4 5 3 6) c = true ∧ c.fits 2 2 = true ∧ c.fits 3 2 = true :=
  there (by decide +kernel)

/-! ### Control -/

/-- Format K fields: mask, condition negated, `A` and target. -/
def kf (m : BitVec 3) (neg : Bool) (a : BitVec 8) (tgt : Word) : KFields := { y := false, m, neg, a, tgt }

/-- A control slot with its mask register `m` and registers `rs` free and in the budget. -/
def kReady (c : Cx) (m : BitVec 3) (rs : List Nat) : Bool :=
  !c.w.busy (rs.map (fun r => (1, r, 1))) (if m = 0 then [] else [m.toNat]) && (c.w.badReg (rs.map (fun r => (1, r, 1)))).isNone &&
    (c.badSource (rs.map (fun r => (1, r, 1)))).isNone

/-- An entry of the mask stack of the two threads. -/
def entry (kind : Nat) (rpc : Option Dword) : StackEntry := { kind, rpc, members := 3 }

/-- The two threads with a mask stack. -/
def stacked (es : List StackEntry) (w : Warp) : Warp := { two w with stack := es }

theorem hyp_StructuredControl_IF : ∃ c, cx (stand [0x9000000000000002] 0 (stacked (List.replicate 31 (entry 1 none)))) = some c ∧
    (kReady c 7 [] = true ∧ c.w.stack.length < 32) :=
  there (by decide +kernel)

theorem hyp_StructuredControl_ELSE : ∃ c, cx (stand [0] 0 (stacked [entry 1 (some 16)])) = some c ∧
    (kReady c 0 [] = true ∧ common c.run.lanes c.w.innermost = some 0 ∧ c.w.stack[0]? = some (entry 1 (some 16)) ∧
      (c.run.pc + BitVec.ofNat 64 (8 * (c.run.words.length + 1)) = 16)) :=
  there (by decide +kernel)

theorem hyp_StructuredControl_ENDLOOP : ∃ c, cx (stand [0] 0 (stacked [entry 2 (some 64)])) = some c ∧
    (kReady c 1 [] = true ∧ common c.run.lanes c.w.innermost = some 0 ∧ c.w.stack[0]? = some (entry 2 (some 64))) :=
  there (by decide +kernel)

theorem hyp_JumpsCallsExits_BRK : ∃ c, cx (stand [0] 0 (stacked [entry 1 none, entry 2 (some 64)])) = some c ∧
    (kReady c 1 [] = true ∧ common c.run.lanes c.w.loopEntry = some 1 ∧ c.w.stack[1]? = some (entry 2 (some 64))) :=
  there (by decide +kernel)

theorem hyp_JumpsCallsExits_JMPU : ∃ c, cx (stand [0] 0 two) = some c ∧ (kReady c 0 [63] = true ∧ c.w.reg 63 = .u 0) :=
  there (by decide +kernel)

theorem hyp_JumpsCallsExits_RET_outermost : ∃ c, cx (stand [0] 0 two) = some c ∧
    (kReady c 0 [] = true ∧ ∀ l < 32, c.run.lanes.getLsbD l = true → c.w.innermostOf 3 l = none) :=
  there (by decide +kernel)

theorem hyp_JumpsCallsExits_RET : ∃ c, cx (stand [0] 0 (stacked [entry 1 none, entry 3 (some 80)])) = some c ∧
    (kReady c 0 [] = true ∧ common c.run.lanes (c.w.innermostOf 3) = some 1 ∧ c.w.stack[1]? = some (entry 3 (some 80))) :=
  there (by decide +kernel)

theorem hyp_NopAndSetbnd : ∃ c, cx (stand [0] 0 (fun w => { w with regs := w.regs.set 63 (.u (BitVec.ofNat 32 (2 ^ 5))) })) = some c ∧
    (kReady c 0 [63] = true ∧ c.w.reg 63 = .u (BitVec.ofNat 32 (2 ^ 5))) :=
  there (by decide +kernel)

theorem hyp_MaskStackOverflowTraps : ∃ c, cx (stand [0] 0 (stacked (List.replicate 32 (entry 1 none)))) = some c ∧
    (kReady c 7 [] = true ∧ kReady c 7 [4, 5] = true ∧ 32 ≤ c.w.stack.length) :=
  there (by decide +kernel)

/-! ### Memory -/

/-- A context with one 1 GiB page of lantern 0 at address 0, writable and executable, in host memory from 0. -/
def ctx0 : Ctx :=
  { id := 0, block := List.replicate 0x630 0, phase := .running, fdom := 0, save := 0, saveSize := 0, bsVault := 0, bsPool := 32768
    bmap := [], grants := [], roots := [(0, 0x0020000000000000)], nodes := [], signals := [], bins := [], lits := []
    waitRecs := [], pass := none, debugger := false, halted := false, tseq := 0, diag := none, meas := [], nmeas := 0
    names := [], storages := [], bsAreas := [.gddr 0 0x10000000, .gddr 0 0x10004000], nextStorage := 1, savedGroups := []
    savedBanks := [], savedAt := 0, resumedAt := 0, firmware := false, oldCode := none }

/-- The machine with that context, and with some words at addresses of its page. -/
def mapped (ws : List (Nat × Dword)) (s : State) : State :=
  { s with contexts := s.contexts ++ [ctx0], phase := .ready
           mem := s.mem.storeAll (ws.map (fun w => (hostKey w.1, toBytes 8 w.2.toNat)))
           tables := s.tables.set 0
            [ { level := 4, base := 0x0020000000000000, entries := [(0, 0x80E0000000001000)] }
            , { level := 3, base := 0x0020000000001000, entries := [(0, 0x80E0000000002000)] }
            , { level := 2, base := 0x0020000000002000, entries := [(0, 0x8D80000000000000)] } ] }

theorem hyp_JumpsCallsExits_CALL : ∃ c, cx (stand [0] 0 (stacked (List.replicate 31 (entry 1 none))) id (mapped [(8, 0x5A000004FC000000)])) = some c ∧
    (kReady c 0 [] = true ∧ c.w.stack.length < 32 ∧ c.callTarget 8 = .entry 64 ∧ 64 ≤ c.w.ng) :=
  there (by decide +kernel)

theorem hyp_JumpsCallsExits_CALLI : ∃ c, cx (stand [0] 0 (fun w => { two w with regs := w.regs.set 4 (.a 8 8) }) id
      (mapped [(8, 0x5A000004FC000000), (16, 0x5A00000400000000)])) = some c ∧
    (kReady c 0 [4, 5] = true ∧ c.w.rd 4 0 = 8 ∧ c.w.rd 4 1 = 16 ∧ c.w.rd 5 0 = 0 ∧ c.w.rd 5 1 = 0 ∧ c.callTarget 8 = .entry 64 ∧
      c.callTarget 16 = .entry 1 ∧ 64 ≤ c.w.ng) :=
  there (by decide +kernel)

/-- Format M fields: `D`, `A`, `B`, space, scope, ordering and offset or operation. -/
def mf (d a b : BitVec 8) (sp sco : BitVec 3) (ord : BitVec 2) (off : BitVec 19) : MFields :=
  { y := false, d, a, b, sp, sco, ord, ch := 0, bo := false, off }

/-- Two lanes whose register 8 holds 0 and 4; its other registers hold 0. -/
def spread (w : Warp) : Warp := { two w with regs := w.regs.set 8 (.a 0 4) }

/-- A scratchpad of 256 bytes. -/
def scratch (g : Group) : Group := { g with scrSize := 256 }

theorem hyp_LoadResults_LD : ∃ c, cx (stand [0] 0 spread id (mapped [(0, 0x1122334455667788)])) = some c ∧
    (c.s.stop = none ∧ c.accessReady (mopOf 0xA0 (mf 2 8 0 0 0 0 0)) = true ∧ (c.jobs (mopOf 0xA0 (mf 2 8 0 0 0 0 0)) false).length = 2 ∧
      c.once (mopOf 0xA0 (mf 2 8 0 0 0 0 0)) = false ∧
      ∀ j ∈ c.jobs (mopOf 0xA0 (mf 2 8 0 0 0 0 0)) false, (seen c (mopOf 0xA0 (mf 2 8 0 0 0 0 0)) j).isSome = true) :=
  there (by decide +kernel)

/-- LDQ of the last 16 bytes of the scratchpad. -/
theorem hyp_LoadResults_LDQ : ∃ c, cx (stand [0] 0 two scratch) = some c ∧
    (c.s.stop = none ∧ c.accessReady (mopOf 0xA3 (mf 4 12 4 1 0 0 240)) = true ∧
      ∀ j ∈ c.jobs (mopOf 0xA3 (mf 4 12 4 1 0 0 240)) true, (seen c (mopOf 0xA3 (mf 4 12 4 1 0 0 240)) j).isSome = true) :=
  there (by decide +kernel)

theorem hyp_StoreResults_ST : ∃ c, cx (stand [0] 0 spread id (mapped [])) = some c ∧
    (c.s.stop = none ∧ c.s.memWf = true ∧ c.accessReady (mopOf 0xA1 (mf 2 8 0 0 0 0 8)) = true ∧
      (∀ j ∈ c.jobs (mopOf 0xA1 (mf 2 8 0 0 0 0 8)) false, (c.siteOf (mopOf 0xA1 (mf 2 8 0 0 0 0 8)) j).isSome = true) ∧
      (storesOf c (mopOf 0xA1 (mf 2 8 0 0 0 0 8)) false).length = 2) :=
  there (by decide +kernel)

theorem hyp_StoreResults_STQ : ∃ c, cx (stand [0] 0 (fun w => { two w with regs := w.regs.set 8 (.a 0 16) }) scratch) = some c ∧
    (c.s.stop = none ∧ c.s.memWf = true ∧ c.accessReady (mopOf 0xA4 (mf 4 8 4 1 0 0 224)) = true ∧
      (∀ j ∈ c.jobs (mopOf 0xA4 (mf 4 8 4 1 0 0 224)) false, (c.siteOf (mopOf 0xA4 (mf 4 8 4 1 0 0 224)) j).isSome = true) ∧
      (storesOf c (mopOf 0xA4 (mf 4 8 4 1 0 0 224)) true).length = 2) :=
  there (by decide +kernel)

theorem hyp_AtomicsAndFences_ATOM : ∃ c, cx (stand [0] 0 spread id (mapped [])) = some c ∧
    (c.s.stop = none ∧ c.s.memWf = true ∧ c.accessReady (mopOf 0xA5 (mf 2 8 9 0 4 0 0)) = true ∧
      (c.jobs (mopOf 0xA5 (mf 2 8 9 0 4 0 0)) false).filterMap (c.siteOf (mopOf 0xA5 (mf 2 8 9 0 4 0 0))) =
        [.key (hostKey 0), .key (hostKey 4)]) :=
  there (by decide +kernel)

theorem hyp_AtomicsAndFences_FENCE : ∃ c, cx (stand [0] 0 two) = some c ∧ (c.s.stop = none ∧ c.w.logFull = false ∧ c.w.flights = [] ∧ c.w.unack = []) :=
  there (by decide +kernel)

/-- WAITV for equality of the word of scratchpad byte 252 with register 2, which both hold 0. -/
theorem hyp_AtomicsAndFences_WAITV : ∃ c, cx (stand [0xA9008300080000FC] 0 two scratch) = some c ∧
    (let m := mf 2 12 0 1 0 0 252; let j := (c.waitOp m).job;
      c.s.stop = none ∧ (c.waitOp m).fields = m ∧ c.w.busy [(1, 12, 1), (0, 2, 1)] c.maskUse = false ∧ c.w.logFull = false ∧
      c.w.badReg [(1, 12, 1), (0, 2, 1)] = none ∧ c.live ≠ 0 ∧ (c.issueFault 1 4 false [j]).isNone = true ∧
      c.g.missing 252 4 = false ∧ c.parked 1 false [j] = false ∧ c.w.owesAcquire c.live = false ∧
      c.w.meets (mopOf 0xA0 m) (laneBit j.lane) j.addr = false ∧
      c.siteOf { mopOf 0xA0 m with op := 0xA9 } j = some (.scr 252) ∧ c.s.sitePoison c.g (.scr 252) 4 = false) :=
  there (by decide +kernel)

/-- The same WAITV, at which the two threads of a warp wait. -/
def waited : WaitOp := { lane := 0, addr := 252, cmp := 0, word := 0xA9008300080000FC, len := 1 }
def waiting (s : State) : State :=
  let g := fetchGroup 0 0
  mapped [] { s with
    groups := [{ scratch g with warps := g.warps.map (fun w => { two w with wait := List.replicate 32 (.waitv waited) }) }] }

theorem hyp_AtomicsAndFences_WAITV_WAKE : let s := waiting State.reset; ∃ g, s.groups.head? = some g ∧ ∃ w, g.warps.head? = some w ∧
    (s.stop = none ∧ s.group g.uid = some g ∧ g.warp w.wid = some w ∧ w.waitOf 0 = .waitv waited ∧ w.live.getLsbD 0 = true ∧
      w.parked.getLsbD 0 = false ∧ w.flights = [] ∧ (waited.fields.sp = 1 → g.missing 252 4 = false) ∧
      (s.cxAt g w 0).any (fun x => decide (x.2 = waited ∧ x.1.live ≠ 0 ∧ x.1.parked 1 false [waited.job] = false ∧
        x.1.siteOf { mopOf 0xA0 waited.fields with op := 0xA9 } waited.job = some (.scr 252))) = true ∧
      s.sitePoison g (.scr 252) 4 = false) :=
  there₂ (by decide +kernel)

/-- A storage of the context under two names. -/
def sharedBlock (s : State) : State :=
  { mapped [] s with contexts := [{ ctx0 with names := [(5, 1), (6, 1)], storages := [{ id := 1, place := .gddr 0 0x10000000, refs := 2 }]
                                              nextStorage := 2 }] }

/-- BSFREE of the names 5 and 6 by two lanes. -/
theorem hyp_BlockStore_BSFREE :
    ∃ c, cx (stand [0] 0 (fun w => { two w with regs := w.regs.set 8 (.a 5 1) }) id sharedBlock) = some c ∧ ∃ x, c.s.ctx c.g.ctx = some x ∧
      (c.held [(1, 8, 1)] [] (some 1) = false ∧ c.w.logFull = false ∧ c.w.releaseHeld 3 = false ∧ c.w.badReg [(1, 8, 1)] = none ∧
        ([0, 1].foldl (fun b l => bsFree b l (c.w.rd 8 l)) { s := c.s, ctx := x, out := [], bad := [] }).bad = []) :=
  there₂ (by decide +kernel)

theorem hyp_BlockStore_BSSHARE : ∃ x, (sharedBlock State.reset).ctx 0 = some x ∧ ∃ k, x.block? 6 = some k ∧
    (x.block? 7 = none ∧ x.freePlaces ≠ [] ∧ k.refs = 2 ∧ (sharedBlock State.reset).mem.wf = true) :=
  there₂ (by decide +kernel)

/-- Some bytes in the scratchpad, from byte 0. -/
def scratchBytes (bs : Bytes) (g : Group) : Group := { scratch g with scr := g.scr.storeAll [(0, bs)] }

/-- TEX with an explicit level of a 4 x 4 RGBA8 texture at address 0. -/
theorem hyp_FetchResults_TEX :
    ∃ c, cx (stand [0] 0 two (scratchBytes [0, 0, 0, 0, 0, 0, 0, 0, 3, 0, 3, 0, 0, 0, 2, 1]) (mapped [(0, 0x1122334455667788)])) = some c ∧
      (let m := mf 2 8 2 1 0 0 0;
        let js := (lanesOf c.live).map (fun l => ({ lane := l, addr := 0, name := 0, data := [0, 0, 0, c.w.rd 12 l] } : Job));
        (c.fetchChecks [(1, 8, 5), (0, 2, 4)] 2 4).isNone = true ∧ (c.issueFault 1 32 false js).isNone = true ∧ m.b = 2 ∧
          (∀ j ∈ js, c.g.missing j.addr.toNat 32 = false) ∧
          (∀ j ∈ js, (texLane c.s c.g c.guarded 1 j).toOption.any (fun r => r.1.length = 4) = true) ∧
          (c.s.gatherAll c.g (js.map (fun j => match texLane c.s c.g c.guarded 1 j with | .ok (_, ps) => ps | .error _ => [])).flatten).stop = none) :=
  there (by decide +kernel)

/-- RAYQ and RAYB of a ray of which nothing lies within its bounds 1 and 0. -/
theorem hyp_FetchResults_RAYB :
    ∃ c, cx (stand [0] 0 (fun w => { two w with regs := w.regs.set 19 (.u 0x3F800000) }) id (mapped [])) = some c ∧
      (let m := mf 2 8 16 0 0 0 0;
        c.w.releaseHeld 3 = false ∧ (c.fetchChecks [(1, 8, 2), (2, 16, 12), (0, 2, 5)] 2 5).isNone = true ∧
          (c.issueFault 0 1 false (c.rayJobs m 12)).isNone = true ∧
          (∀ j ∈ c.rayJobs m 8, (rayqLane c.guarded j).toOption.any (fun r => r.1.length = 5) = true) ∧
          (∀ j ∈ c.rayJobs m 12, (raybLane c.s 0 c.guarded j).toOption.any (fun r => r.1.1 = 0 && r.1.2.isNone) = true)) :=
  there (by decide +kernel)

/-- Where no lane hits, RAYB sends nothing, and stops nothing. -/
theorem hyp_FetchResults_RAYB_sends (t : State) (h : t.stop = none) (hc : t.contexts = [ctx0]) : (t.sendUnits 0 []).stop = none := by
  have hx : t.ctx 0 = some ctx0 := by rw [State.ctx, hc]; rfl
  show (State.lightAll (4095 + 1) t 0).stop = none
  rw [State.lightAll, hx]
  show (if !ctx0.lights then t else t).stop = none
  rw [ite_self, h]

/-- ATTR of one attribute of one component for lanes without a record. -/
theorem hyp_FetchResults_ATTR :
    ∃ c, cx (stand [0] 0 two (scratchBytes [1, 0, 0, 0, 0, 0, 0, 0])) = some c ∧
      (let js := (lanesOf c.live).map (fun l => ({ lane := l, addr := 0, name := 0, data := [] } : Job));
        (c.fetchChecks [(1, 8, 1), (0, 2, 1)] 2 1).isNone = true ∧ (c.fetchChecks [(0, 2, 3)] 2 3).isNone = true ∧
          (c.issueFault 1 1 false js).isNone = true ∧
          (∀ j ∈ js, (jobLayout c.s c.g 1 j).map Layout.count = some 3 ∧ c.s.outside c.g 1 j.addr (layoutBytes c.s c.g 1 j) false = none ∧
            c.g.missing j.addr.toNat 4 = false ∧ c.g.missing j.addr.toNat (layoutBytes c.s c.g 1 j) = false ∧
            (attrLane c.s c.g c.w c.guarded 1 j).toOption.any (fun r => r.1.length = 3) = true)) :=
  there (by decide +kernel)

/-! ### The matrix unit -/

/-- Format X fields: slots `FA`, `FB`, `FC`, shape, `A`, `B`, `C`, `KC`, `ZC` and `SUB`. -/
def xf (fa fb fc : BitVec 3) (shape : BitVec 5) (a b c kc : BitVec 8) (zc : Bool) (sub : BitVec 4) : XFields :=
  { y := false, fa, fb, fc, shape, a, b, c, kc, zc, sp := false, st := false, ce := false, sub }

/-- A map of format slot 1 in the scratchpad, its values from byte 1024 in rows of 32 bytes. -/
def scratchMap : Bytes := [0, 4, 0, 0, 0, 0, 0, 0, 32, 0, 0, 0, 0, 0, 0, 0, 0, 0, 0, 0, 0x81, 1] ++ List.replicate 42 0

/-- An epilogue descriptor: 32 FP32 rows, 128 bytes apart, to the scratchpad from byte 1024. -/
def scratchDrain : Bytes := [0, 4, 0, 0, 0, 0, 0, 0, 128] ++ List.replicate 23 0 ++ [1, 0, 32] ++ List.replicate 29 0

/-- A scratchpad of 16 KiB that begins with the map and the descriptor; slot 0 is FP32, slot 1 is FP16. -/
def matrixGroup (g : Group) : Group :=
  withRecord 0x40 [0, 0, 0, 0, 0, 0, 0, 0x80, 1, 0, 0, 0, 0, 0, 0, 0x80] { g with
    scrSize := 16384, scr := g.scr.storeAll [(0, scratchMap), (64, scratchDrain)] }

theorem hyp_MatrixProductResults : ∃ c, cx (stand [0xC009000010202800] 0 two matrixGroup) = some c ∧ ∃ c', c.gather.toOption = some c' ∧
    mmaReady c' (xf 1 1 0 0 16 32 40 0 false 0) false = true :=
  there₂ (by decide +kernel)

theorem hyp_MatrixStepSums : ([.inf true] : List FVal).length = [FVal.nan].length := rfl

theorem hyp_TileCleared_beyond : ∃ c, cx (stand [0] 0 two matrixGroup) = some c ∧ (c.w.acc ≤ 1 ∧ c.w.counter 3 < 63) :=
  there (by decide +kernel)

/-- The hypotheses of the completion of ACCZ, and, of RESULT_WRITTEN, in the state that ACCZ leaves. -/
theorem hyp_TileCleared : ∃ c, cx (stand [0] 0 two matrixGroup) = some c ∧
    (tileReady c [] 0 = true ∧ slotFormatReason (c.slotWord 0) = none ∧ accFits (FSlot.ofWord (c.slotWord 0)) false = true ∧
      (let w := (c.launchFlight (some 3) [] [] (.tile 0 (Tile.zero false)) none [] []).w;
        (w.flights.map Flight.id).Nodup ∧ c.s.stop = none ∧ w.flights.all (fun q => c.s.canEnd c.g w q) = true)) :=
  there (by decide +kernel)

theorem hyp_FragmentExchange : ∃ c, cx (stand [0] 0 two matrixGroup) = some c ∧ ∃ c', c.gather.toOption = some c' ∧
    (tileReady c' [(1, 40, 8)] 0 = true ∧ (c'.w.tile 0).cause = 0 ∧ ∀ j < 8, c'.w.compact (40 + j) = false) :=
  there₂ (by decide +kernel)

theorem hyp_FragmentExchange_STAT : ∃ c, cx (stand [0] 0 two matrixGroup) = some c ∧ (tileReady c [(1, 63, 1)] 0 = true ∧ c.fits 63 0 = true) :=
  there (by decide +kernel)

theorem hyp_MatrixLoops_MLOOP : ∃ c, cx (stand [0] 0 two matrixGroup) = some c ∧
    (let f := FSlot.ofWord (recFS c.g.record 1);
      c.w.busy [(1, 12, 1), (2, 13, 1)] [] = false ∧ c.w.counter 3 < 63 ∧ 0 < c.w.acc ∧ c.w.pendingTile 0 = false ∧
      c.w.badReg [(1, 12, 1), (2, 13, 1)] = none ∧ c.s.loopsOf c.col c.part < 4 ∧
      (descReady c 12 64 64).isSome = true ∧ (descReady c 13 64 64).isSome = true ∧ c.g.scr.read 0 64 = scratchMap ∧
      mapFs scratchMap = 1 ∧ mapReason scratchMap false (f.blk ≠ 0) = none ∧ slotFormatReason (recFS c.g.record 1) = none ∧
      slotFormatReason (recFS c.g.record 0) = none ∧ loopSlotBad f 16 16 = false ∧ intType f.etype = false ∧
      accFits (FSlot.ofWord (recFS c.g.record 0)) false = true ∧ f.vq = false) :=
  there (by decide +kernel)

/-- A warp whose tile has a loop of one step. -/
def looping (w : Warp) : Warp :=
  { two w with
    counters := [0, 0, 0, 1, 0, 0, 0, 0], nextFlight := 1
    flights := [{ id := 0, counter := some 3, dests := [], flags := [], kind := .loop 0, log := none, remote := [], gens := [], pc := 0
                  slot := 0, op := 0xC2, grp := 3, issued := 0 }]
    loops := [{ tile := 0, mapA := scratchMap, mapB := scratchMap, op := 0xC2, shape := 0, fc := 0, zc := true, sp := false, st := false
                ce := false, kc := 0, steps := 0, flight := 0, gens := [], dead := false }] }

/-- A tile with a cause that a loop issued before will clear. -/
theorem hyp_MatrixLoops_clears : ∃ c, cx (stand [0] 0 (fun w => { looping w with tiles := [{ Tile.zero false with cause := 0x13 }] }) matrixGroup) = some c ∧
    ((c.w.tile 0).cause ≠ 0 ∧ c.w.clearing 0 = true ∧ c.w.pendingTile 0 = false ∧ c.w.counter 3 < 63 ∧ c.s.loopsOf c.col c.part < 4) :=
  there (by decide +kernel)

theorem hyp_MatrixLoops_LOOP_STEP : ∃ c, cx (stand [0] 0 looping matrixGroup) = some c ∧ ∃ l, c.w.loops.find? (fun l => l.tile = 0) = some l ∧
    (let fs (n : Nat) : Dword := recFS c.g.record n;
      c.s.stop = none ∧ l.dead = false ∧ c.w.oldestOn 3 l.flight = true ∧
      (match (l.operand fs (c.s.column c.g.col) false).load { s := c.s, g := c.g, sent := [] } l.steps with
        | .ok (u, as) => (match (l.operand fs (c.s.column c.g.col) true).load u l.steps with
          | .ok (v, bs) => v.s.stop.isNone && as.length = 32 && bs.length = 32
          | _ => false)
        | _ => false) = true) :=
  there₂ (by decide +kernel)

theorem hyp_MapCheckReports : ∃ c, cx (stand [0] 0 two matrixGroup) = some c ∧
    (let f := FSlot.ofWord (recFS c.g.record 1);
      let op : Operand := { m := scratchMap, f, w := 16, k := 16, sparse := false, st := false, gen := Gen.empty };
      c.held [(1, 12, 1), (3, 2, 1)] [] (some 3) = false ∧ c.w.badReg [(1, 12, 1), (3, 2, 1)] = none ∧ (c.w.reg 12).tag = 0 ∧
      c.fits 2 0 = true ∧ c.g.missing 0 64 = false ∧ c.g.scr.poisoned 0 64 = false ∧ c.g.scr.read 0 64 = scratchMap ∧
      mapReason scratchMap false (f.blk ≠ 0) = none ∧ slotFormatReason (recFS c.g.record 1) = none ∧ loopSlotBad f 16 16 = false ∧
      op.probe { s := c.s, g := c.g, sent := [] } 0 = none) :=
  there (by decide +kernel)

/-- A map register that is not aligned, and one at the scratchpad's end. -/
theorem hyp_MapCheckReports_edges : ∃ c, cx (stand [0] 0 (fun w => { two w with regs := (w.regs.set 12 (.u 32)).set 13 (.u 16384) })
      matrixGroup) = some c ∧
    ((c.w.rd 12 0).toNat % 64 ≠ 0 ∧ (c.w.rd 13 0).toNat % 64 = 0 ∧ c.g.scrSize < (c.w.rd 13 0).toNat + 64) :=
  there (by decide +kernel)

/-- ACCLD and ACCST of the scratchpad's rows from byte 1024. -/
theorem hyp_TileMoves_ACCLD : ∃ c, cx (stand [0] 0 (fun w => { two w with regs := (w.regs.set 12 (.u 1024)).set 13 (.u 128) })
      matrixGroup) = some c ∧
    (let rows : List (EAddr × Nat) := (List.range 32).map (fun m => (rowAt 1 1024 128 m, 128));
      tileSpace 0 = 1 ∧ tileReady c [(1, 12, 1), (2, 13, 1)] 0 = true ∧ c.w.notU [12, 13] = none ∧ slotFormatReason (c.slotWord 0) = none ∧
      accFits (FSlot.ofWord (c.slotWord 0)) false = true ∧ (c.w.tile 0).cause = 0 ∧ (c.rangeFault true rows).isNone = true ∧
      (c.rangeFault false rows).isNone = true ∧ rows.all (fun r => !c.g.missing r.1.ea.toNat 128) = true ∧ c.fabricFull rows = false) :=
  there (by decide +kernel)

theorem hyp_TileMoves_ACCDRAIN : ∃ c, cx (stand [0] 0 (fun w => { two w with regs := w.regs.set 12 (.u 64) }) matrixGroup) = some c ∧
    (let rows : List (EAddr × Nat) := (List.range 32).map (fun m => (epiRow scratchDrain m, 128));
      tileReady c [(1, 12, 1)] 0 = true ∧ (descReady c 12 64 64).isSome = true ∧ c.g.scr.read 64 64 = scratchDrain ∧
      epiRows scratchDrain = 32 ∧ slotFormatReason (c.slotWord 0) = none ∧ epiBad scratchDrain (FSlot.ofWord (c.slotWord 0)) false = false ∧
      (c.w.tile 0).ity = false ∧ (c.w.tile 0).cause = 0 ∧ epiEn scratchDrain = false ∧ epiBias scratchDrain = 0 ∧
      (c.rangeFault true rows).isNone = true ∧ c.fabricFull rows = false) :=
  there (by decide +kernel)

theorem hyp_TileMoves_filled : ∃ c, cx (stand [0] 0 two matrixGroup) = some c ∧
    (let d := c.launchFlight (some 3) [] [] (.fill 0 1 1024 128 false) none [] [];
      d.w.flights.all (fun q => c.s.canEnd c.g d.w q) = true ∧
      (match ({ s := c.s, g := c.g, sent := [] } : Machine.Unit).fetchAll ((List.range 32).map (fun m => (rowAt 1 1024 128 m, 128))) with
        | .ok (u, rows) => u.s.stop.isNone && rows.length = 32 && (u.s.group c.g.uid).any (fun g => g = u.g)
        | _ => false) = true) :=
  there (by decide +kernel)

/-! ### The engines -/

/-- Zeros with some numbers in them: offset, bytes, value. -/
def bytesWith (n : Nat) (fs : List (Nat × Nat × Nat)) : Bytes :=
  fs.foldl (fun b f => b.take f.1 ++ toBytes f.2.1 f.2.2 ++ b.drop (f.1 + f.2.1)) (List.replicate n 0)

/-- A scratchpad of 16 KiB that begins with a descriptor. -/
def holding (d : Bytes) (g : Group) : Group := { g with scrSize := 16384, scr := g.scr.storeAll [(0, d)] }

/-- What every descriptor of register 12 and token of register 2 meets. -/
def orderReady (c : Cx) (op align : Nat) (us : List RegUse) (lock : Bool) (d : Bytes) : Bool :=
  engineReady c op 2 ((1, 12, 1) :: us) [12] lock && (descReady c 12 align d.length).isSome && c.g.scr.read 0 d.length = d

/-- CPY of 128 bytes from scratchpad byte 1024 to byte 8192. -/
def cpyD : Bytes := bytesWith 160 [(0, 8, 1024), (8, 8, 8192), (0x20, 4, 521), (0x40, 4, 128)]
def cpyxD : Bytes := bytesWith 64 [(0, 8, 1024), (8, 8, 8192), (0x10, 4, 16), (0x14, 4, 128), (0x18, 4, 9)]
def gatD : Bytes := bytesWith 64 [(8, 4, 1024), (0xC, 4, 8192), (0x10, 4, 4), (0x14, 4, 4), (0x18, 4, 16), (0x1C, 4, 16)]
def binD : Bytes := bytesWith 32 [(8, 8, 4096), (0x10, 4, 64), (0x14, 1, 5), (0x18, 4, 4), (0x1C, 4, 8192)]
def mrgD : Bytes := bytesWith 64 [(0, 8, 1024), (0x10, 8, 4096), (0x18, 4, 4416), (0x1C, 4, 16), (0x2C, 4, 73728)]

theorem hyp_EngineOperationsIssue_CPY : ∃ c, cx (stand [0] 0 two (holding cpyD)) = some c ∧
    (orderReady c 0xD0 32 [] true cpyD = true ∧ cpyConv cpyD = false ∧ cpyReason c.g cpyD = none ∧
      (c.footFault false (cpyFoot cpyD false ++ cpyScales cpyD false)).isNone = true ∧
      (c.footFault true (cpyFoot cpyD true ++ cpyScales cpyD true)).isNone = true) :=
  there (by decide +kernel)

theorem hyp_EngineOperationsIssue_CPYX : ∃ c, cx (stand [0] 0 two (holding cpyxD)) = some c ∧
    (orderReady c 0xD1 64 [] true cpyxD = true ∧ cpyxReason c.g cpyxD = none ∧
      (c.footFault false [(cpyxSrc cpyxD, 16)]).isNone = true ∧ (c.footFault true [(cpyxDst cpyxD, 128)]).isNone = true) :=
  there (by decide +kernel)

theorem hyp_EngineOperationsIssue_PFL2 : ∃ c, cx (stand [0] 0 two) = some c ∧
    (engineReady c 0xD2 2 [(1, 12, 2)] [12, 13] false = true ∧ (c.token 12).toNat % 128 = 0 ∧ badGlobal c.s (c.token 12) = false) :=
  there (by decide +kernel)

theorem hyp_EngineOperationsIssue_GATHR : ∃ c, cx (stand [0] 0 two (holding gatD)) = some c ∧
    (orderReady c 0xD3 64 [] true gatD = true ∧ gatReason c.g gatD = none ∧
      (c.footFault false ((gatIdxAt gatD, 4 * gatN gatD) :: gatFoot gatD)).isNone = true ∧
      (c.footFault true [(gatDstAt gatD, gatN gatD * gatEsz gatD)]).isNone = true) :=
  there (by decide +kernel)

theorem hyp_EngineOperationsIssue_SCATB : ∃ c, cx (stand [0] 0 two (holding binD)) = some c ∧
    (orderReady c 0xD4 32 [(1, 14, 2)] false binD = true ∧ binReason binD = none ∧
      (c.footFault true [(binAt binD 0 0, binNreg binD * binBstr binD)]).isNone = true) :=
  there (by decide +kernel)

/-- The last region of the bin set. -/
theorem hyp_EngineOperationsIssue_BINRPL : ∃ c, cx (stand [0] 0 two (holding binD)) = some c ∧
    (let bin := (binAt binD 3 0, 64); let dsts := [(regionAt binD 3, 128), (stgAt binD, 128)];
      orderReady c 0xD5 32 [] true binD = true ∧ bin.2 = binBstr binD ∧ regionBytes binD = 128 ∧ binReason binD = none ∧ 3 < binNreg binD ∧
      dsts.all (fun x => !(x.1.range c.g x.2).meets (bin.1.range c.g bin.2)) = true ∧
      (c.footFault true (bin :: dsts)).isNone = true) :=
  there (by decide +kernel)

theorem hyp_EngineOperationsIssue_MRGO : ∃ c, cx (stand [0] 0 two (holding mrgD)) = some c ∧
    (orderReady c 0xD6 64 [] true mrgD = true ∧ mrgReason c.g mrgD (c.runsRange mrgD) = none ∧ c.runsRange mrgD = [] ∧
      (c.footFault true (mrgDsts mrgD)).isNone = true) :=
  there (by decide +kernel)

/-- A group with an open session, and its core's merge network. -/
def inSession (g : Group) : Group := { g with session := some { Session.ofDesc mrgD 0 1 with state := .opened } }
def ownsNetwork (s : State) : State := s.updColumn 0 (fun k => { k with merge := some s.nextGroup })

theorem hyp_EngineOperationsIssue_MRGP : ∃ c, cx (stand [0] 0 two inSession ownsNetwork) = some c ∧ ∃ x, c.g.session = some x ∧
    (x.live = true ∧ mrgRin x.desc = false ∧ engineReady c 0xD7 2 [(1, 12, 2)] [] true = true ∧ mrgKw x.desc = false ∧
      0 < mrgNstr x.desc ∧ (x.streams[0]?).bind Stream.bound = none ∧ c.g.reopening x = false) :=
  there₂ (by decide +kernel)

theorem hyp_EngineOperationsIssue_MRGC : ∃ c, cx (stand [0] 0 two inSession ownsNetwork) = some c ∧ ∃ x, c.g.session = some x ∧
    (x.live = true ∧ c.g.closing = none ∧ engineReady c 0xD8 2 [] [] false = true ∧ c.g.reopening x = false) :=
  there₂ (by decide +kernel)

/-- A group whose completion slot 0 is of CPY: done with cause 0x13, or in flight. -/
def withToken (done : Bool) (g : Group) : Group :=
  { g with
    ctab := g.ctab.set 0 { seq := 1, kind := 0xD0, inFlight := !done, low := 0x80130000, high := 0, doneAt := 0 }
    ops := if done then [] else
      [{ slot := 0, op := 0xD0, wid := 0, flight := 0, desc := cpyD, mode := 1, addr := 0, arg := 0, recs := [], cleared := [64], written := []
         parked := [], refused := [], got := 5, det := 0, err := 0, cause := 0, start := 0, result := none, sent := [] }] }

/-- The token of that operation, in registers 2 and 3. -/
def tokenIn (w : Warp) : Warp := { two w with regs := (w.regs.set 2 (.u 0)).set 3 (.u 0x0001D000) }

theorem hyp_TokenInstructions_done : ∃ c, cx (stand [0] 0 tokenIn (withToken true)) = some c ∧
    (c.held [(0, 2, 2)] [] none = false ∧ c.w.badReg [(0, 2, 2)] = none ∧ c.held [(0, 2, 2), (1, 12, 2)] [] none = false ∧
      c.w.badReg [(0, 2, 2), (1, 12, 2)] = none ∧ c.fits 12 0 = true ∧ c.fits 13 0 = true ∧ (c.w.reg 2).tag = 0 ∧ (c.w.reg 3).tag = 0 ∧
      c.token 2 = 0x0001D00000000000 ∧ (c.g.ctab[0]?).map (fun k => (k.seq, k.kind)) = some (1, 0xD0) ∧ c.g.opIn 0 = none ∧
      (c.g.status (c.token 2)).1.getLsbD 31 = true ∧ (c.g.status (c.token 2)).1.toNat / 65536 % 256 ≠ 0) :=
  there (by decide +kernel)

theorem hyp_TokenInstructions_inFlight : ∃ c, cx (stand [0] 0 tokenIn (withToken false)) = some c ∧
    (c.held [(0, 2, 2)] [] none = false ∧ c.w.badReg [(0, 2, 2)] = none ∧ (c.w.reg 2).tag = 0 ∧ (c.w.reg 3).tag = 0 ∧
      (c.g.status (c.token 2)).1.getLsbD 31 = false ∧ (c.g.opIn 0).any (fun o => o.op ≠ 0xD8) = true ∧ c.g.session = none) :=
  there (by decide +kernel)

/-- A stale token: all zeros, of slot 0 under sequence number 1. -/
theorem hyp_TokenInstructions_stale : ∃ c, cx (stand [0] 0 two (withToken true)) = some c ∧
    (c.held [(0, 2, 2)] [] none = false ∧ c.w.badReg [(0, 2, 2)] = none ∧ c.token 2 = 0 ∧ (c.g.ctab[0]?).map CSlot.seq = some 1) :=
  there (by decide +kernel)

theorem hyp_TokenInstructions_session : ∃ c, cx (stand [0] 0 (fun w => { two w with regs := (w.regs.set 2 (.u 0)).set 3 (.u 0x0001D600) })
      (fun g => { inSession g with ctab := g.ctab.set 0 { seq := 1, kind := 0xD6, inFlight := false, low := 0, high := 0, doneAt := 0 } })) =
      some c ∧ ∃ x, c.g.session = some x ∧
    (x.live = true ∧ x.tokens = [(0, 1)] ∧ c.token 2 = 0x0001D60000000000 ∧ (c.g.ctab[0]?).map (fun k => (k.seq, k.kind)) = some (1, 0xD6)) :=
  there₂ (by decide +kernel)

/-- The group of a slot with an operation whose status is reached. -/
theorem hyp_EngineOperationsEnd : ∃ c, cx (stand [0] 0 two (fun g => { withToken false g with
      ops := (withToken false g).ops.map (fun o => { o with result := some (0x80000000, 5) }) })) = some c ∧ ∃ o, c.g.opIn 0 = some o ∧
    (c.s.group c.g.uid = some c.g ∧ o.slot = 0 ∧ o.result = some (0x80000000, 5) ∧ o.sent = [] ∧ o.op ≠ 0xD6 ∧ o.op ≠ 0xD8 ∧
      c.g.col < c.s.columns.length ∧ (c.g.warps.map Warp.wid).Nodup ∧ ∀ w ∈ c.g.warps, (w.flights.map Flight.id).Nodup) :=
  there₂ (by decide +kernel)

theorem hyp_EngineOperationsEnd_opens : ∃ c, cx (stand [0] 0 two (fun g => { g with session := some (Session.ofDesc mrgD 0 1) })
      (fun s => s.updColumn 0 (fun k => { k with mergeWait := [s.nextGroup] }))) = some c ∧ ∃ x, c.g.session = some x ∧
    (c.s.group c.g.uid = some c.g ∧ c.s.stop = none ∧ x.state = .waiting ∧ (c.s.column c.g.col).merge = none ∧
      (c.s.column c.g.col).mergeWait.head? = some c.g.uid ∧ (c.s.column c.g.col).blocked c.g.uid x.slot x.seq = false) :=
  there₂ (by decide +kernel)

/-- A session that its MRGC closed before it opened. -/
theorem hyp_EngineOperationsEnd_closed : ∃ c, cx (stand [0] 0 two (fun g => { g with
      session := some { Session.ofDesc mrgD 0 1 with state := .merging }, closing := some { Session.ofDesc mrgD 0 1 with state := .merging } })
      (fun s => s.updColumn 0 (fun k => { k with mergeWait := [s.nextGroup] }))) = some c ∧ ∃ x, c.g.closing = some x ∧
    (c.s.group c.g.uid = some c.g ∧ c.s.stop = none ∧ x.state ≠ .waiting ∧ (c.s.column c.g.col).merge = none ∧
      (c.s.column c.g.col).mergeWait.head? = some c.g.uid ∧ (c.s.column c.g.col).blocked c.g.uid x.slot x.seq = false ∧
      c.g.col < c.s.columns.length) :=
  there₂ (by decide +kernel)

/-- A gather of four words of the vault, or of a copy, in flight. -/
def atWork (op : Nat) (d : Bytes) (g : Group) : Group :=
  { holding d g with
    ctab := g.ctab.set 0 { seq := 1, kind := op, inFlight := true, low := 0, high := 0, doneAt := 0 }
    ops := [{ slot := 0, op, wid := 0, flight := 0, desc := d, mode := 1, addr := 0, arg := 2, recs := [], cleared := [64], written := []
              parked := [], refused := [], got := 0, det := 0, err := 0, cause := 0, start := 0, result := none, sent := [] }] }

theorem hyp_EngineOperationsEnd_line : ∃ c, cx (stand [0] 0 two (atWork 0xD3 gatD) (mapped [])) = some c ∧ ∃ o, c.g.opIn 0 = some o ∧
    (let r := ({ s := c.s, g := c.g, sent := [] } : Machine.Unit).gatherElems o (lineElems o.desc 64);
      c.s.group c.g.uid = some c.g ∧ c.s.stop = none ∧ o.op = 0xD3 ∧ o.result = none ∧ 64 ∈ o.cleared ∧ 64 ∉ o.written ∧
      (c.s.column c.g.col).blocked c.g.uid 0 (c.g.seqOf 0) = false ∧ r.parked = [] ∧ r.held = false ∧ r.u.s.stop = none ∧ r.u.g.uid = c.g.uid ∧
      r.u.s.groups = c.s.groups ∧ (lineElems o.desc 64).length = 4) :=
  there₂ (by decide +kernel)

/-- Its elements refused. -/
theorem hyp_EngineOperationsEnd_refused : ∃ c, cx (stand [0] 0 two (fun g => { atWork 0xD3 gatD g with
      ops := (atWork 0xD3 gatD g).ops.map (fun o => { o with refused := [0, 1, 2, 3] }) })) = some c ∧ ∃ o, c.g.opIn 0 = some o ∧
    (c.s.group c.g.uid = some c.g ∧ c.s.stop = none ∧ o.slot = 0 ∧ o.op = 0xD3 ∧ o.result = none ∧ 64 ∈ o.cleared ∧ 64 ∉ o.written ∧
      (c.s.column c.g.col).blocked c.g.uid 0 (c.g.seqOf 0) = false ∧ lineElems o.desc 64 = [0, 1, 2, 3] ∧
      ∀ i ∈ lineElems o.desc 64, i ∈ o.refused) :=
  there₂ (by decide +kernel)

/-- A prefetch of two lines, of which no page is mapped. -/
theorem hyp_EngineOperationsEnd_prefetch : ∃ c, cx (stand [0] 0 two (atWork 0xD2 [])) = some c ∧ ∃ o, c.g.opIn 0 = some o ∧
    (c.s.group c.g.uid = some c.g ∧ c.s.stop = none ∧ o.op = 0xD2 ∧ o.result = none ∧ o.sent = [] ∧
      (c.s.column c.g.col).blocked c.g.uid 0 (c.g.seqOf 0) = false ∧ c.s.linesPark c.g (pfl2Lines o.addr o.arg) = false ∧
      ((pfl2Lines o.addr o.arg).foldl (fun (p : Prefetched) a => p.line c.g a) { s := c.s.draw.2, here := 0, gone := 0, cause := 0, lost := none }).s.stop = none ∧
      ((pfl2Lines o.addr o.arg).foldl (fun (p : Prefetched) a => p.line c.g a)
        { s := c.s.draw.2, here := 0, gone := 0, cause := 0, lost := none }).lost = none) :=
  there₂ (by decide +kernel)

theorem hyp_EngineOperationsEnd_copied : ∃ c, cx (stand [0] 0 two (atWork 0xD0 cpyD)) = some c ∧ ∃ o, c.g.opIn 0 = some o ∧
    (o.result = none ∧ 64 ∈ o.cleared ∧ 64 ∉ o.written ∧ (c.s.column c.g.col).blocked c.g.uid 0 (c.g.seqOf 0) = false ∧
      (match ({ s := c.s.draw.2, g := c.g, sent := [] } : Machine.Unit).copyWork o (fun l => l = 64) c.s.draw.1 with
        | (.ok v _, _) => v.s.stop.isNone && v.s.group c.g.uid = some c.g && v.g.uid = c.g.uid && v.g.ops = c.g.ops
        | _ => false) = true) :=
  there₂ (by decide +kernel)

theorem hyp_EngineOperationsEnd_copy : ∃ c, cx (stand [0] 0 two (atWork 0xD0 cpyD)) = some c ∧ ∃ o, c.g.opIn 0 = some o ∧
    (let u : Machine.Unit := { s := c.s.draw.2, g := c.g, sent := [] };
      c.s.group c.g.uid = some c.g ∧ c.s.stop = none ∧ o.result = none ∧ o.sent = [] ∧ (c.s.column c.g.col).blocked c.g.uid 0 (c.g.seqOf 0) = false ∧
      (match u.copyWork o (fun l => !o.written.contains l) c.s.draw.1 with
        | (.ok v _, _) => v.sent.isEmpty && v.s.stop.isNone
        | _ => false) = true) :=
  there₂ (by decide +kernel)

/-- A literal run of two bytes; a match three bytes back; one record in element 31 of a region. -/
theorem hyp_EngineData : (1 : Byte).toNat < 128 ∧ (1 : Byte).toNat + 1 ≤ [((7 : Byte), false), (8, false)].length ∧
    3 ≤ [((7 : Byte), false), (8, false), (9, false)].length ∧ regionBytes binD = 128 ∧ 31 < 2 ^ binRsh binD := by decide

/-! ### Synchronisation and system instructions -/

/-- What `sysReady` asks of a slot. -/
def sReady (c : Cx) (us : List RegUse) (masks : List Nat) (counter : Option Nat) (uniform : List Nat) : Bool :=
  !c.held us masks counter && (c.w.badReg us).isNone && (c.w.notU uniform).isNone

theorem hyp_BarrierInstructions_BAR : ∃ c, cx (stand [0] 0 two) = some c ∧ ∃ c', (c.gatherAs (.barColl 31 0)).toOption = some c' ∧
    (c.s.clock = 0 ∧ sReady c [(0, 2, 1)] [] none [] = true ∧ c'.w.quiet = true ∧ c'.fits 2 0 = true ∧ (c'.g.bar 31).exp = 0 ∧
      c'.g.wcount = 1 ∧ c'.g.ops = []) :=
  there₂ (by decide +kernel)

/-- The second of three arrivals that a barrier expects. -/
theorem hyp_BarrierInstructions_expected : ∃ c, cx (stand [0] 0 two (fun g => { g with
      bars := g.bars.set 3 { ph := 7, exp := 3, arr := 1, t0 := 0, auto := false, arrivals := [] } })) = some c ∧
    ∃ c', (c.gatherAs (.barColl 3 0)).toOption = some c' ∧ (sReady c [] [] none [] = true ∧ c'.w.quiet = true ∧ (c'.g.bar 3).exp = 3) :=
  there₂ (by decide +kernel)

theorem hyp_BarrierInstructions_BARW : ∃ c, cx (stand [0] 0 two) = some c ∧ sReady c [(1, 12, 1)] [] none [12] = true :=
  there (by decide +kernel)

/-- Node 0: records of no payload word, entry address 0. -/
def withNode (s : State) : State :=
  { s with contexts := [{ ctx0 with nodes := [{ desc := List.replicate 64 0, record := fetchRecord, args := [], wcnt := 0, lcnt := 0, litGroups := 0, cols := [] }] }]
           launches := [{ uid := 0, ctx := 0, qid := 0, cmd := 0, token := 0, lrec := 0, record := fetchRecord, args := [], total := 10, next := 9, alive := 1
                          checked := true, runtime := 0, claimableSince := none, cols := [], homes := [], waited := [] }] }

theorem hyp_RecordsAndRegrouping_SPAWN : ∃ c, cx (stand [0] 0 two id withNode) = some c ∧ ∃ nd, ((c.s.ctx c.g.ctx).bind (fun x => x.nodes[0]?)) = some nd ∧
    (nodeWords nd.desc = 0 ∧ c.w.releaseHeld 3 = false ∧ sReady c [(0, 2, 0), (1, 12, 2), (2, 14, 1)] [] (some 1) [12, 13] = true ∧
      recEntry nd.record = c.w.rd 13 0 ++ c.w.rd 12 0) :=
  there₂ (by decide +kernel)

/-- The last group of a launch. -/
theorem hyp_RecordsAndRegrouping_CLAIM : ∃ c, cx (stand [0] 0 two id withNode) = some c ∧ ∃ l, c.s.launchOf c.g.launch = some l ∧
    (sReady c [(0, 2, 2)] [] none [] = true ∧ c.fits 2 0 = true ∧ c.fits 3 0 = true ∧ c.g.lit = none ∧ l.next = 9 ∧ l.total = 10) :=
  there₂ (by decide +kernel)

theorem hyp_RecordsAndRegrouping_REGRP : ∃ c, cx (stand [0] 0 two) = some c ∧ ∃ c', c.gather.toOption = some c' ∧
    (sReady c [(1, 12, 1)] [] none [] = true ∧ c'.w.stack = [] ∧ c'.w.quiet = true ∧ c'.w.flights = [] ∧ c'.w.ng = 64 ∧ c'.g.regrp = none ∧
      (let r : Regrp := { cont := 64, key := 12, first := 48, count := 16, warps := [c'.w.wid], since := 0 };
        let t : State := ({ c' with g := { c'.g with regrp := some r } } : Cx).park c'.slot (.round 0);
        (t.group c.g.uid).any (fun g => g.roundFull r && decide (g.warps.map Warp.wid).Nodup &&
          g.warps.all (fun w => w.live ≠ 0 && 64 ≤ w.regs.length)) = true)) :=
  there₂ (by decide +kernel)

/-- A group that uses codebook banks, with an image of one entry in its scratchpad. -/
def bankGroup (g : Group) : Group := withRecord 0x17 [4] (scratchBytes [1, 0, 0, 0] g)

theorem hyp_GroupStateInstructions_CBLOAD : ∃ c, cx (stand [0] 0 two bankGroup) = some c ∧
    (let h := c.g.scr.read 0 16;
      sReady c [(1, 12, 1)] [] (some 2) [12] = true ∧ c.noBanks = false ∧ 24 ≤ c.g.scrSize ∧ c.g.missing 0 16 = false ∧ c.g.missing 0 24 = false ∧
      field h 0 2 = 1 ∧ imageReason h = none) :=
  there (by decide +kernel)

theorem hyp_GroupStateInstructions_loaded : ∃ c, cx (stand [0] 0 two bankGroup) = some c ∧
    (let d := c.launchFlight (some 2) [] [] (.cbload 7 0 (c.g.scr.read 0 24) false) none [] [];
      d.w.oldestOn 2 0 = true ∧ (d.w.flights.find? (fun x => x.id = 0)).isSome = true ∧
      c.s.genHeld c.g.col ((c.s.column c.g.col).banks.getD 7 Bank.empty).shadow.uid = false ∧ c.g.col < c.s.columns.length) :=
  there (by decide +kernel)

/-- The same of an image that is poisoned. -/
theorem hyp_GroupStateInstructions_poisoned : ∃ c, cx (stand [0] 0 two bankGroup) = some c ∧
    (let d := c.launchFlight (some 2) [] [] (.cbload 7 8 (c.g.scr.read 0 24) true) none [] [];
      d.w.oldestOn 2 0 = true ∧ (d.w.flights.find? (fun x => x.id = 0)).isSome = true ∧
      c.s.genHeld c.g.col ((c.s.column c.g.col).banks.getD 7 Bank.empty).shadow.uid = false) :=
  there (by decide +kernel)

theorem hyp_GroupStateInstructions_CBCOMMIT : ∃ c, cx (stand [0] 0 two bankGroup) = some c ∧
    (sReady c [] [] none [] = true ∧ c.noBanks = false ∧ c.w.flights = [] ∧ c.s.genHeld c.col (c.bank 7).shadow.uid = false) :=
  there (by decide +kernel)

theorem hyp_GroupStateInstructions_GATOM : ∃ c, cx (stand [0] 0 two) = some c ∧
    (sReady c [(0, 2, 1), (2, 13, 1), (1, 12, 1)] [] none [] = true ∧ c.fits 2 2 = true ∧ sReady c [(1, 12, 1)] [] none [12] = true) :=
  there (by decide +kernel)

theorem hyp_GroupStateInstructions_QSIG : ∃ c, cx (stand [0] 0 two) = some c ∧
    (let va : Dword := c.w.rd 13 0 ++ c.w.rd 12 0;
      sReady c [(1, 12, 2)] [] (some 1) [12, 13] = true ∧ va.toNat % 16 = 0 ∧ badGlobal c.s va = false ∧ c.w.releaseHeld c.live = false ∧ isPeer va = false ∧
      c.signalLock va = none ∧ lanOf va = c.col / 48) :=
  there (by decide +kernel)

/-- A token of lantern 3. -/
theorem hyp_GroupStateInstructions_QSIG_lantern : ∃ c, cx (stand [0] 0 (fun w => { two w with regs := w.regs.set 13 (.u 0x00C00000) })) = some c ∧
    (let va : Dword := c.w.rd 13 0 ++ c.w.rd 12 0;
      sReady c [(1, 12, 2)] [] (some 1) [12, 13] = true ∧ va.toNat % 16 = 0 ∧ badGlobal c.s va = false ∧ c.w.releaseHeld c.live = false ∧ isPeer va = false ∧
      c.signalLock va = none ∧ lanOf va ≠ c.col / 48) :=
  there (by decide +kernel)

/-- A token whose first byte is the last of a locked destination. -/
theorem hyp_GroupStateInstructions_QSIG_lock : ∃ c, cx (stand [0] 0 (fun w => { two w with regs := w.regs.set 12 (.u 16) }) id (fun s =>
      s.updColumn 0 (fun k => { k with locks := k.locks.set 63 (some { grp := 1, ctx := 0, slot := 5, op := 0xD0, srcSpace := 1, srcLo := 0, srcHi := 0, dstSpace := 0
                                                                       dstLo := 0, dstHi := 17, more := [], srcMore := [], seq := 0, start := 0 }) }))) = some c ∧
    (let va : Dword := c.w.rd 13 0 ++ c.w.rd 12 0;
      sReady c [(1, 12, 2)] [] (some 1) [12, 13] = true ∧ va.toNat % 16 = 0 ∧ badGlobal c.s va = false ∧
      (c.signalLock va).any (fun x => x.1 = 63 && x.2.slot = 5) = true) :=
  there (by decide +kernel)

/-- A token of device 1. -/
theorem hyp_GroupStateInstructions_QSIG_peer : ∃ c, cx (stand [0] 0 (fun w => { two w with regs := w.regs.set 13 (.u 0x01040000) })) = some c ∧
    (let va : Dword := c.w.rd 13 0 ++ c.w.rd 12 0;
      sReady c [(1, 12, 2)] [] (some 1) [12, 13] = true ∧ va.toNat % 16 = 0 ∧ badGlobal c.s va = false ∧ c.w.releaseHeld c.live = false ∧
      isPeer va = true ∧ c.signalLock va = none) :=
  there (by decide +kernel)

/-- SLEEP of no cycles, and of 1000, at the last slot and at another. -/
theorem hyp_GroupStateInstructions_SLEEP : (∃ c, cx (stand [0xEC00000000000000] 0 two) = some c ∧
      (sReady c [] [] none [] = true ∧ ¬ c.slot + 1 < c.run.words.length)) ∧
    ∃ c, cx (stand [0xEC000000000003E8, 0] 0 two) = some c ∧ (sReady c [] [] none [] = true ∧ c.slot + 1 < c.run.words.length) :=
  ⟨there (by decide +kernel), there (by decide +kernel)⟩

/-- Output 3 belongs to the frame producer's context. -/
theorem hyp_GroupStateInstructions_FRAMEC : ∃ c, cx (stand [0] 0 two (withRecord 0x17 [1])
      (fun s => { s with outputs := s.outputs.map (fun o => { o with ctx := 0 }) })) = some c ∧
    (sReady c [(1, 12, 2)] [] (some 1) [12, 13] = true ∧ recFP c.g.record = true ∧ c.w.releaseHeld 3 = false ∧ 3 < c.s.outputs.length ∧
      (c.s.outputs.getD 3 Output.reset).ctx = c.g.ctx) :=
  there (by decide +kernel)

/-- The first group and its first warp. -/
def first (s : State) : Option (Group × Warp) := s.groups.head?.bind (fun g => g.warps.head?.map (fun w => (g, w)))

/-- A group and a warp as the machine holds them. -/
def holds (s : State) (x : Group × Warp) : Bool := s.group x.1.uid = some x.1 && x.1.warp x.2.wid = some x.2

theorem hyp_GroupStateInstructions_wakes : let s := stand [0] 0 (fun w => { two w with wait := List.replicate 32 (.sleep 0 1) });
    ∃ x, first s = some x ∧ (holds s x = true ∧ x.2.waitOf 1 = .sleep 0 1 ∧ x.2.live.getLsbD 1 = true ∧ x.2.parked.getLsbD 1 = false) :=
  there (by decide +kernel)

/-- A record whose handler stands at address 64. -/
def handled (g : Group) : Group := withRecord 0x88 [64] g

/-- An entry clause at address 64. -/
def handlerCode (s : State) : State := mapped [(64, 0x5A00000400000000)] s

theorem hyp_TrapsAndReturns_TRAP : ∃ c, cx (stand [0] 0 two handled handlerCode) = some c ∧ ∃ x, c.s.ctx c.g.ctx = some x ∧
    (sReady c [] [] none [] = true ∧ x.phase = .running ∧ c.w.mode = .user ∧ c.w.retired = false ∧ c.w.wid < 32 ∧ c.w.causes = [] ∧ c.s.handlerReady c.g = true) :=
  there₂ (by decide +kernel)

theorem hyp_TrapsAndReturns_BKPT : ∃ c, cx (stand [0] 0 two handled (fun s => { handlerCode s with contexts := [{ ctx0 with debugger := true }] })) = some c ∧
    ∃ x, c.s.ctx c.g.ctx = some x ∧ (sReady c [] [] none [] = true ∧ x.phase = .running ∧ c.w.mode = .user ∧ c.w.retired = false ∧ c.w.causes = [] ∧ x.debugger = true) :=
  there₂ (by decide +kernel)

/-- A warp in its handler, which entered from slot 1 of a clause that it had not finished. -/
def inHandler (w : Warp) : Warp :=
  { two w with
    mode := .handler
    hframe := some { mode := .user, curPc := 0, pcs := w.pcs, live := 3, masks := w.masks, stack := [], parked := 0, wait := w.wait, rsl := List.replicate 32 1, bundle := 5
                     ctl := 1, fair := 0, cur := some 0, trapGrp := 3, rslot := 1, rnext := false, trapRec := 0x10000 :: List.replicate 15 0, kept := []
                     clause := [0x5A10000000000000, 0x9E00000000000000, 0x9E00000000000000] }
    logs := w.logs.set 7 (some { slotWord := 0, prefixWord := none, pc := 0, slot := 0, fill := 0, single := false, lanes := [], flight := 0, pcm := 3 }) }

theorem hyp_TrapsAndReturns_RTE : ∃ c, cx (stand [0] 0 inHandler) = some c ∧ ∃ x, c.w.hframe = some x ∧
    (sReady c [] [] none [] = true ∧ c.w.mode ≠ .user ∧ x.rnext = false ∧ x.clause ≠ [] ∧
      (x.trapRec.getD 0 0).getLsbD 16 = true ∧ x.trapGrp &&& c.w.live &&& x.live ≠ 0) :=
  there₂ (by decide +kernel)

theorem hyp_TrapsAndReturns_RPLY : ∃ c, cx (stand [0] 0 inHandler) = some c ∧ ∃ e, c.w.logs.getD 7 none = some e ∧
    (c.w.logs.getD 0 none = none ∧ c.s.replayParks c.g c.w e = false ∧ ((c.finish false).group c.g.uid).any (fun g => (g.warp c.w.wid).isSome) = true) :=
  there₂ (by decide +kernel)

theorem hyp_SpecialRegisters : ∃ c, cx (stand [0] 0 two) = some c ∧
    (sReady c [(0, 2, 2)] [] none [] = true ∧ sReady c [(1, 12, 1)] [] none [12] = true ∧ sReady c [] [7] none [] = true ∧
      c.w.flagsPending = false ∧ c.fits 2 2 = true ∧ c.fits 2 0 = true ∧ c.fits 3 0 = true ∧ c.w.mode = .user ∧
      (c.w.rd 12 0).toNat < 32 ∧ (c.w.rd 12 1).toNat < 32) :=
  there (by decide +kernel)

/-- The control values at the edges of what WRSR takes. -/
theorem hyp_SpecialRegisters_edges : (511#32).toNat < 512 ∧ (6#32).toNat % 8 ≤ 6 ∧ 512 ≤ (513#32).toNat ∧ (8#32).toNat % 8 = 0 := by decide

theorem hyp_SpecialRegisters_firmware : ∃ c, cx (stand [0] 0 (fun w => { two w with mode := .firmware })) = some c ∧
    (sReady c [(1, 12, 1)] [] none [12] = true ∧ sReady c [(0, 2, 1)] [] none [] = true ∧ c.w.mode = .firmware) :=
  there (by decide +kernel)

/-! ### What comes about in a warp -/

/-- The group of `stand` while no partition issues, in a context, with the words of `ws` in its code. -/
def resting (ws : List (Nat × Dword)) (f : Warp → Warp := id) (h : Group → Group := id) : State :=
  let s := stand [0] 0 f h (mapped ws)
  s.updColumn 0 (fun c => { c with parts := c.parts.set 0 { running := none, lastSlot := 15 } })

theorem hyp_ClausesStart : let s := resting [(0, 0x5A00000800000000), (8, 0x9E00000000000000)] two;
    ∃ x, first s = some x ∧ (holds s x = true ∧ (s.roundRobin 0 0 15).map (fun y => y.2.wid) = [0] ∧ (s.column 0).stopped = false ∧
      (match s.look x.1 x.2 with | .start r l => r.words = [0x9E00000000000000] && l = 0 | _ => false) = true) :=
  there (by decide +kernel)

theorem hyp_ClausesStart_park : let s := resting [] (fun w => { two w with pcs := List.replicate 32 0x40000000 });
    ∃ x, first s = some x ∧ (holds s x = true ∧ (match s.look x.1 x.2 with | .park 0 va => va = 0x40000000 | _ => false) = true) :=
  there (by decide +kernel)

theorem hyp_ClausesStart_fault : let s := resting [] two;
    ∃ x, first s = some x ∧ (holds s x = true ∧ (match s.look x.1 x.2 with | .fault 0 _ => true | _ => false) = true) :=
  there (by decide +kernel)

/-- A flight of a warp. -/
def flight (k : FlightKind) (counter : Option Nat) (dests : List Dest) : Flight :=
  { id := 0, counter, dests, flags := [], kind := k, log := none, remote := [], gens := [], pc := 0, slot := 0, op := 0xA0, grp := 3, issued := 0 }

/-- A warp with it. -/
def flying (k : FlightKind) (counter : Option Nat) (dests : List Dest) (w : Warp) : Warp :=
  { two w with flights := [flight k counter dests], nextFlight := 1, counters := List.replicate 8 1 }

/-- A `.put` that has been issued, as its result is about to be written. -/
theorem hyp_FragmentExchange_put :
    let s := resting [] (fun w => { two w with flights := [{ flight (.quad 0 1 []) (some 3) [] with op := 0xC9 }], counters := [0, 0, 0, 1, 0, 0, 0, 0] }) matrixGroup;
    ∃ x, first s = some x ∧ (holds s x = true ∧ s.stop = none ∧ (x.2.flights.map Flight.id).Nodup ∧
      (x.2.flights.all (fun f => s.canEnd x.1 x.2 f)) = true) :=
  there (by decide +kernel)

theorem hyp_ResultsAndStores_result : let s := resting [] (flying .result (some 0) [.vec 2 3 (.u 5), .vec 3 3 (.u 6)]);
    ∃ x, first s = some x ∧ (holds s x = true ∧ (x.2.flights.find? (fun f => f.id = 0)).any (fun f => s.canEnd x.1 x.2 f) = true) :=
  there (by decide +kernel)

theorem hyp_ResultsAndStores_store : let s := resting [] (flying (.store 6) (some 1) []);
    ∃ x, first s = some x ∧ (holds s x = true ∧ (x.2.flights.find? (fun f => f.id = 0)).any (fun f => s.canEnd x.1 x.2 f) = true) :=
  there (by decide +kernel)

theorem hyp_ResultsAndStores_moved : let s := resting [] (flying (.moved 0) (some 3) []);
    ∃ x, first s = some x ∧ (holds s x = true ∧ (x.2.flights.find? (fun f => f.id = 0)).any (fun f => s.canEnd x.1 x.2 f) = true) :=
  there (by decide +kernel)

/-- A store of which lanes stand in log entry 2. -/
theorem hyp_ResultsAndStores_logged :
    let s := resting [] (fun w => { flying (.store 6) (some 1) [] w with flights := [{ flight (.store 6) (some 1) [] with log := some 2 }] });
    ∃ x, first s = some x ∧ (holds s x = true ∧ (x.2.flights.find? (fun f => f.id = 0)).any (fun f => f.log.isSome) = true) :=
  there (by decide +kernel)

theorem hyp_ResultsAndStores_signal : let s := resting [] (flying (.signal 0 1) (some 1) []);
    ∃ x, first s = some x ∧ (holds s x = true ∧ x.2.unack = [] ∧
      (match s.readToken 0 0 0 with
        | .ok k => !tokenBad k && (match (s.accessed 0 0 16).devWrite 0 0 0 (toBytes 8 ((fieldD k 0).toNat + 1)) with
          | .ok t => t.stop.isNone && (t.warp x.1.uid x.2.wid).any (fun w => w = x.2)
          | _ => false)
        | _ => false) = true) :=
  there (by decide +kernel)

theorem hyp_ResultsAndStores_fairness :
    let s := resting [] (fun w => { two w with pcs := w.pcs.set 1 64, fair := 1024, cur := some 0 });
    ∃ x, first s = some x ∧ (holds s x = true ∧ recFair x.1.record ≤ x.2.fair ∧ 2 ≤ x.2.readyGroups.length ∧ s.issuing x.1 x.2 = false) :=
  there (by decide +kernel)

/-- A cause after issue. -/
def causeOf (code : Nat) : Cause :=
  { code, reason := 0, prec := false, src := 1, pc := 0, slot := 0, sv := true, hdr := false, op := 0xA0, rslot := 0, rnext := false, lanes := 3, grp := 3
    addr := 0, det := [], issued := 0 }

theorem hyp_TrapEvents_handler : let s := resting [(64, 0x5A00000400000000)] (fun w => { two w with causes := [causeOf 0x15] }) handled;
    ∃ x, first s = some x ∧ (holds s x = true ∧ s.issuing x.1 x.2 = false ∧ x.2.causes = [causeOf 0x15] ∧ handlerCause 0x15 = true ∧ x.2.live ≠ 0 ∧ x.2.entering = none ∧
      x.2.mode = .user ∧ x.2.retired = false ∧ s.handlerReady x.1 = true ∧ ((s.ctx 0).map Ctx.phase = some .running)) :=
  there (by decide +kernel)

theorem hyp_TrapEvents_firmware : let s := resting [] (fun w => { two w with causes := [causeOf 0x13] });
    ∃ x, first s = some x ∧ (holds s x = true ∧ s.issuing x.1 x.2 = false ∧ (s.ctx 0).isSome = true ∧ x.2.causes = [causeOf 0x13] ∧
      handlerCause 0x13 = false) :=
  there (by decide +kernel)

theorem hyp_TrapEvents_entry : let s := resting [] (fun w => { two w with entering := some (causeOf 0x15) }) handled;
    ∃ x, first s = some x ∧ (holds s x = true ∧ x.2.entering = some (causeOf 0x15) ∧ x.2.drained = true) :=
  there (by decide +kernel)

/-- A context that ends with cause 0x51, none of whose clauses is being issued. -/
theorem hyp_TrapEvents_ending :
    let s := { resting [] two with contexts := [{ ctx0 with phase := .ending (0x51 :: List.replicate 15 0) [] 0 }] };
    ∃ x, s.ctx 0 = some x ∧ (x.phase = .ending (0x51 :: List.replicate 15 0) [] 0 ∧ (s.contexts.map Ctx.id).Nodup ∧ s.lasts 0 0 = false ∧
      s.contexts = [x]) :=
  there (by decide +kernel)

/-- One that lasts as a clause of it is being issued, and one that has waited for its stores as long as it may. -/
theorem hyp_TrapEvents_lasting :
    (let s := { stand [0] 0 two id (mapped []) with contexts := [{ ctx0 with phase := .ending (0x51 :: List.replicate 15 0) [] 0 }] };
      (s.ctx 0).isSome = true ∧ s.inClause 0 = true ∧ s.lasts 0 0 = true) ∧
    (let s := { resting [] two with contexts := [{ ctx0 with phase := .ending (0x51 :: List.replicate 15 0) [] 0 }], clock := 0x400000 };
      s.inClause 0 = false ∧ 0 + 2 ^ 22 ≤ s.clock.toNat) := by decide +kernel

/-- A barrier whose phase has stood open for the watchdog's period, and a warp at a collective for as long. -/
theorem hyp_WatchdogsAndRetirement_watchdogs :
    let s := { resting [] (fun w => { two w with wait := List.replicate 32 (.coll 0x86 0) })
        (fun g => { g with bars := g.bars.set 3 { ph := 0, exp := 2, arr := 1, t0 := 0, auto := true, arrivals := [0] } }) with clock := 0x1000000 };
    ∃ x, first s = some x ∧ (holds s x = true ∧ ((s.ctx 0).any Ctx.issues = true) ∧ (x.1.bar 3).exp ≠ 0 ∧
      recWatch x.1.record ≤ x.1.elapsed (fun _ => true) (x.1.bar 3).t0 s.clock.toNat ∧ x.2.waitOf 0 = .coll 0x86 0 ∧
      x.2.live.getLsbD 0 = true ∧ recWatch x.1.record ≤ x.1.parkedFor x.2 0 s.clock.toNat ∧
      (∀ v ∈ x.1.warps, v.causes = []) ∧ x.1.pauses = [] ∧ s.issuing x.1 x.2 = false) :=
  there (by decide +kernel)

/-- A thread that has waited for its warp at barrier 3 for as long. -/
theorem hyp_WatchdogsAndRetirement_waits :
    let s := { resting [] (fun w => { two w with wait := (List.replicate 32 Wait.none).set 1 (.barColl 3 0) }) with clock := 0x1000000 };
    ∃ x, first s = some x ∧ (holds s x = true ∧ (x.1.bar 3).exp = 0 ∧ x.2.live.getLsbD 1 = true ∧ x.2.waitOf 1 = .barColl 3 0 ∧ x.2.gathered 1 = false ∧
      recWatch x.1.record ≤ x.1.elapsed (fun _ => true) 0 s.clock.toNat) :=
  there (by decide +kernel)

/-- One of two warps, whose engine operation is not over. -/
theorem hyp_WatchdogsAndRetirement_one :
    let s := resting [] (fun w => { w with live := 0, flights := [flight (.engine 0) (some 3) []] })
        (fun g => { g with warps := g.warps ++ g.warps.map (fun w => { w with wid := 1 }) });
    ∃ x, first s = some x ∧ (holds s x = true ∧ x.2.live = 0 ∧ x.2.flights = [flight (.engine 0) (some 3) []] ∧ x.2.unack = [] ∧
      s.issuing x.1 x.2 = false ∧ x.2.retired = false ∧ x.1.regrp = none ∧ x.1.scr.read (4160 * x.2.wid) 4 = [0, 0, 0, 0] ∧
      x.1.warps.map (fun v => (v.wid, v.retired)) = [(0, false), (1, false)]) :=
  there (by decide +kernel)

theorem hyp_WatchdogsAndRetirement_fabric :
    let s := { resting [] (fun w => { two w with unack := [{ tag := 0, addr := 0, since := 0, flight := none }] }) with clock := 0x400000 };
    ∃ x, first s = some x ∧ (holds s x = true ∧ ((x.2.unack.filter (s.unacknowledged x.1 x.2)).find? (fun a => a.since + 2 ^ 22 ≤ s.clock.toNat)).isSome = true ∧ x.2.causes = []) :=
  there (by decide +kernel)

theorem hyp_WatchdogsAndRetirement_retires : let s := resting [] (fun w => { w with live := 0 });
    ∃ x, first s = some x ∧ (holds s x = true ∧ x.2.live = 0 ∧ x.2.flights = [] ∧ x.2.unack = [] ∧ s.issuing x.1 x.2 = false ∧ x.2.retired = false ∧
      x.1.regrp = none ∧ x.1.scr.read (4160 * x.2.wid) 4 = [0, 0, 0, 0] ∧ x.1.ops = [] ∧ x.1.session = none ∧ s.submitting x.1 = false ∧
      (∀ c ∈ s.contexts, c.pass = none) ∧ s.stop = none ∧ x.1.col < s.columns.length ∧ (s.launchOf x.1.launch).isNone = true ∧
      (∀ v ∈ x.1.warps, v.causes = [] ∧ v.wid = x.2.wid)) :=
  there (by decide +kernel)

/-! ### Steps, placement, the Lamplighter -/

theorem hyp_SlotEndMovesOn : ∃ c, cx (stand [0, 0] 0 two) = some c ∧ c.slot + 1 < c.run.words.length :=
  there (by decide +kernel)

theorem hyp_SlotEndMovesOn_last : ∃ c, cx (stand [0, 0] 1 two) = some c ∧ ¬ c.slot + 1 < c.run.words.length :=
  there (by decide +kernel)

theorem hyp_StepRunsDecodedSlot :
    let s := { stand [0x9E00000000000000] 0 two with agenda := [.issue 0 0] };
    s.agenda = .issue 0 0 :: [] ∧ ∃ c, cx { ({ s with agenda := [] } : State).tick with issuer := (0, 0) } = some c ∧
      (decodeSlot (c.run.words.getD c.slot 0)).toOption.isSome = true :=
  ⟨rfl, there (by decide +kernel)⟩

theorem hyp_EventsAndFetchesRun_event : ({ State.reset with agenda := [.event .holdover] } : State).agenda = .event .holdover :: [] ∧
    State.reset.ftimeSlow = none ∧ State.reset.ftimeRem < 12 := by decide +kernel

theorem hyp_EventsAndFetchesRun_fetch : (decodeTableWord 64 0x9E00000000000000).isSome = true ∧
    (∀ g ∈ State.reset.groups, g.uid ≠ State.reset.nextGroup) ∧ 0 < State.reset.columns.length ∧
    0 < (State.reset.column 0).parts.length ∧ (cx State.reset).isNone = true := by decide +kernel

theorem hyp_EventsAndFetchesRun_calm : calm State.reset ∧ dark { State.reset with clock := 1 } :=
  ⟨⟨fun _ h => (List.not_mem_nil h).elim, fun _ h => (List.not_mem_nil h).elim⟩, fun _ h => (List.not_mem_nil h).elim⟩

/-- A launch of record `r` with its entry checked. -/
def launchOf (r : Bytes) : Launch :=
  { uid := 7, ctx := 0, qid := 0, cmd := 0, token := 0, lrec := 0, record := r, args := [], total := 10, next := 9, alive := 1
    checked := true, runtime := 0, claimableSince := none, cols := [], homes := [], waited := [] }

/-- A state differs from another in its columns, its TLB entries, its links and the free values taken at most. -/
def sameBut (u s : State) : Bool :=
  decide ({ u with columns := s.columns, tlb := s.tlb, ports := s.ports, nextTag := s.nextTag, fresh := s.fresh } = s)

/-- Group 9, the last, of a launch of 300 threads, on the last column. -/
theorem hyp_Placement_launch : let s := { mapped [] State.reset with launches := [launchOf fetchRecord] };
    let l := launchOf fetchRecord;
    s.stop = none ∧ s.groups = [] ∧ s.litFor 191 7 = none ∧ s.pullOrder = l :: [] ∧ s.launchOf l.uid = some l ∧ s.places l.ctx = true ∧
      l.next < l.total ∧ l.checked = true ∧ l.waited = [] ∧ coLevel l.record = none ∧ recCB l.record = false ∧ recBindings l.record = [] ∧ l.homeOk l.next 191 = true ∧
      s.hasRoom 191 7 (recW l.record) l.record = true ∧
      (match ({ s with fresh := s.fresh + 1 } : State).bindBanks 191 l.ctx l.record with
        | .ok u => sameBut u s
        | _ => false) = true := by decide +kernel

/-- The same of a record that uses codebooks and preloads none. -/
theorem hyp_Placement_codebooks : let l := launchOf (withRecord 0x17 [4] (fetchGroup 0 0)).record;
    let s := { mapped [] State.reset with launches := [l] };
    recCB l.record = true ∧ s.bankGroups 191 = [] ∧ 191 < s.columns.length ∧ recPreloads l.record = [] ∧ s.litFor 191 7 = none ∧
      s.pullOrder = l :: [] ∧ l.homeOk l.next 191 = true ∧ s.hasRoom 191 7 (recW l.record) l.record = true ∧
      (match ({ s with fresh := s.fresh + 1 } : State).bindBanks 191 l.ctx l.record with
        | .ok u => sameBut u s
        | _ => false) = true := by decide +kernel

/-- A record of a node queue, and a group of it. -/
def qrec (seq : Nat) (ws : List Word) : QRec :=
  { seq, arrive := 0, helper := false, first := true, hit := false, words := ws, full := none, tile := none }
def lit : Lit := { record := fetchRecord, args := [], quad := false, litAt := 0, node := 0, key := 5, lan := 3, gid := 1, recs := [qrec 0 [], qrec 1 []] }

theorem hyp_Placement_lit : let s := { mapped [] State.reset with contexts := [{ ctx0 with lits := [lit] }] };
    s.litFor 191 7 = some (0, lit) ∧ s.canHold 191 7 lit.warps 0 lit.record = true ∧ (s.ctx 0).map Ctx.phase = some .running ∧ lit.gid ≠ 0 ∧ recCB lit.record = false ∧ s.stop = none ∧
      (s.launchOf 0).isNone = true ∧ recBindings lit.record = [] ∧ lit.quad = false ∧ lit.recs.length ≤ 1024 := by decide +kernel

/-- A group that waits for binding 0: two rows of four FP32 zeros at the scratchpad's last line. -/
def bindingGroup (xf : Nat) (g : Group) : Group :=
  withRecord 256 (bytesWith 256 [(0x10, 4, 128), (0x14, 2, 2), (0x16, 2, 4), (0x18, 4, 16), (0x1C, 4, xf)])
    { scratch (withRecord 0x47 [0x80] g) with bindings := [0], started := false, absent := [1] }

theorem hyp_Placement_bindings : let s := resting [] id (bindingGroup 5); ∃ x, first s = some x ∧ (holds s x = true ∧ 0 ∈ x.1.bindings ∧
    s.places x.1.ctx = true ∧ s.stop = none ∧ x.1.coItem = none ∧ x.1.started = false ∧ x.1.scrSize ≤ 2 ^ 20 ∧ (s.launchOf x.1.launch).isNone = true ∧
    bindXf (recBinding x.1.record 0) = 5 ∧ bindDoff (recBinding x.1.record 0) + bindBytes x.1.record (recBinding x.1.record 0) ≤ x.1.scrSize ∧
    bindBytes x.1.record (recBinding x.1.record 0) = 32) :=
  there (by decide +kernel)

theorem hyp_Placement_bindings_read : let s := resting [] id (bindingGroup 1); ∃ x, first s = some x ∧ (holds s x = true ∧
    (match Machine.Unit.runBinding { s := s.draw.2, g := x.1, sent := [] } (s.column x.1.col) x.1.record (recBinding x.1.record 0) s.draw.1 with
      | .ok u => u.s.stop.isNone && u.s.group x.1.uid = some x.1 && u.s.launches = s.launches && { u.g with scr := x.1.scr } = x.1
      | _ => false) = true) :=
  there (by decide +kernel)

/-- A node of two records a group and bins of 32 lanes, its queue's counters at address 4096. -/
def nodeD : Bytes := bytesWith 32 [(8, 8, 4096), (0x10, 4, 64), (0x14, 1, 1), (0x15, 1, 1), (0x18, 4, 0x80000000)]
def node0 : Node := { desc := nodeD, record := fetchRecord, args := [], wcnt := 2, lcnt := 0, litGroups := 0, cols := [] }

/-- A full bin of that node, and a unit that waits for its queue. -/
def binned (n : Nat) (s : State) : State :=
  { mapped [] s with contexts := [{ ctx0 with
      nodes := [node0], bins := [{ node := 0, key := 5, lan := 0, recs := (List.range n).map (fun i => qrec i []) }]
      waitRecs := [{ node := 0, key := 6, lan := 0, recs := [qrec 0 []], from' := 0, flight := none, tile := none }] }] }

/-- What lighting a bin of that node asks of its records. -/
def lightReady (s : State) (x : Ctx) (b : Bin) : Bool :=
  let took := takeUnits (nodeQuad nodeD) (32 * nodeGw nodeD) b.recs
  x.lights && x.lightable s.clock.toNat b && took.1.length == 32 && took.2.length == 1 &&
    (match s.readRecs 0 nodeD took.1 with | .ok rs => rs.length == 32 | _ => false) &&
    (match s.devWrite 0 0xFFFF (nodeBase nodeD + 8) (toBytes 8 (0 + took.1.length)) with
      | .ok t => t.stop.isNone && t.ctx 0 = some x
      | _ => false)

theorem hyp_BinsLight_lights : let s := binned 33 State.reset;
    ∃ x, s.ctx 0 = some x ∧ ∃ b, x.bins.find? (fun b => b.node = 0 && b.key = 5 && b.lan = 0) = some b ∧
      (x.nodes[0]? = some node0 ∧ b.node = 0 ∧ lightReady s x b = true) :=
  there₂ (by decide +kernel)

theorem hyp_BinsLight_fits : let s := binned 2 State.reset;
    ∃ x, s.ctx 0 = some x ∧ ∃ r, x.waitRecs.find? (fun r => r.node = 0) = some r ∧
      (x.nodes[0]? = some node0 ∧ x.lights = true ∧ node0.queued + r.recs.length ≤ nodeCap nodeD ∧
        (∀ q ∈ x.waitRecs.takeWhile (· ≠ r), q.precedes r = false) ∧
        (match s.append 0 0 r.key r.lan r.recs with
          | .ok t => t.stop.isNone && (match t.ctx 0 with
            | some u => u.id = 0 && u.bins.all (fun b => !({ u with waitRecs := u.waitRecs.erase r } : Ctx).lightable t.clock.toNat b)
            | none => false)
          | _ => false) = true) :=
  there₂ (by decide +kernel)

/-! ### Raster passes -/

/-- A pass of one tile, one view of 32 x 32 pixels, one sample, its node 0; instances at 0x1000, spilled tiles at 0x10000. -/
def passD : Bytes := bytesWith 64 [(0, 8, 0x10000), (8, 8, 0x2000), (0x10, 8, 0x1000), (0x18, 2, 1), (0x1A, 2, 1), (0x1C, 1, 1), (0x1D, 1, 0x20)
  , (0x1E, 2, 1), (0x20, 4, 0x3F800000), (0x24, 4, 0x3F000000), (0x30, 8, 0x3000)]
def viewD : Bytes := bytesWith 128 [(4, 2, 32), (6, 2, 32)]
def pass0 : Pass :=
  { addr := 0x4000, desc := passD, views := [viewD], openedAt := 0, closing := [], closed := false, tiles := [], subs := [], work := []
    submitted := 0, changed := 0, spills := 0, reloads := 0, culled := 0, lost := false, refused := false }

/-- A vertex at clip position (x, y, 0.5, 1), and a block of the cluster's three vertices. -/
def vtx (x y : Word) : List Word := [x, y, 0x3F000000, 0x3F800000]
def blockD : Bytes := bytesWith 4160 [(0, 4, 1)] |> fun b => b.take 0x40 ++ ([vtx 0xBF800000 0xBF800000, vtx 0x3F800000 0xBF800000,
  vtx 0xBF800000 0x3F800000].flatten.map wordBytes).flatten ++ b.drop 0x70

/-- Instance 0 with a cluster of one triangle, whose material key is 9. -/
def geometry : List (Nat × Dword) :=
  [(0x1060, 0x1100), (0x1070, 0x0000000100000000), (0x1110, 0x1180), (0x1118, 0x0000000400010003), (0x1120, 9), (0x1180, 0x00020100)]

/-- The machine with that pass, changed by `f`, and node 0 of units of four lanes. -/
def rastering (f : Pass → Pass) : State :=
  { mapped geometry State.reset with contexts := [{ ctx0 with
      pass := some (f pass0), nodes := [{ node0 with desc := bytesWith 32 [(8, 8, 4096), (0x10, 4, 64), (0x14, 1, 1), (0x15, 1, 1), (0x16, 1, 1)] }] }] }

theorem hyp_Rasterisation_setup : let s := rastering (fun p => { p with subs := [{ grp := 0, off := 0, block := blockD }] });
    ∃ c, s.ctx 0 = some c ∧ ∃ p, c.pass = some p ∧ (p.subs.length = 1 ∧ blockBad p.desc blockD = false ∧
      (match readGeometry (s.devFetch 0) p.desc (field blockD 4 4) (field blockD 8 4) [] with
        | .ok ((_, k), _) => k.tris = [(0, 1, 2)]
        | .error _ => false) = true) :=
  there₂ (by decide +kernel)

theorem hyp_Rasterisation_vertices :
    (setupVertex (passWnear passD) viewD (vtx 0xBF800000 0xBF800000)).isSome = true ∧
    (setupVertex (passWnear passD) viewD (vtx 0x3F800000 0xBF800000)).isSome = true ∧
    (setupVertex (passWnear passD) viewD (vtx 0xBF800000 0x3F800000)).isSome = true ∧
    FVal.cmp (f32 ([0, 0, 0, 0x3E800000].getD 3 0)) (f32 (passWnear passD)) = some (-1) ∧ (f32 0x7F800000).finite = false := by decide +kernel

/-- Tile 0, on the slice of column 0, in a state and with some samples. -/
def tile0 (st : TileState) (im : List (Nat × Word × Dword)) : STile :=
  { index := 0, state := st, handle := 0, image := im, lastWrite := 0, slice := 0, lost := false }

/-- A triangle over half of that tile, and the unit of its first quad. -/
def work0 : TriWork := { tile := 0, x := [0, 8192, 0], y := [0, 0, 8192], z := [0, 0, 0], id := 0, view := 0 }
def unit0 : WaitRec :=
  { node := 0, key := 9, lan := 0, recs := quadUnit passD (tile0 .closed [(0, 0, 0)]) 0 0 0, from' := 0, flight := none, tile := some 0 }

theorem hyp_Rasterisation_tile : let s := rastering (fun p => { p with tiles := [tile0 .raster []], work := [work0] });
    ∃ c, s.ctx 0 = some c ∧ ∃ p, c.pass = some p ∧ (p.work.map TriWork.tile = [0] ∧
      (p.tile 0).any (fun x => x.resident && (s.column x.slice).sliceUp) = true) :=
  there₂ (by decide +kernel)

theorem hyp_PassEnds_close : let s := rastering (fun p => { p with closing := [(0, 0)], tiles := [tile0 .raster []] });
    ∃ c, s.ctx 0 = some c ∧ ∃ p, c.pass = some p ∧ (p.closing ≠ [] ∧ p.subs = [] ∧ p.work = [] ∧ s.launches = [] ∧ p.closed = false) :=
  there₂ (by decide +kernel)

theorem hyp_PassEnds_end : let s := rastering (fun p => { p with closing := [(0, 0)], closed := true, tiles := [tile0 .released []] });
    ∃ c, s.ctx 0 = some c ∧ ∃ p, c.pass = some p ∧ (p.subs = [] ∧ p.work = [] ∧ s.launches = [] ∧ p.closed = true ∧
      (∀ x ∈ p.tiles, x.state = .released) ∧
      (match s.devWrite 0 0xFFFF (passStat p.desc) p.status with
        | .ok u => ((u.updCtx 0 (fun x => { x with pass := none })).cmdDone 0 0).stop.isNone
        | _ => false) = true) :=
  there₂ (by decide +kernel)

theorem hyp_PassEnds_classify : let s := rastering (fun p => { p with tiles := [tile0 .closed [(0, 0, 0)]] });
    ∃ c, s.ctx 0 = some c ∧ ∃ p, c.pass = some p ∧ ((p.tile 0).any (fun x => x.state = .closed && !x.lost && (s.column x.slice).sliceUp) = true ∧
      c.phase = .running ∧ (∀ y ∈ s.contexts, y.waitRecs = []) ∧ quadIds p.desc (tile0 .closed [(0, 0, 0)]) 0 0 = [0] ∧
      (match readGeometry (s.devFetch 0) p.desc (idInst 0) (idClus 0) [] with
        | .ok ((_, k), _) => k.mat = 9
        | .error _ => false) = true ∧
      ((s.setPass 0 (p.setTile (tile0 .classifying [(0, 0, 0)]))).sendUnits 0 [unit0]).stop = none) :=
  there₂ (by decide +kernel)

/-! ### Faults, queues and the scheduler -/

/-- No leaf of the machine's tables names a GDDR 7 frame. -/
def allHost (s : State) : Bool :=
  s.stop.isNone && s.tables.all (fun ts => ts.all (fun t => t.entries.all (fun e => !leafValid e.2 || entLoc e.2 != 0)))

theorem entry_listed (ts : List Table) (base : Dword) (i : Nat) :
    tableEntry ts base i = 0 ∨ ∃ t ∈ ts, ∃ e ∈ t.entries, e.2 = tableEntry ts base i := by
  unfold tableEntry
  cases h : ts.find? (fun t => t.base = base) with
  | none => exact .inl rfl
  | some t =>
    cases h' : t.entries.find? (fun e => e.1 = i) with
    | none => exact .inl (by simp [h'])
    | some e => exact .inr ⟨t, List.mem_of_find?_eq_some h, e, List.mem_of_find?_eq_some h', by simp [h']⟩

theorem walk_listed (ts : List Table) (off : Nat) (ls : List (Nat × Nat × Option Nat)) : ∀ (base e : Dword),
    walk ts ls base off = some e → entV e = true → ∃ t ∈ ts, ∃ x ∈ t.entries, x.2 = e := by
  induction ls with
  | nil => intro base e h; simp [walk] at h
  | cons l rest ih =>
    intro base e h hv
    have listed : ∀ x, tableEntry ts base (off / 2 ^ l.1 % 2 ^ l.2.1) = x → x = e → ∃ t ∈ ts, ∃ y ∈ t.entries, y.2 = e := by
      intro x hx he
      rcases entry_listed ts base (off / 2 ^ l.1 % 2 ^ l.2.1) with h0 | ⟨t, ht, y, hy, h1⟩
      · rw [h0] at hx; subst hx; subst he; simp [entV] at hv
      · exact ⟨t, ht, y, hy, h1.trans (hx.trans he)⟩
    simp only [walk] at h
    split at h
    · cases h
    · split at h
      · split at h
        · exact listed _ rfl (Option.some.inj h)
        · cases h
      · split at h
        · exact ih _ _ h hv
        · split at h
          · exact listed _ rfl (Option.some.inj h)
          · cases h

/-- A machine whose leaves all name host memory has every frame that it names. -/
theorem allHost_present {s : State} (h : allHost s = true) : FramesPresent s := by
  simp only [allHost, Bool.and_eq_true, Option.isNone_iff_eq_none, List.all_eq_true] at h
  refine ⟨h.1, fun ctx lan off acc k hk => ?_⟩
  simp only [State.translate] at hk
  split at hk
  · cases hk
  · rename_i e he
    split at hk
    · cases hk
    · split at hk
      · cases hk
      · split at hk
        · cases hk
        · rename_i hval _ _
          have hv : leafValid e = true := by simpa using hval
          have hV : entV e = true := by simp [leafValid] at hv; exact hv.1.1.1.1
          have : entLoc e ≠ 0 := by
            simp only [State.leaf] at he
            split at he
            · split at he
              · obtain ⟨t, ht, x, hx, rfl⟩ := walk_listed _ _ _ _ _ he hV
                have ht' : t ∈ s.tables.getD lan [] := ht
                by_cases hl : lan < s.tables.length
                · have := h.2 (s.tables.getD lan []) (by simp [List.getD_eq_getElem?_getD, hl]) t ht' x hx
                  simpa [hv] using this
                · simp [List.getD_eq_getElem?_getD, hl] at ht'
              · cases he
            · cases he
          simp only [this, if_false, Except.ok.injEq] at hk
          subst hk
          unfold absentKey hostKey
          rw [decide_eq_false (by omega), Bool.false_and]

/-- The machine at rest with an entry at the head of lantern 0's queue. -/
def fault (kind acc : Nat) (va : Dword) : FaultEntry :=
  { va, ctx := 0, kind, acc, col := 0, wslot := 0, log := 0, idx := 0, stat := 0, seq := 0, grp := 1, wid := 0, fdom := none }
def faulting (e : FaultEntry) (flags : Nat) (h : Group → Group := id) : State :=
  let s := resting [] two h
  { s with faultq := s.faultq.set 0 [e], contexts := [{ ctx0 with bmap := [(0x80000000, 65536, flags)] }], pools := s.pools.set 0 [0x20000] }

theorem hyp_FaultsAndBlocks_enters :
    let s := { faulting (fault 5 2 0) 0 with faultWait := [[fault 5 2 65536, fault 5 2 0x80000000], [], [], []] };
    s.faultq.length = 4 ∧ s.faultWait.length = 4 ∧ s.faultSeq.length = 4 ∧ lanOf (fault 5 2 65536).va = 0 ∧
      s.faultWait.getD 0 [] = [fault 5 2 65536, fault 5 2 0x80000000] ∧ (s.faultq.getD 0 []).length < Config.faultEntries ∧
      (∀ x ∈ s.faultq.getD 0 [] ++ [fault 5 2 0x80000000], x.same (fault 5 2 65536) = false) := by decide +kernel

theorem hyp_ClausesStart_frames : FramesPresent (resting [(0, 0x5A00000800000000), (8, 0x9E00000000000000)] two) :=
  allHost_present (by decide +kernel)

/-- What every clause about an entry asks: it is the next one of its queue, of a context, and no frame is absent. -/
def served (s : State) (e : FaultEntry) (covered : Bool) : Bool :=
  s.nextEntry 0 = some e && (s.ctx e.ctx).any (fun c => c.id == 0 && (s.leaf c.id 0 (offOf e.va)).any leafValid == covered) &&
    0 < s.faultq.length && ((s.group e.grp).bind (fun g => g.warp e.wid)).isSome

theorem hyp_FaultsAndBlocks_frames : FramesPresent (faulting (fault 5 2 0) 0) ∧ FramesPresent (faulting (fault 1 0 0) 0 (withToken false)) ∧
    FramesPresent (faulting (fault 5 2 0x40000000) 0) ∧ FramesPresent (faulting (fault 3 1 0x8000FFFF) 2) ∧
    FramesPresent (faulting (fault 5 2 0x80000000) 3) :=
  ⟨allHost_present (by decide +kernel), allHost_present (by decide +kernel), allHost_present (by decide +kernel),
    allHost_present (by decide +kernel), allHost_present (by decide +kernel)⟩

theorem hyp_FaultsAndBlocks_covered : served (faulting (fault 5 2 0) 0) (fault 5 2 0) true = true ∧
    served (faulting (fault 1 0 0) 0 (withToken false)) (fault 1 0 0) true = true := by decide +kernel

theorem hyp_FaultsAndBlocks_forwarded : served (faulting (fault 5 2 0x40000000) 0) (fault 5 2 0x40000000) false = true ∧
    ((faulting (fault 5 2 0x40000000) 0).ctx 0).any (fun c => (c.backing 0x40000000).isNone) = true := by decide +kernel

/-- The last byte of a range of the backing map that may not be written. -/
theorem hyp_FaultsAndBlocks_forbidden : served (faulting (fault 3 1 0x8000FFFF) 2) (fault 3 1 0x8000FFFF) false = true ∧
    ((faulting (fault 3 1 0x8000FFFF) 2).ctx 0).any (fun c => c.backing 0x8000FFFF = some 2 && !c.phase.over) = true ∧
    ((faulting (fault 3 1 0x8000FFFF) 2).group 1).any (fun g => g.ctx = 0) = true := by decide +kernel

theorem hyp_FaultsAndBlocks_demand : let s := faulting (fault 5 2 0x80000000) 3; served s (fault 5 2 0x80000000) false = true ∧
    (s.ctx 0).any (fun c => c.backing 0x80000000 = some 3 &&
      (({ s with pools := s.pools.set 0 [], mem := s.mem.clear (gddrKey 0 0x20000) 65536 } : State).install c 0x80000000
        (demandLeaf 3 0x20000)).any (fun u => u.stop.isNone)) = true ∧ s.pools.getD 0 [] = [0x20000] := by decide +kernel

/-- A block of the vault of column 191, and a free place of the pool. -/
def movable (s : State) : State :=
  { s with contexts := [{ ctx0 with bsAreas := [.vault 191 0, .gddr 3 0x4000], storages := [{ id := 1, place := .vault 191 0, refs := 1 }] }] }

theorem hyp_FaultsAndBlocks_moves : let s := movable State.reset; ∃ c, s.ctx 0 = some c ∧ ∃ b, c.storages.find? (fun x => x.id = 1) = some b ∧
    (BlockPlace.gddr 3 0x4000 ∈ c.freePlaces ∧ inVault b.place ≠ inVault (.gddr 3 0x4000) ∧ (s.column 191).vault = .normal ∧
      s.mem.wf = true ∧ placeKey b.place % 32 = 0 ∧ placeKey (.gddr 3 0x4000) % 32 = 0 ∧
      placeKey (.gddr 3 0x4000) + 16384 ≤ placeKey b.place) :=
  there₂ (by decide +kernel)

theorem hyp_FaultsAndBlocks_harvest : let s := resting [] (fun w => { two w with wait := List.replicate 32 (.harvest 0 16) });
    ∃ x, first s = some x ∧ (holds s x = true ∧ x.2.waitOf 31 = .harvest 0 16) :=
  there (by decide +kernel)

/-- Queue 0 of the context, with one command in its ring of 16. -/
def queue0 : Queue :=
  { qid := 0, ctx := 0, header := 0x800, ring := 0x1000, cap := 16, wptr := 1, rptr := 0, prio := 0, slice := 1, stat := 0, mapped := true
    pending := true, sliceLeft := 1, unmappedAt := 0, startPtr := 0, cmds := [], waited := [], headerDue := false }
def command (fs : List (Nat × Nat × Nat)) : Bytes := bytesWith 64 fs
def queued (ws : List (Nat × Bytes)) (c : Ctx) : State :=
  { mapped [] State.reset with
    switch := .joined, queues := [queue0], contexts := [c], mem := Mem.empty.storeAll (ws.map (fun w => (hostKey w.1, w.2))) }

/-- A command stands in the ring of queue 0 and may start. -/
def standsAt (s : State) (op : Nat) (b : Bytes) : Bool :=
  s.queueOf 0 = some queue0 && s.queueRuns queue0 && (match s.devRead 0 0xFFFF 0x1000 64 with | .ok x => x == b | _ => false) &&
    field b 0 1 == op && !cmdBad b && allHost s

theorem waits_at {s : State} {op : Nat} {b : Bytes} (h : standsAt s op b = true) : Waiting s queue0 op b := by
  simp only [standsAt, Bool.and_eq_true, Bool.not_eq_true', decide_eq_true_eq, beq_iff_eq] at h
  obtain ⟨⟨⟨⟨⟨h1, h2⟩, h3⟩, h4⟩, h5⟩, h6⟩ := h
  refine ⟨h1, h2, rfl, ?_, h4, h5, allHost_present h6⟩
  split at h3
  · rename_i x hx
    exact (show s.devRead queue0.ctx 0xFFFF (queue0.place queue0.startPtr) 64 = .ok b from (beq_iff_eq.mp h3) ▸ hx)
  · cases h3

/-- DRAIN; WAITTOK of a count of 0 and of 1 of the token at 0x2000, which counts 0; SIGNAL of 1; a command of code 8. -/
def drainC : Bytes := command [(0, 1, 7)]
def waittokC (n : Nat) : Bytes := command [(0, 1, 2), (8, 8, 0x2000), (0x10, 8, n)]
def signalC : Bytes := command [(0, 1, 3), (8, 8, 0x2000), (0x10, 8, 1)]

theorem hyp_QueueCommands_drain : Waiting (queued [(0x1000, drainC)] ctx0) queue0 7 drainC := waits_at (by decide +kernel)

/-- The token of a machine with that queue. -/
def tokenCounts (s : State) (n : Nat) : Bool :=
  match s.readToken 0 0xFFFF 0x2000 with
  | .ok k => !tokenBad k && field k 0 8 == n
  | _ => false

theorem hyp_QueueCommands_waittok : Waiting (queued [(0x1000, waittokC 0)] ctx0) queue0 2 (waittokC 0) ∧
    tokenCounts (queued [(0x1000, waittokC 0)] ctx0) 0 = true ∧ Waiting (queued [(0x1000, waittokC 1)] ctx0) queue0 2 (waittokC 1) ∧
    tokenCounts (queued [(0x1000, waittokC 1)] ctx0) 0 = true :=
  ⟨waits_at (by decide +kernel), by decide +kernel, waits_at (by decide +kernel), by decide +kernel⟩

theorem hyp_QueueCommands_signal : Waiting (queued [(0x1000, signalC)] ctx0) queue0 3 signalC ∧
    tokenCounts (queued [(0x1000, signalC)] ctx0) 0 = true ∧
    (match (Begun (queued [(0x1000, signalC)] ctx0) queue0 signalC).addToken 0 0xFFFF 0x2000 1 true with
      | .ok _ => true | _ => false) = true :=
  ⟨waits_at (by decide +kernel), by decide +kernel, by decide +kernel⟩

theorem hyp_QueueCommands_satisfied :
    let q := { queue0 with startPtr := 1, cmds := [{ index := 0, op := 2, data := waittokC 0, launch := none, done := false }] };
    let s := { queued [] ctx0 with queues := [q] };
    s.queueOf 0 = some q ∧ q.stopped = false ∧ (s.ctx 0).any Ctx.issues = true ∧ FramesPresent s ∧ tokenCounts s 0 = true :=
  ⟨by decide +kernel, by decide +kernel, by decide +kernel, allHost_present (by decide +kernel), by decide +kernel⟩

theorem hyp_QueueCommands_bad : let s := queued [(0x1000, command [(0, 1, 8)])] ctx0;
    s.queueOf 0 = some queue0 ∧ s.queueRuns queue0 = true ∧ queue0.cmds = [] ∧ FramesPresent s ∧
    (match s.devRead 0 0xFFFF (queue0.place queue0.startPtr) 64 with | .ok b => cmdBad b | _ => false) = true :=
  ⟨by decide +kernel, by decide +kernel, rfl, allHost_present (by decide +kernel), by decide +kernel⟩

/-- A launch record of one warp of 32 threads, and one without registers. -/
def goodRecord : Bytes := fetchRecord.take 0x20 ++ [0x1F, 0, 0, 0x82] ++ fetchRecord.drop 0x24
def badRecord : Bytes := goodRecord.take 0x0C ++ [0, 0] ++ goodRecord.drop 0x0E
def launchC : Bytes := command [(0, 1, 1), (8, 8, 0x2000)]
def launchState (r : Bytes) : State := queued [(0x1000, launchC), (0x2000, r)] ctx0

theorem hyp_QueueCommands_launch : Waiting (launchState goodRecord) queue0 1 launchC ∧ (launchState goodRecord).ctx 0 = some ctx0 ∧
    (match (Begun (launchState goodRecord) queue0 launchC).readRecord ctx0 0x2000 false with
      | .ok u r _ => u.stop.isNone && recGroups r == 1
      | _ => false) = true :=
  ⟨waits_at (by decide +kernel), by decide +kernel, by decide +kernel⟩

theorem hyp_QueueCommands_refused : Waiting (launchState badRecord) queue0 1 launchC ∧ (launchState badRecord).ctx 0 = some ctx0 ∧
    (match (Begun (launchState badRecord) queue0 launchC).readRecord ctx0 0x2000 false with
      | .bad u st _ => allHost u && st == 4 && (u.ctx 0).isSome &&
          u.queueOf 0 = (Begun (launchState badRecord) queue0 launchC).queueOf 0
      | _ => false) = true :=
  ⟨waits_at (by decide +kernel), by decide +kernel, by decide +kernel⟩

/-- NODES of a table of one node. -/
def nodesC : Bytes := command [(0, 1, 4), (8, 8, 0x3000), (0x10, 4, 1)]
def nodesState : State :=
  queued [(0x1000, nodesC), (0x2000, goodRecord), (0x3000, bytesWith 32 [(0, 8, 0x2000), (8, 8, 4096 * 4), (0x10, 4, 64), (0x14, 1, 1), (0x15, 1, 1)])] ctx0

theorem hyp_QueueCommands_nodes : Waiting nodesState queue0 4 nodesC ∧ nodesState.ctx 0 = some ctx0 ∧
    (match nodesState.devRead 0 0xFFFF 0x3000 32 with
      | .ok d => (match ((Begun nodesState queue0 nodesC).accessed 0 0x3000 32).readNodes ctx0 [d] with
        | .ok (u, ns) => ns.length == 1 && (match u.devWrite 0 0xFFFF 0x4000 (List.replicate 64 0) with
          | .ok v => allHost v
          | _ => false)
        | _ => false)
      | _ => false) = true :=
  ⟨waits_at (by decide +kernel), by decide +kernel, by decide +kernel⟩

/-- PASSOPEN of that pass, and PASSCLOSE. -/
def passopenC : Bytes := command [(0, 1, 5), (8, 8, 0x4000)]
def passcloseC : Bytes := command [(0, 1, 6)]
def quadCtx : Ctx := { ctx0 with nodes := [{ node0 with desc := bytesWith 32 [(8, 8, 4096), (0x10, 4, 64), (0x14, 1, 1), (0x15, 1, 1), (0x16, 1, 1)] }] }
def passopenState : State := queued [(0x1000, passopenC), (0x2000, viewD), (0x4000, passD)] quadCtx

theorem hyp_QueueCommands_passopen : Waiting passopenState queue0 5 passopenC ∧ passopenState.ctx 0 = some quadCtx ∧ passBad passD = false ∧
    quadCtx.nodes[passMnode passD]?.map (fun n => nodeQuad n.desc) = some true ∧
    (match passopenState.devRead 0 0xFFFF 0x4000 64 with | .ok d => d == passD | _ => false) = true ∧
    (match passopenState.devRead 0 0xFFFF (passViews passD) (128 * passNView passD) with | .ok vb => !viewBad passD (vb.take 128) | _ => false) = true :=
  ⟨waits_at (by decide +kernel), by decide +kernel, by decide +kernel, by decide +kernel, by decide +kernel, by decide +kernel⟩

theorem hyp_QueueCommands_passclose : let s := queued [(0x1000, passcloseC)] { quadCtx with pass := some pass0 };
    Waiting s queue0 6 passcloseC ∧ (s.ctx 0).any (fun x => x.pass = some pass0) = true :=
  ⟨waits_at (by decide +kernel), by decide +kernel⟩

/-- The machine at a scheduling boundary with one queue, whose WPTR stands in its header. -/
def boundary (q : Queue) (w : Nat) : State :=
  { queued [(0x800, bytesWith 64 [(0x0C, 4, w)])] ctx0 with phase := .ready, clock := 76800, queues := [q], wakes := [0x800] }

/-- What the boundary reads as WPTR. -/
def wptrIs (q : Queue) (w : Nat) : Bool :=
  match (boundary q w).devRead 0 0xFFFF (q.header + 0x0C) 4 with
  | .ok b => (fieldW b 0).toNat == w
  | _ => false

theorem hyp_SchedulingAndSaves_boundary : FramesPresent (boundary queue0 1) ∧
    (let s := boundary queue0 1;
      s.phase = .ready ∧ s.clock.toNat / 76800 ≠ s.lastBoundary.toNat / 76800 ∧ s.clock ≠ 0 ∧
      (∀ c ∈ s.contexts, c.phase = .running ∧ c.lits = []) ∧ s.launches = [] ∧ queue0.headerDue = false ∧ queue0.prio < 8 ∧
      queue0.stopped = false) ∧
    wptrIs { queue0 with mapped := false, pending := false } 1 = true ∧ wptrIs queue0 0 = true ∧ wptrIs queue0 1 = true :=
  ⟨allHost_present (by decide +kernel), by decide +kernel, by decide +kernel, by decide +kernel, by decide +kernel⟩

/-- A launch with its MAXRT exceeded by one boundary. -/
theorem hyp_SchedulingAndSaves_maxrt :
    let l := { launchOf (goodRecord.take 0x18 ++ [1, 0, 0, 0] ++ goodRecord.drop 0x1C) with runtime := 2 };
    let s := { queued [] ctx0 with launches := [l] };
    s.launchOf l.uid = some l ∧ (s.ctx l.ctx).any (fun c => !c.phase.over) = true ∧ field l.record 0x18 4 ≠ 0 ∧ field l.record 0x18 4 < l.runtime ∧ l.over = false := by
  decide +kernel

/-- A group that permits pre-emption, in a context whose save has been asked for or has begun. -/
def saving (p : CtxPhase) (n : Nat) : State :=
  let s := resting [] two (fun g => withRecord 0x17 [2] g)
  { s with contexts := [{ ctx0 with phase := p, save := 0x20000, saveSize := n }] }

theorem hyp_SchedulingAndSaves_save : ∃ c, (saving (.saveRequested true 0) 4096).ctx 0 = some c ∧
    (c.phase = .saveRequested true 0 ∧ (saving (.saveRequested true 0) 4096).mayBegin c = true) :=
  there (by decide +kernel)

/-- The shortest area of which a statement speaks. -/
theorem hyp_SchedulingAndSaves_complete : let s := saving (.saving true 0) 256; ∃ c, s.ctx 0 = some c ∧
    (c.phase = .saving true 0 ∧ c.pass = none ∧ c.waitRecs = [] ∧ s.stop = none ∧ s.mem.wf = true ∧ 256 ≤ c.saveSize ∧
      (∀ g ∈ s.groups, s.groupDrained g = true ∧ g.session = none ∧ s.group g.uid = some g ∧ ∀ w ∈ g.warps, w.causes = [])) :=
  there (by decide +kernel)

/-! ### The fabric, displays, monitors and starts -/

/-- A flit in sequence; a request for the word at address 4. -/
def flit (typ : Nat) (rs : List FlitReq) (as : List FlitAns) : Flit :=
  let f : Flit := { ftyp := typ, fseq := 0, sdev := 3, ddev := 0, slan := 0, dlan := 0, psn := 0, fdom := 0, fcrc := 0, ack := none
                    resend := none, hdr := List.replicate 20 0, payload := List.replicate 224 0, reqs := rs, answers := as, pose := none }
  { f with fcrc := flitCrc f }
def wordReq (write : Bool) (atom : Option (BitVec 19)) : FlitReq :=
  { tag := 5, addr := 4, write, len := 4, data := if write || atom.isSome then [1, 0, 0, 0] else [], atom, cas := false, cmp := 0 }

/-- The last port is up. -/
def upPort (s : State) : State := { s with ports := s.ports.set 11 { Port.reset with up := true }, phase := .ready }

/-- A request meets what its clause asks. -/
def requested (s : State) (r : FlitReq) : Bool :=
  (s.bound 0).any (fun c => match s.translate c.id 0 (bits r.addr 0 48).toNat (if r.write || r.atom.isSome then .write else .read) with
    | .ok k => !absentKey k && !s.rangeParks k r.len && !r.more && s.peerParts.isEmpty && !s.mem.poisoned k r.len
    | .error _ => false)

/-- Ports that hold nothing leave the links free. -/
theorem linksFree {s : State} (h : s.ports.all (fun p => decide (p.queued = [] ∧ p.replay.length < 128)) = true) : LinksFree s := by
  intro p
  simp only [List.all_eq_true, decide_eq_true_eq] at h
  rw [State.port, List.getD_eq_getElem?_getD]
  cases e : s.ports[p]? with
  | none => simp [Port.reset]
  | some x => exact h x (List.mem_of_getElem? e)

theorem hyp_FabricSteps_links : LinksFree (upPort (mapped [] State.reset)) ∧ LinksFree (upPort State.reset) ∧
    (wordReq true none).len ≤ 224 ∧ (wordReq true none).data.length ≤ 224 :=
  ⟨linksFree (by decide +kernel), linksFree (by decide +kernel), by decide, by decide⟩

/-- A request whose further operands follow. -/
theorem hyp_FabricSteps_parts : let r : FlitReq := { wordReq false (some 0) with more := true };
    InSequence (upPort State.reset) 11 (flit 1 [r] []) ∧ (upPort State.reset).stop = none ∧ r.more = true :=
  ⟨by unfold InSequence; decide +kernel, by decide +kernel, by decide⟩

theorem hyp_FabricSteps_requests : let s := upPort (mapped [] State.reset); InSequence s 11 (flit 1 [wordReq true none] []) ∧ s.stop = none ∧
    InSequence (upPort State.reset) 11 (flit 1 [wordReq true none] []) ∧ ((upPort State.reset).bound 0).isNone = true ∧
    requested s (wordReq true none) = true ∧ requested s (wordReq false none) = true ∧ requested s (wordReq false (some 0)) = true ∧
    (wordReq false (some 0)).data.length / (wordReq false (some 0)).len = 1 :=
  ⟨by unfold InSequence; decide +kernel, by decide +kernel, by unfold InSequence; decide +kernel, by decide +kernel, by decide +kernel,
    by decide +kernel, by decide +kernel, by decide +kernel⟩

theorem hyp_FabricSteps_damaged : let s := upPort State.reset; (s.port 11).up = true ∧ s.stop = none ∧
    flitOk { flit 1 [] [] with fcrc := ~~~(flit 1 [] []).fcrc } = false ∧ ({ flit 2 [] [] with fseq := 1 } : Flit).fseq ≠ (s.port 11).rxSeq := by
  decide +kernel

/-- A warp with a load of a peer that waits for answer 5, and a store that is not acknowledged. -/
def awaiting (w : Warp) : Warp :=
  { flying .result (some 0) [.vec 2 3 (.u 0)] w with
    flights := [{ flight .result (some 0) [.vec 2 3 (.u 0)] with
      remote := [{ tag := 5, kind := 0, lanes := [0], bytes := 4, sx := false, single := false, fill := 0, addr := 0, acq := false }] }]
    unack := [{ tag := 6, since := 0, flight := none, addr := 0 }] }

theorem hyp_FabricSteps_answers : let s := upPort (resting [] awaiting); let a : FlitAns := { tag := 5, cause := 0x12, data := [], poison := 0 };
    InSequence s 11 (flit 2 [] [a]) ∧ flitAnswers (flit 2 [] [a]) = [a] ∧ s.owed = [] ∧ ∃ x, first s = some x ∧ (holds s x = true ∧
      (∀ g ∈ s.groups, (∀ w ∈ g.warps, (w.asker a).isNone = true) ∧ ∀ o ∈ g.ops, ∀ u ∈ o.sent, u.tag ≠ a.tag) ∧
      (x.2.flights.find? (fun f => f.remote.any (fun r => r.tag = a.tag))).any (fun f => f.op ≠ 0xA9 &&
        (f.remote.find? (fun r => r.tag = a.tag)).any (fun r => r.kind = 0)) = true) :=
  ⟨by unfold InSequence; decide +kernel, by decide +kernel, by decide +kernel, there (by decide +kernel)⟩

/-- The first of two flits of an answer, and a mark of its payload on the sector that holds its last byte. -/
theorem hyp_FabricSteps_more : let a : FlitAns := { tag := 5, cause := 0, data := List.replicate 33 0, poison := 0, more := true };
    (flitAnswers (flit 2 [] [a]) = [a] ∧ a.more = true ∧ ansCode a 0 = 0) ∧
    (let f := { flit 2 [] [a] with psn := 6 }; f.psn.getLsbD 1 = true ∧ 32 * 1 < a.data.length ∧ ¬ 32 * 2 < a.data.length ∧ f.answers = [a]) := by
  decide +kernel

/-- Rows of tile 0 on their way to a peer. -/
theorem hyp_FabricSteps_rows : let s := upPort (resting [] (fun w => { awaiting w with
      flights := (awaiting w).flights.map (fun f => { f with kind := .moved 0 }), tiles := [Tile.zero false] }));
    ∃ x, first s = some x ∧ (holds s x = true ∧ (x.2.tile 0).cause = 0 ∧ 0 < x.2.tiles.length ∧
      (x.2.flights.find? (fun f => f.remote.any (fun r => r.tag = 5))).any (fun f => f.kind = .moved 0) = true) :=
  there (by decide +kernel)

theorem hyp_FabricSteps_sends : let s := upPort State.reset; (s.port 11).up = true ∧ (s.port 11).replay.length < 128 ∧ (s.port 11).queued = [] ∧
    (∀ p < 12, p ≠ 11 → (s.port p).up = false) ∧ ∀ p < 12, (State.reset.port p).up = false := by
  decide +kernel

/-- A port with room for one flit of two that wait, and one with room for none. -/
theorem hyp_FabricSteps_fills : let x (n : Nat) : Port := { Port.reset with up := true, replay := List.replicate n (flit 1 [] []), queued := [flit 1 [] [], flit 2 [] []] };
    (x 127).up = true ∧ (x 127).replay.length ≤ 128 ∧ 128 ≤ (x 128).replay.length := by decide +kernel

/-- A port whose partner has acknowledged nothing of flits 0 to 2. -/
def replaying (fails : Nat) : State :=
  { State.reset with ports := State.reset.ports.set 11 { Port.reset with
      up := true, fails, txSeq := 3, replay := [flit 1 [] [], { flit 1 [] [] with fseq := 1 }, { flit 1 [] [] with fseq := 2 }] }, phase := .ready }

theorem hyp_FabricSteps_acknowledges : let s := replaying 0; s.ports.length = 12 ∧ (s.port 11).up = true ∧
    (s.port 11).replay.findIdx? (fun x => x.fseq = 2) = some 2 := by decide +kernel

theorem hyp_FabricSteps_resends : let s := replaying 7; s.ports.length = 12 ∧ (s.port 11).up = true ∧
    (∀ x ∈ (s.port 11).replay, x.fseq ≠ 0 - 1) ∧ (∃ x ∈ (s.port 11).replay, x.fseq = 0) ∧ (s.port 11).fails < 8 ∧
    8 ≤ ((replaying 8).port 11).fails := by decide +kernel

theorem hyp_FabricSteps_retrains : let s := { State.reset with phase := .ready }; s.ports.length = 12 ∧ (s.port 11).up = false ∧
    s.phase = .ready ∧ (∀ p ∈ s.ports, p.replay = [] ∧ p.queued = []) := by decide +kernel

/-- A newer pose by the greatest step, and an older one by the least. -/
theorem hyp_FabricSteps_poses : let s := { upPort State.reset with poseReg := { State.reset.poseReg with got := true } };
    (s.port 11).up = true ∧ FramesPresent s ∧ s.poseReg.got = true ∧ (0x7FFFFFFF - s.poseReg.pose.seq).toNat ≤ 2 ^ 31 - 1 ∧
    2 ^ 31 ≤ (0x80000000 - s.poseReg.pose.seq).toNat ∧ (∀ o ∈ s.outputs, o.ctx = 0 ∧ o.poseDue = false) :=
  ⟨by decide +kernel, allHost_present (by decide +kernel), by decide +kernel, by decide +kernel, by decide +kernel, by decide +kernel⟩

theorem hyp_FabricSteps_time : let s := { upPort State.reset with ftime := 1000000, acquired := true };
    (s.port 11).up = true ∧ s.phase = .ready ∧ s.ftime ≤ 1000000 ∧ (999999 : Dword) < s.ftime ∧ s.holdover = false ∧
    s.lastBeacon.toNat + 1000000 ≤ s.ftime.toNat := by decide +kernel

/-- A Pelonar command of a code, with some fields. -/
def host (code : Nat) (fs : List (Nat × Nat × Nat)) : Bytes := bytesWith 256 ((0, 2, code) :: fs)

theorem hyp_FabricSteps_drained : let s := { State.reset with switch := .departing, serving := some (host 0x50 []) };
    (∀ c ∈ s.contexts, c.phase.runs = false) ∧ s.quiet = true ∧ s.serving = some (host 0x50 []) ∧ field (host 0x50 []) 0 2 = 0x50 := by
  decide +kernel

/-- A mode of 1 x 1 pixels and 4 ms, a frame descriptor of it at address 0, and one of another width. -/
def modeD : Bytes := bytesWith 128 [(0, 2, 1), (2, 2, 1), (4, 2, 2), (6, 2, 2), (0x10, 4, 1), (0x14, 1, 8), (0x15, 1, 1), (0x18, 8, 4000000)
  , (0x20, 8, 200000), (0x28, 4, 100000), (0x30, 8, 0x10000), (0x38, 8, 0x20000)]
def frameD (w : Nat) : Bytes := bytesWith 128 [(0x0C, 2, w), (0x0E, 2, 1), (0x28, 4, 0x3F800000), (0x38, 4, 0x3F800000), (0x48, 4, 0x3F800000)]
def frame (w : Nat) : DFrame := { desc := frameD w, ctx := 1 }
def output0 : Output := { Output.reset with ctx := 1, mode := modeD }

/-- Context 1, and a group that waits for its commit to that output. -/
def displaying (w : Nat) (f : Output → Output) : State :=
  let s := resting [] (flying (.frame 0) (some 1) [])
  { s with contexts := [{ ctx0 with id := 1 }], mem := Mem.empty.storeAll [(hostKey 0, frameD w)], outputs := s.outputs.set 0 (f output0) }

def commit0 : Commit := { grp := 1, wid := 0, flight := 0, ctx := 1, addr := 0 }

/-- What FRAME_LATCH asks of the oldest commit, for a descriptor that is bad or not. -/
def latchReady (s : State) (bad : Bool) : Bool :=
  (s.outputs[0]?).any (fun o => o.commits == [commit0] && commit0.ctx == o.ctx && decide (s.ftime.toNat < o.phase + o.next * o.period - o.lead) &&
    (match s.devRead 1 0xFFFF 0 128 with | .ok d => frameBad 0 d o.mode == bad | _ => false)) &&
    (((s.group 1).bind (fun g => g.warp 0)).bind (fun w => w.flights.find? (fun x => x.id = 0))).any (fun f => f.counter = some 1)

theorem hyp_DisplaySteps_latches : latchReady (displaying 1 (fun o => { o with commits := [commit0] })) false = true ∧
    latchReady (displaying 2 (fun o => { o with commits := [commit0] })) true = true := by decide +kernel

/-- The first and the last nanosecond of a frame's deadline. -/
theorem hyp_DisplaySteps_deadlines : let o := output0; o.ctx ≠ 0 ∧ o.period ≠ 0 ∧ o.lead ≤ o.phase ∧
    o.phase + o.next * o.period - o.lead ≤ (100000 : Dword).toNat ∧ (4099999 : Dword).toNat < o.phase + (o.next + 1) * o.period - o.lead ∧ o.fixed = none ∧
    ({ o with fixed := some (none, true, false, State.reset.poseReg.pose) } : Output).fixed ≠ none := by
  decide +kernel

theorem hyp_DisplaySteps_starts : let o := { output0 with fixed := some (some (frame 1), false, false, State.reset.poseReg.pose) };
    o.fixed.isSome = true ∧ o.scan = none ∧ o.phase + o.fixedK * o.period ≤ (200000 : Dword).toNat ∧
    ({ o with scan := some (some (frame 1), false, false, State.reset.poseReg.pose) } : Output).scan.isSome = true := by decide +kernel

/-- The end of a scan whose record goes to an address, and the machine in which it is written. -/
def scanEnds (at' : Nat) : State :=
  { displaying 1 (fun o => { o with mode := o.mode.take 0x30 ++ toBytes 8 at' ++ o.mode.drop 0x38
                                    scan := some (some (frame 1), false, false, State.reset.poseReg.pose) }) with ftime := 4200000 }
def scanEnded (s : State) (o : Output) : State :=
  { s.draw.2 with outputs := s.outputs.set 0 { o with scan := none, retires := [(o.ctx, o.retireAt, retireRecordOf (frame 1) false false s.ftime)] } }

/-- A record whose page is mapped is written, and one whose page is not waits. -/
theorem hyp_DisplaySteps_retires : (let s := scanEnds 0x10000;
    ∃ o, s.outputs[0]? = some o ∧ (o.scan.isSome = true ∧ o.phase + (o.scanK + 1) * o.period ≤ s.ftime.toNat ∧ o.retires = [] ∧
      (match (scanEnded s o).devWrite 1 0xFFFF o.retireAt (retireRecordOf (frame 1) false false s.ftime) with
        | .ok t => t.stop.isNone
        | _ => false) = true)) ∧
    (let s := scanEnds 0x40000000;
    ∃ o, s.outputs[0]? = some o ∧ (o.scan.isSome = true ∧ o.phase + (o.scanK + 1) * o.period ≤ s.ftime.toNat ∧ o.retires = [] ∧
      (match (scanEnded s o).devWrite 1 0xFFFF o.retireAt (retireRecordOf (frame 1) false false s.ftime) with
        | .wait t => t.stop.isNone
        | _ => false) = true)) :=
  ⟨there (by decide +kernel), there (by decide +kernel)⟩

/-- Readings on each side of the edges of the vault's states, in sixteenths of a degree. -/
theorem hyp_MonitorSteps_samples : let s := { State.reset with phase := .ready, clock := 63 }; let slot := s.clock.toNat - s.clock.toNat % 65536 + 63;
    s.columns.length = 192 ∧ s.stop = none ∧ slot ≤ s.clock.toNat ∧ s.lastSample.toNat < slot ∧ s.memTemp.length = 48 ∧
    (∀ c < 192, (List.replicate 192 (1839 : Int)).getD c 0 < 16 * 115 ∧ (s.column c).vault ≠ .lost) ∧
    (∀ d < 48, (List.replicate 48 (1679 : Int)).getD d 0 < 16 * 105) := by decide +kernel

/-- The last GDDR 7 device at its limit, in a machine with a context. -/
theorem hyp_MonitorSteps_hot : let s := { mapped [] State.reset with clock := 63 };
    s.phase = .ready ∧ FramesPresent s ∧ (∃ d < 48, 16 * 105 ≤ ((List.replicate 47 (0 : Int)) ++ [1680]).getD d 0) ∧
    (s.ctx 0).any (fun c => c.id = 0 && !c.phase.over) = true ∧ s.lasts 0 s.clock.toNat = false :=
  ⟨by decide +kernel, allHost_present (by decide +kernel), by decide +kernel, by decide +kernel, by decide +kernel⟩

theorem hyp_MonitorSteps_trips : let s := { State.reset with phase := .ready }; s.contexts = [] ∧ (s.column 191).cacheTrip = false ∧
    (s.column 191).vault ≠ .lost ∧ (s.column 191).sliceUp = true ∧ s.mem.wf = true ∧ (s.column 191).computeTrip = false ∧ FramesPresent s :=
  ⟨by decide +kernel, by decide +kernel, by decide +kernel, by decide +kernel, by decide +kernel, by decide +kernel, allHost_present (by decide +kernel)⟩

/-- The last column with both rails tripped and its window over. -/
def tripped (n : Option Nat) : State :=
  State.reset.updColumn 191 (fun c => { c with cacheTrip := true, computeTrip := true, temp := 16 * 85 - 1, window := n })

theorem hyp_MonitorSteps_recovers : ((tripped none).column 191).cacheTrip = true ∧ ((tripped none).column 191).temp < 16 * 85 ∧
    ((tripped none).column 191).window = none ∧ ((tripped none).column 191).computeTrip = true := by decide +kernel

theorem hyp_MonitorSteps_window : let s := tripped (some 0); (s.column 191).window = some 0 ∧ 0 ≤ s.clock.toNat ∧ (s.column 191).dirty = [] ∧
    s.contexts = [] ∧ s.peerReqs = [] ∧ s.launches = [] ∧ (∀ q ∈ s.queues, q.headerDue = false) := by decide +kernel

/-- The same with two lines of the last column's slice that have not been written out. -/
theorem hyp_MonitorSteps_lines : let s := (tripped (some 0)).updColumn 191 (fun c => { c with dirty := [5, 6] });
    (s.column 191).window = some 0 ∧ 0 ≤ s.clock.toNat ∧ (s.column 191).dirty = [5, 6] ∧ s.contexts = [] ∧ s.peerReqs = [] ∧ s.launches = [] ∧
    (∀ q ∈ s.queues, q.headerDue = false) := by decide +kernel

/-- A report without a failure, of one trained port. -/
def report : StartReport := { failStep := none, badBanks := [(191, 3)], ports := [11], devid := 64, verifyFails := false }

theorem hyp_StartSteps : (∃ p ∈ report.ports, p < 12) ∧ ({ report with failStep := some 5 } : StartReport).failStep = some 5 ∧
    State.reset.mem.wf = true := by decide +kernel

theorem hyp_StartSteps_reset : let s (n : Nat) : State := { State.reset with phase := .halted 3, serving := some (host 2 [(8, 1, n)]) };
    (s 1).contexts = [] ∧ (s 1).stop = none ∧ field (host 2 [(8, 1, 0)]) 0 2 = 2 ∧ strayBytes (host 2 [(8, 1, 0)]) [(8, 1)] = false ∧
    strayBytes (host 2 [(8, 1, 1)]) [(8, 1)] = false ∧ field (host 2 [(8, 1, 1)]) 8 1 = 1 ∧ (s 1).columns.length = 192 := by decide +kernel

theorem hyp_StartSteps_ends : let s := { upPort State.reset with phase := .starting 6, ftime := 10000000 };
    s.phase = .starting 6 ∧ s.resetCmd = none ∧ s.step6.toNat + 10000000 ≤ s.ftime.toNat ∧ (s.port 11).up = true ∧
    ({ s with resetCmd := some (host 2 []) } : State).resetCmd = some (host 2 []) ∧ 8 ≤ (host 2 []).length := by decide +kernel

/-! ### The host -/

/-- The last 4-byte and the last 8-byte write of the mailbox, and an 8-byte write at an offset that is no multiple of 8. -/
theorem hyp_HostWrites : let s := { State.reset with phase := .ready }; State.reset.phase = .off ∧ s.phase ≠ .off ∧ s.mbcmd.length = 256 ∧
    0x1FC + [0, 0, 0, (0 : Byte)].length ≤ 0x200 ∧ 0x1F8 + (List.replicate 8 (0 : Byte)).length ≤ 0x200 ∧ 0x1F8 % 8 = 0 ∧
    ((List.replicate 8 (0 : Byte)).length = 8 ∧ 4 % 8 ≠ 0) ∧ s.mbst.getLsbD 0 = false ∧ ({ s with mbst := 1 } : State).mbst.getLsbD 0 = true ∧
    (0x200 < 0x1F8 + (List.replicate 12 (0 : Byte)).length ∧ (List.replicate 12 (0 : Byte)).length ≠ 4 ∧ (List.replicate 12 (0 : Byte)).length ≠ 8) := by
  decide +kernel

/-- The module up and joined, with context 7 changed by `f`, the command `c` in service, and bytes in host memory. -/
def hosting (c : Bytes) (ms : List (Nat × Bytes)) (f : Ctx → Ctx := id) (k : State → State := id) : State :=
  let s := upPort (mapped [] State.reset)
  k { s with contexts := [f { ctx0 with id := 7 }], switch := .joined, serving := some c
             mem := Mem.empty.storeAll (ms.map (fun m => (hostKey m.1, m.2))) }

theorem hyp_PelonarCommands_answers : (host 1 []).length = 256 ∧ (List.replicate 248 (0 : Byte)).length ≤ 248 ∧
    (hosting (host 0x7F []) []).serving = some (host 0x7F []) ∧ field (host 0x7F []) 0 2 ∉ pelonarCodes ∧
    State.reset.phase ≠ .ready ∧ strayBytes (host 0x70 [(8, 1, 1)]) [] = true ∧ strayBytes (host 0x71 [(0x38, 1, 1)]) [(8, 4), (0x10, 40)] = true := by
  decide +kernel

theorem hyp_PelonarCommands_module : Serves (hosting (host 1 []) []) (host 1 []) 1 [] ∧ Serves (hosting (host 0x70 []) []) (host 0x70 []) 0x70 [] ∧
    Serves (hosting (host 0x71 [(8, 4, 7)]) []) (host 0x71 [(8, 4, 7)]) 0x71 [(8, 4), (0x10, 40)] ∧
    ((hosting (host 0x71 [(8, 4, 7)]) []).ctx (field (host 0x71 [(8, 4, 7)]) 8 4)).isSome = true := by
  unfold Serves; decide +kernel

/-- READDT of the last byte, of the most bytes, of none, and of one byte too many. -/
def readdt (off n : Nat) : Bytes := host 3 [(8, 4, off), (0x0C, 4, n)]
theorem hyp_PelonarCommands_readdt : (∀ c ∈ [readdt 3263 1, readdt 0 240, readdt 0 0, readdt 3263 2, readdt 0 241],
      Serves (hosting c []) c 3 [(8, 8)]) ∧
    (let c := readdt 3263 1; 1 ≤ field c 0x0C 4 ∧ field c 8 4 + field c 0x0C 4 ≤ 3264) ∧ field (readdt 0 240) 0x0C 4 ≤ 240 ∧
    field (readdt 0 0) 0x0C 4 = 0 ∧ 240 < field (readdt 0 241) 0x0C 4 ∧ 3264 < field (readdt 3263 2) 8 4 + field (readdt 3263 2) 0x0C 4 := by
  unfold Serves; decide +kernel

/-- EVLOG of the most events, from event 1, of a log that still holds events 1 and 2. -/
theorem hyp_PelonarCommands_evlog : let c := host 0x51 [(8, 4, 1), (0x0C, 4, 256)];
    let s := hosting c [] id (fun s => { s with events := [List.replicate 64 0, List.replicate 64 1], nextEvent := 3 });
    Serves s c 0x51 [(8, 16)] ∧ 1 ≤ field c 0x0C 4 ∧ field c 0x0C 4 ≤ 256 ∧ s.events.length ≤ s.nextEvent := by
  unfold Serves; decide +kernel

theorem hyp_PelonarCommands_pose : Serves (hosting (host 0x41 []) []) (host 0x41 []) 0x41 [(8, 28)] ∧
    (∃ p < 12, ((hosting (host 0x41 []) []).port p).up = true) ∧ LinksFree (hosting (host 0x41 []) []) :=
  ⟨by unfold Serves; decide +kernel, by decide +kernel, linksFree (by decide +kernel)⟩

theorem hyp_PelonarCommands_depart : let c := host 0x50 []; let s := hosting c [];
    Serves s c 0x50 [] ∧ s.switch = .joined ∧ s.begun = false ∧ FramesPresent s ∧ (s.ctx 7).map Ctx.phase = some .running ∧ s.lasts 7 s.clock.toNat = false ∧
    Serves (hosting c [] id (fun s => { s with switch := .absent })) c 0x50 [] :=
  ⟨by unfold Serves; decide +kernel, by decide +kernel, by decide +kernel, allHost_present (by decide +kernel), by decide +kernel,
    by decide +kernel, by unfold Serves; decide +kernel⟩

theorem leNat_zeros (n : Nat) : leNat (List.replicate n 0#8) = 0 := by
  induction n with
  | zero => rfl
  | succ n ih => rw [List.replicate_succ, leNat, ih]; rfl

theorem field_zeros (n off k : Nat) : field (List.replicate n 0#8) off k = 0 := by
  rw [field, List.drop_replicate, List.take_replicate, leNat_zeros]

theorem zeroField_zeros (n off k : Nat) : zeroField (List.replicate n 0#8) off k = true := by
  simp [zeroField]

theorem takePlaces_none (place : Nat → BlockPlace) (free : Nat → Bool) (fuel i : Nat) : takePlaces place free fuel i 0 = [] := by
  cases fuel <;> rfl

theorem creation_zeros (n : Nat) (s : State) : let b := List.replicate n 0#8;
    creationBad b [] = false ∧ s.blockAreas (blockGrants b) (fieldD b 0) (field b 8 8) (field b 0x14 4) (field b 0x18 8) = some [] := by
  simp [creationBad, blockGrants, fieldD, field_zeros, zeroField_zeros, State.blockAreas, takePlaces_none]

/-- CTXNEW of a creation block of zeros at host address 0x1000. -/
def ctxnewC : Bytes := host 0x10 [(8, 8, 0x1000)]
theorem hyp_PelonarCommands_ctxnew : let s := hosting ctxnewC []; let b := List.replicate 0x630 0#8;
    Serves s ctxnewC 0x10 [(8, 8)] ∧ s.switch = .joined ∧ fieldD ctxnewC 8 = 0x1000 ∧ s.hostRead 0x1000 0x630 = b ∧ field b 0x28 4 = 0 ∧
    creationBad b [] = false ∧ s.blockAreas (blockGrants b) (fieldD b 0) (field b 8 8) (field b 0x14 4) (field b 0x18 8) = some [] := by
  exact ⟨by unfold Serves; decide +kernel, by decide +kernel, by decide +kernel, by decide +kernel, field_zeros .., creation_zeros ..⟩

/-- A command for context 7, which is changed by `f`. -/
def forCtx (code : Nat) (fs : List (Nat × Nat × Nat)) (uses : List (Nat × Nat)) (p : Ctx → Bool) (f : Ctx → Ctx := id) : Prop :=
  let c := host code ((8, 4, 7) :: fs)
  let s := hosting c [] f
  Serves s c code uses ∧ ∃ x, s.ctx 7 = some x ∧ (x.id = 7 ∧ field c 8 4 = x.id ∧ p x = true)

theorem hyp_PelonarCommands_ctxend : forCtx 0x11 [] [(8, 8)] (fun c => !c.phase.over) ∧ FramesPresent (hosting (host 0x11 [(8, 4, 7)]) []) ∧
    (hosting (host 0x11 [(8, 4, 7)]) []).begun = false ∧ forCtx 0x11 [] [(8, 8)] (fun c => c.phase = .terminated) (fun c => { c with phase := .terminated }) :=
  ⟨⟨by unfold Serves; decide +kernel, there (by decide +kernel)⟩, allHost_present (by decide +kernel), by decide +kernel,
    ⟨by unfold Serves; decide +kernel, there (by decide +kernel)⟩⟩

/-- CTXEND of a context none of whose clauses is being issued, and of one of which one is. -/
theorem hyp_PelonarCommands_ctxend_lasts : let c := host 0x11 [(8, 4, 7)]; let u := stand [0] 0 two (fun g => { g with ctx := 7 });
    (hosting c []).lasts 7 0 = false ∧ (hosting c [] id (fun s => { s with groups := u.groups, columns := u.columns })).lasts 7 0 = true := by
  decide +kernel

theorem hyp_PelonarCommands_ctxsave : forCtx 0x12 [] [(8, 4)] (fun c => c.phase = .running) ∧
    Serves (hosting (host 0x12 [(8, 4, 7)]) [] (fun c => { c with phase := .saved true }) (fun s => { s with begun := true })) (host 0x12 [(8, 4, 7)])
      0x12 [(8, 4)] :=
  ⟨⟨by unfold Serves; decide +kernel, there (by decide +kernel)⟩, by unfold Serves; decide +kernel⟩

theorem hyp_PelonarCommands_ctxrun : forCtx 0x13 [] [(8, 4)] (fun c => c.phase = .saved true) (fun c => { c with phase := .saved true }) :=
  ⟨by unfold Serves; decide +kernel, there (by decide +kernel)⟩

/-- DIAGRD without a record, of the whole of one, and of one byte less. -/
theorem hyp_PelonarCommands_diagrd : forCtx 0x14 [] [(8, 16)] (fun c => c.diag.isNone) ∧
    forCtx 0x14 [(0x0C, 4, 64)] [(8, 16)] (fun c => c.diag.any (fun d => d.length = 64)) (fun c => { c with diag := some (List.replicate 64 0) }) ∧
    forCtx 0x14 [(0x0C, 4, 63)] [(8, 16)] (fun c => c.diag.any (fun d => d.length = 64)) (fun c => { c with diag := some (List.replicate 64 0) }) :=
  ⟨⟨by unfold Serves; decide +kernel, there (by decide +kernel)⟩, ⟨by unfold Serves; decide +kernel, there (by decide +kernel)⟩,
    ⟨by unfold Serves; decide +kernel, there (by decide +kernel)⟩⟩

theorem hyp_PelonarCommands_dbgatt : forCtx 0x60 [(0x0C, 1, 1)] [(8, 5)] (fun c => !c.phase.over) ∧
    forCtx 0x60 [] [(8, 5)] (fun c => !c.phase.over) :=
  ⟨⟨by unfold Serves; decide +kernel, there (by decide +kernel)⟩, ⟨by unfold Serves; decide +kernel, there (by decide +kernel)⟩⟩

/-- SAVERW of the last 16 bytes of an area of 4096. -/
theorem hyp_PelonarCommands_saverw : forCtx 0x61 [(0x0C, 1, 1), (0x10, 8, 4080), (0x18, 8, 16)] [(8, 5), (0x10, 24)]
      (fun c => c.phase = .saved true && 4080 + 16 ≤ c.saveSize) (fun c => { c with phase := .saved true, saveSize := 4096 }) ∧
    forCtx 0x61 [(0x18, 8, 16)] [(8, 5), (0x10, 24)] (fun c => c.phase = .saved true && 16 ≤ c.saveSize)
      (fun c => { c with phase := .saved true, saveSize := 16 }) :=
  ⟨⟨by unfold Serves; decide +kernel, there (by decide +kernel)⟩, ⟨by unfold Serves; decide +kernel, there (by decide +kernel)⟩⟩

/-- QNEW of the header at address 0x800 of the context. -/
def qnewC : Bytes := host 0x20 [(8, 4, 7), (0x10, 8, 0x800)]
theorem hyp_PelonarCommands_qnew : let s := hosting qnewC [(0x800, bytesWith 64 [(0, 8, 0x1000), (8, 4, 16), (0x15, 1, 1)])];
    Serves s qnewC 0x20 [(8, 4), (0x10, 8)] ∧ (s.ctx 7).map Ctx.phase = some .running ∧
    (match s.devRead 7 0xFFFF 0x800 64 with | .ok h => !headerBad 0x800 h | _ => false) = true ∧
    (match s.devWrite 7 0xFFFF 0x81C (toBytes 4 7) with | .ok t => t.stop.isNone | _ => false) = true := by
  unfold Serves; decide +kernel

theorem hyp_PelonarCommands_queues : let c (n : Nat) := host n [(8, 4, 0)]; let s (n : Nat) := hosting (c n) [] id (fun s => { s with queues := [queue0] });
    Serves (s 0x21) (c 0x21) 0x21 [(8, 4)] ∧ (s 0x21).queueOf 0 = some queue0 ∧ FramesPresent (s 0x21) ∧
    Serves (s 0x22) (c 0x22) 0x22 [(8, 4)] ∧ (s 0x22).launching queue0 = false ∧
    ({ s 0x22 with launches := [launchOf fetchRecord] } : State).launching queue0 = true :=
  ⟨by unfold Serves; decide +kernel, by decide +kernel, allHost_present (by decide +kernel), by unfold Serves; decide +kernel, by decide +kernel,
    by decide +kernel⟩

/-- MAP of a 64 KiB page of host memory behind the mapped page, and of a leaf that does not map. -/
def mapC (e : Nat) : Bytes := host 0x30 [(8, 4, 7), (0x10, 8, 0x40000000), (0x18, 8, e)]
theorem hyp_PelonarCommands_map : Serves (hosting (mapC 0) []) (mapC 0) 0x30 [(8, 4), (0x10, 16)] ∧ leafRefused 0x40000000 0 = true ∧
    Serves (hosting (mapC 0x8100000000000000) []) (mapC 0x8100000000000000) 0x30 [(8, 4), (0x10, 16)] ∧
    leafRefused 0x40000000 0x8100000000000000 = false ∧
    ((hosting (mapC 0x8100000000000000) []).ctx 7).any (fun x =>
      ((hosting (mapC 0x8100000000000000) []).install x 0x40000000 0x8100000000000000).any (fun t => t.settleAll.stop.isNone)) = true := by
  unfold Serves; decide +kernel

def unmapC (va : Nat) : Bytes := host 0x31 [(8, 4, 7), (0x10, 8, va)]
theorem hyp_PelonarCommands_unmap : Serves (hosting (unmapC 0x40000000) []) (unmapC 0x40000000) 0x31 [(8, 4), (0x10, 8)] ∧
    ((hosting (unmapC 0x40000000) []).leaf 7 0 0x40000000).isNone = true ∧ Serves (hosting (unmapC 0) []) (unmapC 0) 0x31 [(8, 4), (0x10, 8)] ∧
    ((hosting (unmapC 0) []).leaf 7 0 0).isSome = true ∧ (hosting (unmapC 0) []).tlb = [] := by
  unfold Serves; decide +kernel

/-- POOL of one page for the last lantern. -/
def poolC : Bytes := host 0x32 [(8, 1, 3), (0x0C, 4, 1), (0x10, 8, 0x100)]
theorem hyp_PelonarCommands_pool : let s := hosting poolC [(0x100, toBytes 8 0x50000)];
    Serves s poolC 0x32 [(8, 1), (0x0C, 12)] ∧ field poolC 8 1 < 4 ∧ 1 ≤ field poolC 0x0C 4 ∧ field poolC 0x0C 4 ≤ 65536 ∧
    s.poolPages 3 [] [fieldD (s.hostRead 0x100 8) 0] = some [0x50000] := by
  unfold Serves; decide +kernel

/-- FAULTRSP of a fetch that stands with STAT 2, and of a store of a matrix operation. -/
def faultrspC (action : Nat) (e : Nat) : Bytes := host 0x33 [(0x10, 1, action), (0x18, 8, e)]
def answering (kind action e : Nat) : State :=
  let s := resting [] two
  upPort { s with
    switch := .joined, serving := some (faultrspC action e), faultq := s.faultq.set 0 [{ fault kind 1 0x40000000 with stat := 2 }] }

theorem hyp_PelonarCommands_faultrsp : let e := 0x8100000000000000;
    Serves (answering 5 0 e) (faultrspC 0 e) 0x33 [(8, 1), (0x0C, 5), (0x18, 8)] ∧
    ((answering 5 0 e).forwarded (faultrspC 0 e)).any (fun f => f.ctx = 0 && f.kind = 5 &&
      !leafRefused (f.va &&& ~~~0xFFFF#64) (fieldD (faultrspC 0 e) 0x18) && ((answering 5 0 e).ctx 0).any (fun c =>
        ((answering 5 0 e).install c (f.va &&& ~~~0xFFFF#64) (fieldD (faultrspC 0 e) 0x18)).any (fun t => t.stop.isNone))) = true ∧
    Serves (answering 3 1 0) (faultrspC 1 0) 0x33 [(8, 1), (0x0C, 5), (0x18, 8)] ∧
    ((answering 3 1 0).forwarded (faultrspC 1 0)).any (fun f => f.ctx = 0 && f.kind = 3 &&
      ((answering 3 1 0).group f.grp).any (fun g => g.ctx = 0 && (g.warp f.wid).isSome)) = true := by
  unfold Serves; decide +kernel

theorem hyp_PelonarCommands_faultrsp_frames : FramesPresent (answering 3 1 0) := allHost_present (by decide +kernel)

/-- DISPSET of the last output: released, and given to context 7 with that mode, whose compressed pixels take no bits. -/
def dispsetC (ctx : Nat) : Bytes := host 0x40 [(8, 1, 3), (0x0C, 4, ctx), (0x10, 8, 0x40)]
theorem hyp_PelonarCommands_dispset : Serves (hosting (dispsetC 0) []) (dispsetC 0) 0x40 [(8, 1), (0x0C, 12)] ∧
    (hosting (dispsetC 0) []).outputs.length = 4 ∧ Serves (hosting (dispsetC 7) [(0x40, modeD)]) (dispsetC 7) 0x40 [(8, 1), (0x0C, 12)] ∧
    (hosting (dispsetC 7) [(0x40, modeD)]).hostRead 0x40 128 = modeD ∧ modeBad modeD = false := by
  unfold Serves; decide +kernel

theorem hyp_PelonarCommands_dispset_fits : modeWide modeD = false :=
  have h : (field modeD 0x10 4 * if (fieldW modeD 0x15).getLsbD 0 then field modeD 0x16 2 else 48 * field modeD 0x14 1) = 0 := by decide +kernel
  by simp only [modeWide, h, Nat.not_lt_zero, decide_false]

/-! ### Encodings and memory -/

/-- A well-formed instruction with a word. -/
theorem hyp_EncodingRoundTrip : ∃ i, (decodeSlot 0x000006080A000000).toOption = some i ∧ (i.wf = true ∧ encode i = some 0x000006080A000000) :=
  there (by decide +kernel)

theorem hyp_MemoryReadsBack : (Mem.empty.put (2 ^ 59 - 1) 255).wf = true ∧ (Mem.empty.put 0 1).wf = true := by decide +kernel

theorem hyp_MemoryFormKept : State.reset.memWf = true := by decide +kernel

/-! ### Words -/

/-- Format E fields: `DESC`, `TOK`, `A`, `SUB` and `IMM25`. -/
def ef (desc tok a : BitVec 8) (sub : BitVec 5) (imm : BitVec 25) : EFields := { y := false, desc, tok, a, sub, imm }

/-- Format S fields: `D`, `A`, `B`, `SUB`, `ID` and `IMM20`. -/
def sf (d a b : BitVec 8) (sub id : BitVec 5) (imm : BitVec 20) : SFields := { y := false, d, a, b, sub, id, imm }

/-- Words put together from the field tables of R86 and R92 to R96, and the instructions that they stand for (R83). -/
def Decodes (ws : List (Dword × Instr)) : Prop := ws.all (fun w => (decodeSlot w.1).toOption = some w.2) = true

theorem test_decode_integer : Decodes
    [ (0x000006080A000000, .iadd (vf 0 3 4 5 0 0))
    , (0x013004080C000000, .isub (vf 6 2 4 6 0 0))
    , (0x021006080A000000, .imul (vf 2 3 4 5 0 0))
    , (0x030806080A000000, .imulh (vf 1 3 4 5 0 0))
    , (0x040006080A0C0000, .imad (vf 0 3 4 5 6 0))
    , (0x0508040A0E100000, .imadw (vf 1 2 5 7 8 0))
    , (0x060006080A340000, .iaddc (vf 0 3 4 5 26 0))
    , (0x070806080A100000, .isubb (vf 1 3 4 5 8 0))
    , (0x082006080A000000, .imin (vf 4 3 4 5 0 0))
    , (0x092806080A000000, .imax (vf 5 3 4 5 0 0))
    , (0x0A10060800000000, .iabs (vf 2 3 4 0 0 0))
    , (0x0B0006080A0C0000, .isad (vf 0 3 4 5 6 0))
    , (0x0C0006080A0C0000, .iclamp (vf 0 3 4 5 6 0))
    , (0x0D1006080A0C0001, .idot2 (vf 2 3 4 5 6 1))
    , (0x0E2806080A0C0000, .idot4 (vf 5 3 4 5 6 0))
    , (0x0F300E080C000005, .icmp (vf 6 7 4 6 0 5)) ] := by
  unfold Decodes; decide +kernel

theorem test_decode_logic : Decodes
    [ (0x100006080A000000, .andB (vf 0 3 4 5 0 0))
    , (0x113004080C000000, .orB (vf 6 2 4 6 0 0))
    , (0x120006080A000000, .xorB (vf 0 3 4 5 0 0))
    , (0x130006080A000000, .andn (vf 0 3 4 5 0 0))
    , (0x140006080B940000, .lop3 (vf 0 3 4 5 202 0))
    , (0x153004080A000000, .shl (vf 6 2 4 5 0 0))
    , (0x160006080A000000, .shr (vf 0 3 4 5 0 0))
    , (0x170006080A000000, .sar (vf 0 3 4 5 0 0))
    , (0x180006080A000001, .rot (vf 0 3 4 5 0 1))
    , (0x190006080A0C0001, .fshf (vf 0 3 4 5 6 1))
    , (0x1A0006080A000001, .bfe (vf 0 3 4 5 0 1))
    , (0x1B0006080A0C0000, .bfi (vf 0 3 4 5 6 0))
    , (0x1C30040800000000, .brev (vf 6 2 4 0 0 0))
    , (0x1D30060800000000, .popc (vf 6 3 4 0 0 0))
    , (0x1E00060800000000, .clz (vf 0 3 4 0 0 0))
    , (0x1F00060800000000, .ctz (vf 0 3 4 0 0 0)) ] := by
  unfold Decodes; decide +kernel

theorem test_decode_moves : Decodes
    [ (0x2030040008000000, .mov (vf 6 2 0 4 0 0))
    , (0x210006000A000001, .movl (vf 0 3 0 5 0 1))
    , (0x223004080C000007, .sel (vf 6 2 4 6 0 7))
    , (0x230006080A0C0001, .prmt (vf 0 3 4 5 6 1))
    , (0x240006080A000001, .sext (vf 0 3 4 5 0 1))
    , (0x250006080A000000, .mkaff (vf 0 3 4 5 0 0))
    , (0x2600060800000000, .mkgen (vf 0 3 4 0 0 0))
    , (0x2700060800000002, .shape (vf 0 3 4 0 0 2))
    , (0x2800060000000003, .laneid (vf 0 3 0 0 0 3))
    , (0x29000E0204000003, .mskop (vf 0 7 1 2 0 3))
    , (0x2A00060A00000000, .mskmov (vf 0 3 5 0 0 0))
    , (0x2A000A0800000001, .mskmovLane (vf 0 5 4 0 0 1))
    , (0x2A000A0800000002, .mskmovWord (vf 0 5 4 0 0 2)) ] := by
  unfold Decodes; decide +kernel

theorem test_decode_floating : Decodes
    [ (0x400006080A000000, .fadd (vf 0 3 4 5 0 0))
    , (0x410806080A000000, .fsub (vf 1 3 4 5 0 0))
    , (0x421006080A000000, .fmul (vf 2 3 4 5 0 0))
    , (0x432006080A0C0000, .ffma (vf 4 3 4 5 6 0))
    , (0x441806080A000000, .fmin (vf 3 3 4 5 0 0))
    , (0x451806080A000000, .fmax (vf 3 3 4 5 0 0))
    , (0x461806080A000000, .fminm (vf 3 3 4 5 0 0))
    , (0x471806080A000000, .fmaxm (vf 3 3 4 5 0 0))
    , (0x48180E080A000007, .fcmp (vf 3 7 4 5 0 7))
    , (0x4900060800000000, .frnd (vf 0 3 4 0 0 0))
    , (0x4A00060800000000, .ffrac (vf 0 3 4 0 0 0))
    , (0x4B00060800000000, .fclass (vf 0 3 4 0 0 0))
    , (0x4C0006080A000000, .fldexp (vf 0 3 4 5 0 0))
    , (0x4D00060800000000, .fexpo (vf 0 3 4 0 0 0))
    , (0x4E00060800000000, .fmant (vf 0 3 4 0 0 0))
    , (0x4F0806080A0C0000, .fdot2 (vf 1 3 4 5 6 0))
    , (0x501006080C120000, .fdot4 (vf 2 3 4 6 9 0))
    , (0x510006080A000002, .fcpys (vf 0 3 4 5 0 2))
    , (0x520006080A0C0000, .fmed3 (vf 0 3 4 5 6 0)) ] := by
  unfold Decodes; decide +kernel

theorem test_decode_conversion : Decodes
    [ (0x5300080A0000000D, .cvt (vf 0 4 5 0 0 13))
    , (0x540006080A000009, .cvtpk (vf 0 3 4 5 0 9))
    , (0x5500060800000013, .cvtup (vf 0 3 4 0 0 19))
    , (0x5600060800000007, .qblk (vf 0 3 4 0 0 7))
    , (0x570006080A000007, .dqblk (vf 0 3 4 5 0 7)) ] := by
  unfold Decodes; decide +kernel

theorem test_decode_special_function : Decodes
    [ (0x6000060800000000, .rcp (vf 0 3 4 0 0 0))
    , (0x6108060800000000, .rsq (vf 1 3 4 0 0 0))
    , (0x6210060800000000, .sqrt (vf 2 3 4 0 0 0))
    , (0x6318060800000000, .exp2 (vf 3 3 4 0 0 0))
    , (0x6420060800000000, .log2 (vf 4 3 4 0 0 0))
    , (0x6500060800000000, .sinpi (vf 0 3 4 0 0 0))
    , (0x6608060800000000, .cospi (vf 1 3 4 0 0 0))
    , (0x6710060800000000, .tanh (vf 2 3 4 0 0 0))
    , (0x6818060800000000, .sigm (vf 3 3 4 0 0 0))
    , (0x6900060800000017, .tbl (vf 0 3 4 0 0 23))
    , (0x6A00060800000008, .tbli (vf 0 3 4 0 0 8))
    , (0x6B0006080A000000, .divf (vf 0 3 4 5 0 0)) ] := by
  unfold Decodes; decide +kernel

theorem test_decode_lane : Decodes
    [ (0x803004080A00001F, .shfl (vf 6 2 4 5 0 31))
    , (0x8100060800000000, .rdfirst (vf 0 3 4 0 0 0))
    , (0x820006080A000000, .rdlane (vf 0 3 4 5 0 0))
    , (0x830006080A000000, .wrlane (vf 0 3 4 5 0 0))
    , (0x8400060A0000000E, .vote (vf 0 3 5 0 0 14))
    , (0x8530060800000000, .matchKey (vf 6 3 4 0 0 0))
    , (0x86300408000E0000, .compact (vf 6 2 4 0 7 0))
    , (0x8700060800000000, .expand (vf 0 3 4 0 0 0))
    , (0x8800060800000008, .reduce (vf 0 3 4 0 0 8))
    , (0x8930040800000017, .scan (vf 6 2 4 0 0 23))
    , (0x8A0006080A0C0006, .sortk (vf 0 3 4 5 6 6)) ] := by
  unfold Decodes; decide +kernel

theorem test_decode_control : Decodes
    [ (0x903C000000000009, .ifCond (kf 7 true 0 9))
    , (0x9100000000000005, .elseJoin (kf 0 false 0 5))
    , (0x9200000000000000, .endif (kf 0 false 0 0))
    , (0x9300000000000014, .loop (kf 0 false 0 20))
    , (0x94180000FFFFFFEC, .endloop (kf 3 false 0 (-20)))
    , (0x9514000000000000, .brk (kf 2 true 0 0))
    , (0x96100000FFFFFFF8, .cont (kf 2 false 0 (-8)))
    , (0x97000000FFFFFFFE, .jmp (kf 0 false 0 (-2)))
    , (0x98041C0000000004, .jmpu (kf 0 true 7 4))
    , (0x9900000000000040, .call (kf 0 false 0 64))
    , (0x9A00180000000000, .calli (kf 0 false 6 0))
    , (0x9B00000000000000, .ret (kf 0 false 0 0))
    , (0x9C00000000000000, .exit (kf 0 false 0 0))
    , (0x9D00000000000005, .setbnd (kf 0 false 0 5))
    , (0x9E00000000000000, .nop (kf 0 false 0 0)) ] := by
  unfold Decodes; decide +kernel

theorem test_decode_memory : Decodes
    [ (0xA00082000347FFFC, .ld (mf 2 8 0 0 3 1 (-4)))
    , (0xA10082000883FFFF, .st (mf 2 8 0 1 0 2 262143))
    , (0xA200C20268000008, .ldu (mf 3 8 9 5 0 0 8))
    , (0xA301020104C40000, .ldq (mf 4 8 4 0 4 3 (-262144)))
    , (0xA4018200D0000010, .stq (mf 6 8 3 2 0 0 16))
    , (0xA500C20245C00810, .atom (mf 3 8 9 0 5 3 2064))
    , (0xA600820188000A00, .cas (mf 2 8 6 1 0 0 2560))
    , (0xA700820004000030, .atomu (mf 2 8 0 0 4 0 48))
    , (0xA800000006C00000, .fence (mf 0 0 0 0 6 3 0))
    , (0xA900C2014447FFF4, .waitv (mf 3 8 5 0 4 1 (-12))) ] := by
  unfold Decodes; decide +kernel

theorem test_decode_block_store : Decodes
    [ (0xAA00C20018000000, .bsalloc (mf 3 8 0 3 0 0 0))
    , (0xAB00020018000000, .bsfree (mf 0 8 0 3 0 0 0))
    , (0xAC00C20018000000, .bsshare (mf 3 8 0 3 0 0 0))
    , (0xAD00C20018000000, .bslook (mf 3 8 0 3 0 0 0)) ] := by
  unfold Decodes; decide +kernel

theorem test_decode_fetch : Decodes
    [ (0xAE01024088000020, .tex (mf 4 9 2 1 0 0 32))
    , (0xAF01024028000040, .texg (mf 4 9 0 5 0 0 64))
    , (0xB000C2040007FFF8, .rayq (mf 3 8 16 0 0 0 (-8)))
    , (0xB100C20400000008, .rayb (mf 3 8 16 0 0 0 8))
    , (0xB200C24008000010, .attr (mf 3 9 0 1 0 0 16)) ] := by
  unfold Decodes; decide +kernel

theorem test_decode_matrix : Decodes
    [ (0xC00900080C280000, .mma (xf 1 1 0 0 8 12 40 0 false 0))
    , (0xC200091415020F80, .mloop (xf 0 0 0 9 20 21 2 15 true 0))
    , (0xC10A62080C280047, .mmas { xf 1 2 3 2 8 12 40 0 false 7 with sp := true })
    , (0xC300AA141507FF70, .mloops { xf 0 0 5 10 20 21 7 255 false 0 with sp := true, st := true, ce := true })
    , (0xC400000000010000, .accz (xf 0 0 0 0 0 0 1 0 false 0))
    , (0xC50060080A020001, .accld (xf 0 0 3 0 8 10 2 0 false 1))
    , (0xC60000090A030002, .accst (xf 0 0 0 0 9 10 3 0 false 2))
    , (0xC700400900050000, .accdrain (xf 0 0 2 0 9 0 5 0 false 0))
    , (0xC8000809000B0360, .mapchk { xf 0 0 0 8 9 0 11 3 false 0 with sp := true, st := true })
    , (0xC900000900070300, .fragxGet (xf 0 0 0 0 9 0 7 3 false 0))
    , (0xC900000900060201, .fragxPut (xf 0 0 0 0 9 0 6 2 false 1))
    , (0xC900000900050002, .fragxStat (xf 0 0 0 0 9 0 5 0 false 2)) ] := by
  unfold Decodes; decide +kernel

theorem test_decode_engine : Decodes
    [ (0xD001820000000000, .cpy (ef 6 8 0 0 0))
    , (0xD101820000000000, .cpyx (ef 6 8 0 0 0))
    , (0xD200020281FFFFFF, .pfl2 (ef 0 8 10 0 33554431))
    , (0xD301820000000000, .gathr (ef 6 8 0 0 0))
    , (0xD401820288000000, .scatb (ef 6 8 10 4 0))
    , (0xD501820000000FFF, .binrpl (ef 6 8 0 0 4095))
    , (0xD601820000000000, .mrgo (ef 6 8 0 0 0))
    , (0xD70002029E000000, .mrgp (ef 0 8 10 15 0))
    , (0xD800020000000000, .mrgc (ef 0 8 0 0 0))
    , (0xD9000002BE000000, .mrgs (ef 0 0 10 31 0))
    , (0xDA00020000000000, .tokw (ef 0 8 0 0 0))
    , (0xDB00020280000000, .tokq (ef 0 8 10 0 0))
    , (0xDC00020000000000, .cancel (ef 0 8 0 0 0)) ] := by
  unfold Decodes; decide +kernel

theorem test_decode_synchronisation : Decodes
    [ (0xE00000000030003F, .bar (sf 0 0 0 0 3 63))
    , (0xE101400000F00000, .bara (sf 5 0 0 0 15 0))
    , (0xE200018000200000, .barw (sf 0 6 0 0 2 0))
    , (0xE301418240000003, .spawn (sf 5 6 9 0 0 3))
    , (0xE40141C240000010, .emit (sf 5 7 9 0 0 16))
    , (0xE5018000000FFFFF, .claim (sf 6 0 0 0 0 1048575))
    , (0xE6000141C0FFFFFF, .regrp (sf 0 5 7 0 15 1048575))
    , (0xE700014000700000, .cbload (sf 0 5 0 0 7 0))
    , (0xE800000000600000, .cbcommit (sf 0 0 0 0 6 0))
    , (0xE900014000F00000, .gwr (sf 0 5 0 0 15 0))
    , (0xEA014181D2F00000, .gatom (sf 5 6 7 9 15 0))
    , (0xEB00018000000001, .qsig (sf 0 6 0 0 0 1))
    , (0xEC000000000003E8, .sleep (sf 0 0 0 0 0 1000))
    , (0xED00018000300000, .framec (sf 0 6 0 0 3 0)) ] := by
  unfold Decodes; decide +kernel

theorem test_decode_system : Decodes
    [ (0xF000000000000007, .trap (sf 0 0 0 0 0 7))
    , (0xF100000000000000, .rte (sf 0 0 0 0 0 0))
    , (0xF20140000060000F, .rdsr (sf 5 0 0 0 6 15))
    , (0xF300014000000000, .wrsrCtl (sf 0 5 0 0 0 0))
    , (0xF300014000100000, .wrsrFlags (sf 0 5 0 0 1 0))
    , (0xF300014000500000, .wrsrSeed (sf 0 5 0 0 5 0))
    , (0xF401800002000000, .clk (sf 6 0 0 1 0 0))
    , (0xF5000000000FFFFF, .bkpt (sf 0 0 0 0 0 1048575))
    , (0xF600000000000007, .rply (sf 0 0 0 0 0 7))
    , (0xF700014000000000, .harvest (sf 0 5 0 0 0 0))
    , (0xF801400000000004, .diag (sf 5 0 0 0 0 4))
    , (0xF90000000000001F, .flgClr (sf 0 0 0 0 0 31))
    , (0xF901C00002000010, .flgTest (sf 7 0 0 1 0 16)) ] := by
  unfold Decodes; decide +kernel

/-! ### Ill-formed instructions -/

/-- Instructions that a check of R106 refuses, with the reason that it gives. -/
def Refuses (is : List (Nat × Instr)) : Prop := is.all (fun x => x.2.check = some (some x.1) && !x.2.wf) = true

/-- Format V: a reserved type, a reserved sub-operation, an odd pair, a codebook source of a pair; an unused operand, a mask of
more than three bits, a group register above 15, codebook fields without a codebook, a byte immediate of more than 8 bits; the
quiet bit and `MOD` outside floating point; an immediate beside C, a byte selector above 3. -/
theorem test_wf_v : Refuses
    [ (3, .iadd (vf 7 3 4 5 0 0)), (3, .isub (vf 6 3 4 6 0 0)), (3, .icmp (vf 0 1 4 5 0 6)), (3, .iadd { vf 6 2 4 6 0 0 with bk := 1 })
    , (4, .iabs (vf 0 3 4 5 0 0)), (4, .icmp (vf 0 8 4 5 0 0)), (4, .iadd { vf 0 3 4 16 0 0 with bk := 1 })
    , (4, .iadd { vf 0 3 4 5 0 0 with cb := 1 }), (4, .iadd { vf 4 3 4 1 0 0 with bk := 2 }), (4, .compact (vf 0 3 4 0 3 0))
    , (6, .iadd { vf 0 3 4 5 0 0 with q := true }), (6, .andB { vf 0 3 4 5 0 0 with mod := 1 }), (6, .cvt { vf 0 3 4 0 0 4 with mod := 8 })
    , (7, .imad { vf 0 3 4 5 6 0 with bk := 2 }), (7, .iadd { vf 0 3 4 5 0 0 with bk := 3, cw := true, sel := 4 }) ] := by
  unfold Refuses; decide +kernel

/-- Format M: a reserved width, an odd destination of 8 bytes, an odd pair of an atomic, one that needs `RET`; an offset register
where none may stand, a destination of a fence; a reserved space, a release load, a reserved scope; an odd address pair. -/
theorem test_wf_m : Refuses
    [ (3, .ldq (mf 4 8 5 0 0 0 0)), (3, .ldq (mf 3 8 3 0 0 0 0)), (3, .atom (mf 3 8 6 0 0 0 0x210)), (3, .cas (mf 2 8 6 0 0 0 0))
    , (4, .ld (mf 2 8 9 0 0 0 0)), (4, .fence (mf 1 0 0 0 0 0 0)), (4, .bsfree (mf 0 8 0 3 0 0 4)), (5, .ld (mf 2 8 0 6 0 0 0))
    , (5, .ld (mf 2 8 0 0 0 2 0)), (5, .st (mf 2 8 0 0 7 0 0)), (5, .tex (mf 4 9 2 0 0 0 0)), (7, .ld (mf 2 9 0 0 0 0 0)) ] := by
  unfold Refuses; decide +kernel

/-- Formats K and X: an odd pair of a target; a condition of a jump, a condition of no mask negated, a bundle of 64; a shape of
the other family, an odd pair of a base, a sub-operation without a meaning; a tile above 7, the sparse form of MMA, a step
count where none may stand. -/
theorem test_wf_kx : Refuses
    [ (3, .calli (kf 0 false 5 0)), (4, .jmp (kf 1 false 0 1)), (4, .ifCond (kf 0 true 0 1)), (4, .setbnd (kf 0 false 0 6)), (4, .nop (kf 0 false 0 1))
    , (3, .mma (xf 1 1 0 3 8 12 40 0 false 0)), (3, .accld (xf 0 0 0 0 9 10 2 0 false 1)), (3, .fragxGet (xf 0 0 0 0 9 0 7 0 false 3))
    , (4, .accz (xf 0 0 0 0 0 0 8 0 false 0)), (4, .mma { xf 1 1 0 0 8 12 40 0 false 0 with sp := true }), (4, .accld (xf 0 0 0 0 8 10 2 1 false 0)) ] := by
  unfold Refuses; decide +kernel

/-- Formats E and S: an odd token, a prefetch of no lines, a reserved order; an extra operand, an immediate; a barrier above 15,
a claim of no groups, an odd pair, an index that a group of special registers lacks, one that nobody writes; a destination of a barrier, a slot
of the log above 7. -/
theorem test_wf_es : Refuses
    [ (3, .cpy (ef 6 7 0 0 0)), (3, .pfl2 (ef 0 8 10 0 0)), (3, .scatb (ef 6 8 10 5 0)), (4, .cpy (ef 6 8 1 0 0)), (4, .tokw (ef 0 8 0 0 1))
    , (3, .bar (sf 0 0 0 0 16 0)), (3, .claim (sf 6 0 0 0 0 0)), (3, .qsig (sf 0 5 0 0 0 1)), (3, .rdsr (sf 5 0 0 0 4 8))
    , (3, .wrsrCtl (sf 0 5 0 0 2 0)), (4, .bar (sf 1 0 0 0 3 0)), (4, .rply (sf 0 0 0 0 0 8)) ] := by
  unfold Refuses; decide +kernel

/-- Opcodes that R83 leaves open, with reason 1. -/
theorem test_reserved_opcodes : [0x2B, 0x30, 0x3F, 0x58, 0x5A, 0x6C, 0x70, 0x8B, 0x9F, 0xB3, 0xCA, 0xDD, 0xEE, 0xFA].all (fun op =>
    match decodeSlot (op <<< 56 : Dword) with | .error r => r == 1 | _ => false) = true := by decide +kernel

/-! ### Single steps -/

/-- A register of the first warp after an instruction, for a lane. -/
def after (i : Instr) (s : State) (r l : Nat) : Option Word :=
  match exec i s with
  | .next t => (first t).map (fun x => x.2.rd r l)
  | _ => none

/-- The two lanes hold `a` and `b` in register 4, and `c` in register 5. -/
def inputs (a b c : Word) (w : Warp) : Warp := { two w with regs := (w.regs.set 4 (.g (a :: b :: List.replicate 30 0))).set 5 (.u c) }

/-- The sum wraps (R150). -/
theorem test_iadd_wraps : after (.iadd (vf 0 3 4 5 0 0)) (stand [0] 0 (inputs 0xFFFFFFFF 7 1)) 3 0 = some 0 ∧
    after (.iadd (vf 0 3 4 5 0 0)) (stand [0] 0 (inputs 0xFFFFFFFF 7 1)) 3 1 = some 8 := by decide +kernel

/-- The high word of (-1) * 1, and of 0xFFFFFFFF * 1 without a sign (R152). -/
theorem test_imulh_signs : after (.imulh (vf 0 3 4 5 0 0)) (stand [0] 0 (inputs 0xFFFFFFFF 0 1)) 3 0 = some 0xFFFFFFFF ∧
    after (.imulh (vf 1 3 4 5 0 0)) (stand [0] 0 (inputs 0xFFFFFFFF 0 1)) 3 0 = some 0 := by decide +kernel

/-- Addition in FP32: 1 + 2^-24 lies halfway and rounds to the even 1. -/
theorem test_fadd_ties : after (.fadd (vf 0 3 4 5 0 0)) (stand [0] 0 (inputs 0x3F800000 0x40000000 0x33800000)) 3 0 = some 0x3F800000 := by
  decide +kernel

/-- A source that is also the destination, and the lane that SHFL reads from (R196). -/
theorem test_mov_self : after (.mov (vf 0 4 0 4 0 0)) (stand [0] 0 (inputs 9 10 0)) 4 1 = some 10 := by decide +kernel

/-- Where lane 1 stands after a jump in the clause at 0. -/
def jumps (tgt : Word) : Option Dword :=
  match exec (.jmp (kf 0 false 0 tgt)) (stand [0] 0 (fun w => { two w with pcs := List.replicate 32 64 })) with
  | .next t => (first t).map (fun x => x.2.pcOf 1)
  | _ => none

/-- JMP counts words from the clause at 0 (R93). -/
theorem test_jmp : jumps 0 = some 0 ∧ jumps 5 = some 40 := by decide +kernel

/-- What the result of a load gives a lane. -/
def delivers (i : Instr) (s : State) (l : Nat) : Option Word :=
  match exec i s with
  | .next t => ((first t).bind (fun x => x.2.flights.head?)).bind (fun f => match f.dests with
    | [.vec _ _ x] => some (x.get l)
    | _ => none)
  | _ => none

/-- A word loaded from memory with its bytes in little-endian order (R3). -/
theorem test_ld_order : delivers (.ld (mf 2 8 0 0 0 0 4)) (stand [0] 0 two id (mapped [(0, 0x1122334455667788)])) 1 = some 0x11223344 := by
  decide +kernel

/-- The same with integer slots: slot 0 is INT32, slot 1 is INT8. -/
def integerGroup (g : Group) : Group := withRecord 0x40 [0x0D, 0, 0, 0, 0, 0, 0, 0x80, 8, 0, 0, 0, 0, 0, 0, 0x80] (matrixGroup g)

theorem hyp_MatrixStepSums_integers : ∃ c, cx (stand [0xC009000010202800] 0 two integerGroup) = some c ∧ ∃ c', c.gather.toOption = some c' ∧
    (mmaReady c' (xf 1 1 0 1 16 32 40 0 false 0) false = true ∧ intType (FSlot.ofWord (c'.slotWord 1)).etype = true ∧
      (c'.w.live &&& c'.w.mask 0).getLsbD 0 = true) :=
  there₂ (by decide +kernel)

theorem hyp_NopAndSetbnd_clause : decodeClause 0 0x5A00000800000000 ([] ++ [0x9E00000000000000]) = none ∧
    (∃ k, decodeSlot 0x9E00000000000000 = .ok (.nop k)) := ⟨by decide +kernel, _, rfl⟩

theorem hyp_SpecialRegisters_pending : ∃ c, cx (stand [0] 0 (fun w => { two w with flights := [{ flight .result none [] with op := 0x60 }] })) = some c ∧
    (c.w.flagsPending = true ∧ sReady c [] [] none [] = true ∧ sReady c [] [7] none [] = true) :=
  there (by decide +kernel)

end Sys2Proof.Tests
end

section
/-! PROOFS. The organization of the device: power-on, what one cycle brings and what a step runs then, and starts (R15-R42, R462,
R471-R474). -/

namespace Sys2Proof.Machine

/-! ### Lists -/

/-- A numbered list made from a function, read at a number. -/
theorem getD_map_range {α : Type} (f : Nat → α) (d : α) {n i : Nat} (h : i < n) : ((List.range n).map f).getD i d = f i := by
  rw [List.getD_eq_getElem?_getD, List.getElem?_map, List.getElem?_range h]
  rfl

/-- A fold that finds its start unchanged at every entry. -/
theorem foldl_of_fixed {α β : Type} {f : α → β → α} {a : α} : ∀ l : List β, (∀ b ∈ l, f a b = a) → l.foldl f a = a
  | [], _ => rfl
  | b :: l, h => by
    rw [List.foldl_cons, h b List.mem_cons_self]
    exact foldl_of_fixed l fun x hx => h x (List.mem_cons_of_mem b hx)

/-! ### Power-on -/

/-- Every column of the device has its reset value at power-on. -/
theorem State.reset_column {c : Nat} (h : c < 192) : State.reset.column c = Column.reset c := by
  rw [State.column, State.reset, getD_map_range _ _ h]

/-- Every port is down at power-on. -/
theorem State.reset_port {p : Nat} (h : p < 12) : State.reset.port p = Port.reset := by
  have ports : State.reset.ports = List.replicate 12 Port.reset := rfl
  rw [State.port, ports, List.getD_eq_getElem?_getD, List.getElem?_replicate_of_lt h, Option.getD_some]

/-- Settles O36: the clauses about columns and ports hold for all of them by `State.reset_column` and `State.reset_port`, the
others are the fields of `State.reset`. -/
theorem resetState : Obligations.ResetState := by
  refine ⟨rfl, rfl, rfl, rfl, rfl, rfl, rfl, rfl, rfl, rfl, rfl, rfl, rfl, rfl, rfl, fun p hp => ?_, rfl, fun a => rfl,
    (List.length_map _).trans List.length_range, fun c hc => ?_⟩
  · rw [State.reset_port hp]; rfl
  · rw [State.reset_column hc]; exact ⟨rfl, rfl⟩

/-! ### A cycle in which nothing comes about beside time -/

/-- In a calm machine no context is at its end. -/
theorem State.endCtxs_of_calm {s : State} (h : calm s) : s.endCtxs = s := by
  refine foldl_of_fixed s.contexts fun c hc => ?_
  split
  · next r k n e => exact absurd e (h.1 c hc r k n)
  · rfl

/-- In a calm machine every write of the device is still awaited. -/
theorem State.expire_of_calm {s : State} (h : calm s) : s.expire = s := by
  have on_time : ∀ o ∈ s.owed, ¬ o.since + 2 ^ 22 ≤ s.clock.toNat := fun o ho => Nat.not_le.2 (h.2 o ho)
  have none_late : s.owed.filter (fun o => decide (o.since + 2 ^ 22 ≤ s.clock.toNat)) = [] :=
    List.filter_eq_nil_iff.2 fun o ho => by rw [decide_eq_true_eq]; exact on_time o ho
  have all_kept : s.owed.filter (fun o => !decide (o.since + 2 ^ 22 ≤ s.clock.toNat)) = s.owed :=
    List.filter_eq_self.2 fun o ho => by rw [decide_eq_false (on_time o ho)]; rfl
  simp only [State.expire, none_late, all_kept, List.foldl_nil]

/-- In a dark machine no bin of a context lights. -/
theorem State.lightAll_of_dark {s : State} (h : dark s) (n id : Nat) : s.lightAll n id = s := by
  cases n with
  | zero => rfl
  | succ n =>
    unfold State.lightAll
    cases hc : s.ctx id with
    | none => rfl
    | some c =>
      cases hl : c.lights with
      | false => simp [hl]
      | true =>
        have no_bin : c.bins.find? (c.lightable s.clock.toNat) = none :=
          List.find?_eq_none.2 fun b hb => by simp [h c (List.mem_of_find?_eq_some hc) hl b hb]
        simp [hl, no_bin]

theorem State.lightDue_of_dark {s : State} (h : dark s) : s.lightDue = s :=
  foldl_of_fixed s.contexts fun c _ => State.lightAll_of_dark h 4096 c.id

/-- Whether a bin lights depends on the contexts and the clock alone. -/
theorem dark_congr {s t : State} (h : dark s) (hc : t.contexts = s.contexts) (hk : t.clock = s.clock) : dark t := by
  intro x hx
  rw [hk]
  exact h x (hc ▸ hx)

/-! ### The passing of time -/

/-- Warps parked on a column in retention change what their groups count as pauses, and nothing else. -/
theorem State.tickPauses_eq (s : State) : ∃ f : Group → Group, s.tickPauses = { s with groups := s.groups.map f } ∧
    ∀ g, ∃ ps, f g = { g with pauses := ps } := by
  unfold State.tickPauses
  split
  · exact ⟨id, by rw [List.map_id], fun g => ⟨g.pauses, rfl⟩⟩
  · refine ⟨_, rfl, fun g => ?_⟩
    unfold Group.pause
    split
    · exact ⟨g.pauses, rfl⟩
    · split
      · split <;> exact ⟨_, rfl⟩
      · exact ⟨_, rfl⟩

/-- A cycle of time moves the two clocks, and nothing else. -/
theorem State.tickTime_eq (s : State) : ∃ ft fr fs,
    s.tickTime = { s with clock := s.clock + 1, ftime := ft, ftimeRem := fr, ftimeSlow := fs } := by
  unfold State.tickTime
  split <;> exact ⟨_, _, _, rfl⟩

/-- Fabric time counts twelfths of a nanosecond, ten of them a cycle (R29, R30). -/
theorem State.tickTime_twelfths {s : State} (hs : s.ftimeSlow = none) :
    12 * s.tickTime.ftime.toNat + s.tickTime.ftimeRem = (12 * s.ftime.toNat + s.ftimeRem + 10) % (12 * 2 ^ 64) := by
  have e : s.tickTime.ftime = s.ftime + BitVec.ofNat 64 ((s.ftimeRem + 10) / 12) ∧
      s.tickTime.ftimeRem = (s.ftimeRem + 10) % 12 := by simp [State.tickTime, hs]
  rw [e.1, e.2, BitVec.toNat_add, BitVec.toNat_ofNat]
  omega

@[simp] theorem Warp.tick_wid (w : Warp) : w.tick.wid = w.wid := by
  unfold Warp.tick
  split
  · rfl
  · dsimp only; split <;> rfl

/-- What a cycle changes: the clocks, the counts inside the groups, which keep their numbers and their warps' numbers, and the
flits that have left the ports. -/
theorem State.passTime_eq (s : State) : ∃ ft fr fs, ∃ f : Group → Group,
    s.passTime = { s with clock := s.clock + 1, ftime := ft, ftimeRem := fr, ftimeSlow := fs, groups := s.groups.map f,
                          ports := s.ports.map (fun p => { p with sent := [] }) } ∧
    ∀ g, (f g).uid = g.uid ∧ (f g).warps.map Warp.wid = g.warps.map Warp.wid := by
  obtain ⟨f, pauses, same⟩ := s.tickPauses_eq
  obtain ⟨ft, fr, fs, time⟩ := State.tickTime_eq { s with groups := s.groups.map f }
  dsimp only at time
  refine ⟨ft, fr, fs, (fun g => if g.started then { g with warps := g.warps.map Warp.tick } else g) ∘ f, ?_, fun g => ?_⟩
  · simp only [State.passTime, pauses, time, State.tickGroups, State.tickPorts, List.map_map]
  · obtain ⟨ps, e⟩ := same g
    rw [Function.comp_apply, e]
    split <;> simp [Function.comp_def]

@[simp] theorem State.passTime_clock (s : State) : s.passTime.clock = s.clock + 1 := by
  obtain ⟨_, _, _, _, pass, -⟩ := s.passTime_eq
  simp only [pass]

@[simp] theorem State.passTime_contexts (s : State) : s.passTime.contexts = s.contexts := by
  obtain ⟨_, _, _, _, pass, -⟩ := s.passTime_eq
  simp only [pass]

@[simp] theorem State.passTime_columns (s : State) : s.passTime.columns = s.columns := by
  obtain ⟨_, _, _, _, pass, -⟩ := s.passTime_eq
  simp only [pass]

/-- Fabric time after a cycle, while the module is not ahead of the switch (R30). -/
theorem State.passTime_twelfths {s : State} (hs : s.ftimeSlow = none) :
    12 * s.passTime.ftime.toNat + s.passTime.ftimeRem = (12 * s.ftime.toNat + s.ftimeRem + 10) % (12 * 2 ^ 64) := by
  obtain ⟨f, pauses, -⟩ := s.tickPauses_eq
  have h := State.tickTime_twelfths (s := s.tickPauses) (by rw [pauses]; exact hs)
  rwa [show s.tickPauses.ftime = s.ftime by rw [pauses], show s.tickPauses.ftimeRem = s.ftimeRem by rw [pauses]] at h

/-- Where nothing comes about beside time, a cycle is the passing of time. -/
theorem State.tick_of_calm_dark {s : State} (quiet : calm s) (unlit : dark { s with clock := s.clock + 1 }) :
    s.tick = s.passTime := by
  rw [State.tick, State.endCtxs_of_calm quiet, State.expire_of_calm quiet]
  exact State.lightDue_of_dark (dark_congr unlit s.passTime_contexts s.passTime_clock)

/-! ### A step runs what the agenda names -/

/-- A step takes the first turn of the agenda, after one cycle. -/
theorem step_of_agenda {s : State} {t : Turn} {rest : List Turn} (h : s.agenda = t :: rest) :
    step s = act t ({ s with agenda := rest } : State).tick := by simp [step, State.nextTurn, h]

/-- The step of a turn that names a step of the device: that step, after the cycle that `State.passTime_eq` describes. -/
theorem stepRunsNamedEvent : StepRunsNamedEvent := by
  intro s i rest hs
  obtain ⟨ft, fr, fs, f, pass, -⟩ := s.endCtxs.expire.passTime_eq
  refine ⟨step_of_agenda hs, fun h => ?_, rfl, State.lightDue_of_dark, ?_, ?_, ?_, fun hs _ => State.passTime_twelfths hs⟩
  · rw [State.endCtxs_of_calm h, State.expire_of_calm h]
  · rw [pass]
  · rw [pass]
  · rw [pass]

/-- Where a partition stands in a clause of a warp, at a slot with an instruction of its own, the issuing slot is that one. -/
theorem cx_of_running {s : State} {r : Running} {g : Group} {w : Warp}
    (hr : ((s.column s.issuer.1).parts[s.issuer.2]?).bind Partition.running = some r) (hg : s.group r.grp = some g)
    (hw : g.warp r.wid = some w) (hp : opOf (r.words.getD r.idx 0) ≠ 0xFF) :
    ∃ c, cx s = some c ∧ c.run = r ∧ c.slot = r.idx := by
  simp only [cx, hr, hg, hw]
  exact ⟨_, rfl, rfl, if_neg (by simpa using hp)⟩

/-- Opcode 0xFF has no instruction of its own (R90). -/
theorem opOf_ne_of_decodeSlot {w : Dword} {i : Instr} (h : decodeSlot w = .ok i) : opOf w ≠ 0xFF := by
  intro hp
  have reason : slotReason w = some 1 := by
    have : formatOf 0xFF = some .p := by decide
    simp [slotReason, hp, this]
  simp [decodeSlot, reason] at h

/-- The slot at which a partition stands, decoded. -/
theorem State.slotInstr_of_cx {u : State} {c : Cx} {i : Instr} (hc : cx u = some c)
    (hi : decodeSlot (c.run.words.getD c.slot 0) = .ok i) : u.slotInstr = some i := by
  simp only [State.slotInstr, hc, hi]

/-- A turn of a partition runs the instruction at which it stands; a slot that stays held may stop there (R418). -/
theorem act_issue_next {s u : State} {col part : Nat} {i : Instr} (hu : u = { s with issuer := (col, part) })
    (slot : u.slotInstr = some i) {t : State} (ht : exec i u = .next t) :
    act (.issue col part) s = .next (u.stopHeld t col part) := by
  subst hu
  simp only [act, slot, ht]

/-- Where that instruction has no next state, the turn has none. -/
theorem act_issue_not_next {s u : State} {col part : Nat} {i : Instr} (hu : u = { s with issuer := (col, part) })
    (slot : u.slotInstr = some i) (no : ∀ t, exec i u ≠ .next t) : act (.issue col part) s = exec i u := by
  subst hu
  simp only [act, slot]

/-! ### A word placed where the machine fetches next -/

/-- After a cycle every group stands on its core with the same warps. -/
theorem State.passTime_group {s : State} {uid wid : Nat} {g : Group} {w : Warp} (hg : s.group uid = some g)
    (hw : g.warp wid = some w) : ∃ g' w', s.passTime.group uid = some g' ∧ g'.warp wid = some w' := by
  obtain ⟨ft, fr, fs, f, pass, keep⟩ := s.passTime_eq
  have group' : s.passTime.group uid = some (f g) := by
    rw [pass, State.group, List.find?_map]
    simp only [Function.comp_def, (keep _).1]
    rw [← State.group, hg]; rfl
  obtain ⟨w', mem', wid'⟩ : ∃ w' ∈ (f g).warps, w'.wid = wid := by
    rw [← List.mem_map, (keep g).2]
    exact List.mem_map.2 ⟨w, List.mem_of_find?_eq_some hw, Group.warp_wid hw⟩
  have found : ((f g).warp wid).isSome := List.find?_isSome.2 ⟨w', mem', by simp [wid']⟩
  obtain ⟨v, hv⟩ := Option.isSome_iff_exists.1 found
  exact ⟨f g, v, group', hv⟩

/-- The machine with a slot placed, when its turn has been taken from the agenda. -/
def State.placedTurn (s : State) (slot : Dword) : State := { s.placeSlot slot with agenda := s.agenda }

/-- The step of a machine in which a word was placed is a turn of partition 0 of column 0. -/
theorem step_withFetchWord {s : State} (w : Nat) (idle : cx s = none) :
    step (s.withFetchWord 64 w) = act (.issue 0 0) (s.placedTurn (BitVec.ofNat 64 (w % 2 ^ 64))).tick := by
  rw [State.withFetchWord, idle]
  exact step_of_agenda rfl

/-- The clause of a placed word stands on partition 0 of column 0. -/
theorem State.placedTurn_running {s : State} (slot : Dword) (hcol : 0 < s.columns.length)
    (hpart : 0 < (s.column 0).parts.length) :
    (((s.placedTurn slot).column 0).parts[0]?).bind Partition.running = some (fetchRunning s.nextGroup slot) := by
  have columns : (s.placedTurn slot).columns = (s.setColumn 0 { s.column 0 with
      parts := (s.column 0).parts.set 0 { (s.column 0).parts.getD 0 { running := none, lastSlot := 15 } with
        running := some (fetchRunning s.nextGroup slot) } }).columns := rfl
  rw [State.column, columns, ← State.column, State.column_setColumn _ _ _ _ hcol, if_pos rfl]
  simp [hpart]

/-- The group of a placed word is found, where its number was free. -/
theorem State.placedTurn_group {s : State} (slot : Dword) (free : ∀ g ∈ s.groups, g.uid ≠ s.nextGroup) :
    (s.placedTurn slot).group s.nextGroup = some (fetchGroup s.nextGroup slot) := by
  have groups : (s.placedTurn slot).groups = s.groups ++ [fetchGroup s.nextGroup slot] := rfl
  have no : s.groups.find? (fun g => g.uid = s.nextGroup) = none := List.find?_eq_none.2 (by simpa using free)
  rw [State.group, groups, List.find?_append, no]
  simp [fetchGroup, Group.placed]

/-- After the cycle the partition stands at the placed word. -/
theorem cx_placedTurn {s : State} {slot : Dword} (free : ∀ g ∈ s.groups, g.uid ≠ s.nextGroup)
    (hcol : 0 < s.columns.length) (hpart : 0 < (s.column 0).parts.length) (hp : opOf slot ≠ 0xFF) :
    ∃ c, cx { (s.placedTurn slot).passTime with issuer := (0, 0) } = some c ∧ c.run.words.getD c.slot 0 = slot := by
  obtain ⟨_, warp⟩ : ∃ w, (fetchGroup s.nextGroup slot).warp 0 = some w := ⟨_, rfl⟩
  obtain ⟨g, w, hg, hw⟩ := State.passTime_group (State.placedTurn_group slot free) warp
  have running : (((s.placedTurn slot).passTime.column 0).parts[0]?).bind Partition.running =
      some (fetchRunning s.nextGroup slot) := by
    rw [State.column, State.passTime_columns]
    exact State.placedTurn_running slot hcol hpart
  obtain ⟨c, hc, run, at0⟩ := cx_of_running (s := { (s.placedTurn slot).passTime with issuer := (0, 0) }) running hg hw hp
  exact ⟨c, hc, by rw [run, at0]; rfl⟩

/-- The instruction of a word of the opcode table is that of the slot with this word. -/
theorem decodeSlot_of_tableWord {w : Nat} {i : Instr} (h : decodeTableWord 64 w = some i) :
    decodeSlot (BitVec.ofNat 64 w) = .ok i := by
  have word : BitVec.ofNat 64 (w % 2 ^ 64) = BitVec.ofNat 64 w := by
    apply BitVec.eq_of_toNat_eq
    simp
  unfold decodeTableWord at h
  rw [if_pos (by decide), word] at h
  split at h
  · next j hj => rw [hj, Option.some.inj h]
  · cases h

/-- The step after a word was placed: the cycle only passes time, and partition 0 of column 0 then stands at the word. -/
theorem fetchedWordRuns : FetchedWordRuns := by
  intro s w i hw free hcol hpart none_issues quiet unlit
  have decodes := decodeSlot_of_tableWord hw
  have word : BitVec.ofNat 64 (w % 2 ^ 64) = BitVec.ofNat 64 w := BitVec.eq_of_toNat_eq (by simp)
  have cycle : (s.placedTurn (BitVec.ofNat 64 w)).tick = (s.placedTurn (BitVec.ofNat 64 w)).passTime :=
    State.tick_of_calm_dark quiet unlit
  have runs := step_withFetchWord w none_issues
  rw [word, cycle] at runs
  obtain ⟨c, hc, at_word⟩ := cx_placedTurn free hcol hpart (opOf_ne_of_decodeSlot decodes)
  have slot := State.slotInstr_of_cx hc (by rw [at_word]; exact decodes)
  refine ⟨_, fun t ht => ?_, fun no => ?_, rfl, by rw [hc, Option.map_some, at_word]⟩
  · rw [runs, act_issue_next rfl slot ht]
  · rw [runs, act_issue_not_next rfl slot no]

/-- Settles O38: the agenda names the turn in both halves, and the rest is what one cycle brings. -/
theorem eventsAndFetchesRun : Obligations.EventsAndFetchesRun := ⟨stepRunsNamedEvent, fetchedWordRuns⟩

/-! ### The discovery table (R33-R36) -/

theorem State.columnRecord_length (s : State) (c : Nat) : (s.columnRecord c).length = 16 := by
  simp [State.columnRecord, wordBytes]

theorem State.lanternRecord_length (s : State) (lan : Nat) : (s.lanternRecord lan).length = 32 := by
  simp [State.lanternRecord]

theorem State.tableHeader_length (s : State) (crc : Word) : (s.tableHeader crc).length = 64 := by
  simp [State.tableHeader, wordBytes]

/-- A list of records of one length. -/
theorem flatten_map_length {α β : Type} (f : α → List β) (n : Nat) (h : ∀ a, (f a).length = n) (l : List α) :
    ((l.map f).flatten).length = l.length * n := by
  induction l with
  | nil => rw [List.map_nil, List.flatten_nil, List.length_nil, List.length_nil, Nat.zero_mul]
  | cons a l ih =>
    rw [List.map_cons, List.flatten_cons, List.length_append, ih, h, List.length_cons, Nat.succ_mul, Nat.add_comm]

theorem State.discoveryTable_length (s : State) : s.discoveryTable.length = 3264 := by
  simp only [State.discoveryTable, List.length_append, s.tableHeader_length, flatten_map_length _ _ s.lanternRecord_length,
    flatten_map_length _ _ s.columnRecord_length, List.length_range, Config.nColumns]

/-- The table begins with its magic number, its version and its size (R34). -/
theorem State.discoveryTable_take (s : State) :
    s.discoveryTable.take 8 = toBytes 4 0x3945574B ++ toBytes 2 1 ++ toBytes 2 0x0CC0 := rfl

/-- `GEN` stands at 0x38 (R34). -/
theorem State.discoveryTable_gen (s : State) : fieldW s.discoveryTable 0x38 = s.gen := by
  have bytes : (s.discoveryTable.drop 0x38).take 4 = wordBytes s.gen := rfl
  rw [fieldW, field, bytes, leNat_wordBytes, BitVec.ofNat_toNat, BitVec.setWidth_eq]

/-! ### The end of a start (R460, R462, R471) -/

/-- What the module holds once a start has ended, before a RESET is answered. -/
def State.joined (s : State) : State :=
  let t : State := { s with phase := .ready, gen := s.gen + 1, switch := .joined }
  { t with discovery := t.discoveryTable }

theorem State.finishStart_of_none {s : State} (h : s.resetCmd = none) : s.finishStart = s.joined := by
  simp only [State.finishStart, State.joined, h]

theorem State.finishStart_of_some {s : State} {cmd : Bytes} (h : s.resetCmd = some cmd) :
    s.finishStart = ({ s.joined with resetCmd := none } : State).respond cmd 0 [] := by
  simp only [State.finishStart, State.joined, h]

/-- The end of a start, with the response to a RESET, is the joined module but for the mailbox. -/
theorem State.finishStart_eq (s : State) : ∃ cmd rsp st irqs,
    s.finishStart = { s.joined with resetCmd := cmd, mbrsp := rsp, mbst := st, irqc := irqs } := by
  cases h : s.resetCmd with
  | none => exact ⟨_, _, _, _, State.finishStart_of_none h⟩
  | some cmd => exact ⟨_, _, _, _, State.finishStart_of_some h⟩

@[simp] theorem State.finishStart_holdover (s : State) : s.finishStart.holdover = s.holdover := by
  obtain ⟨_, _, _, _, e⟩ := s.finishStart_eq
  rw [e]; rfl

@[simp] theorem State.finishStart_acquired (s : State) : s.finishStart.acquired = s.acquired := by
  obtain ⟨_, _, _, _, e⟩ := s.finishStart_eq
  rw [e]; rfl

@[simp] theorem State.finishStart_nextEvent (s : State) : s.finishStart.nextEvent = s.nextEvent := by
  obtain ⟨_, _, _, _, e⟩ := s.finishStart_eq
  rw [e]; rfl

/-- A response without results fills the mailbox with zeros behind the first 8 bytes of its command (R462, R474). -/
theorem State.respond_mbrsp (s : State) {cmd : Bytes} (h : 8 ≤ cmd.length) (status : Nat) :
    (s.respond cmd status []).mbrsp = cmd.take 2 ++ toBytes 2 status ++ (cmd.drop 4).take 4 ++ List.replicate 248 0 := by
  have eight : (cmd.take 2 ++ toBytes 2 status ++ (cmd.drop 4).take 4).length = 8 := by
    simp only [List.length_append, List.length_take, List.length_drop, toBytes_length]
    omega
  simp only [State.respond, State.irq, List.append_nil, eight]
  exact List.take_of_length_le (by simp only [List.length_append, eight, List.length_replicate]; omega)

/-- The start of `s` has ended in `t`: the conclusion that the statement of O30 calls `up`. -/
def State.UpFrom (s t : State) : Prop :=
  t.phase = .ready ∧ t.gen = s.gen + 1 ∧ t.switch = .joined ∧ t.mem = s.mem ∧
    t.discovery.length = 3264 ∧ t.discovery.take 8 = toBytes 4 0x3945574B ++ toBytes 2 1 ++ toBytes 2 0x0CC0 ∧
    fieldW t.discovery 0x38 = t.gen ∧
    (s.resetCmd = none → t.resetCmd = none ∧ t.mbrsp = s.mbrsp ∧ t.mbst = s.mbst ∧ t.irqc = s.irqc) ∧
    ∀ cmd, s.resetCmd = some cmd → 8 ≤ cmd.length → t.resetCmd = none ∧ t.mbst = s.mbst ||| 2 ∧ t.irqc = s.irqc ||| 1 ∧
      t.mbrsp = cmd.take 2 ++ toBytes 2 0 ++ (cmd.drop 4).take 4 ++ List.replicate 248 0

theorem State.upFrom_finishStart (s : State) : s.UpFrom s.finishStart := by
  have table := State.discoveryTable_length { s with phase := .ready, gen := s.gen + 1, switch := .joined }
  cases h : s.resetCmd with
  | none =>
    rw [State.finishStart_of_none h]
    exact ⟨rfl, rfl, rfl, rfl, table, State.discoveryTable_take _, State.discoveryTable_gen _, fun _ => ⟨h, rfl, rfl, rfl⟩,
      fun cmd e => by simp [h] at e⟩
  | some cmd =>
    rw [State.finishStart_of_some h]
    refine ⟨rfl, rfl, rfl, rfl, table, State.discoveryTable_take _, State.discoveryTable_gen _, fun e => by simp [h] at e,
      fun cmd' e long => ?_⟩
    obtain rfl : cmd = cmd' := Option.some.inj (h.symm.trans e)
    exact ⟨rfl, rfl, rfl, State.respond_mbrsp _ long 0⟩

/-- The module that enters holdover, and has logged it (R468, R471). -/
def State.enterHoldover (s : State) : State :=
  (({ s with holdover := true } : State).logEvent 3 0 1 (Config.unstated s.fresh)).draw.2

/-- START_HOLDOVER ends the start in holdover, and logs it (R471). -/
theorem startHoldover_ends {s : State} (hp : s.phase = .starting 6) (late : s.step6.toNat + 10000000 ≤ s.ftime.toNat) :
    ∃ t, exec .startHoldover s = .next t ∧ s.UpFrom t ∧ t.holdover = true ∧ t.nextEvent = s.nextEvent + 1 := by
  have runs : exec .startHoldover s = .next s.enterHoldover.finishStart := by
    simp [exec, execStartHoldover, hp, Nat.not_lt.2 late, State.enterHoldover]
  exact ⟨_, runs, s.enterHoldover.upFrom_finishStart, State.finishStart_holdover _, State.finishStart_nextEvent _⟩

/-- A beacon that comes while a start waits for it locks the module to the switch, and ends the start (R468). -/
theorem beacon_start {s : State} {port : Nat} (time : Dword) (hp : s.phase = .starting 6) (hport : port < 12)
    (up : (s.port port).up = true) : ∃ u : State, exec (.beacon port time) s = .next u.finishStart ∧
      u.holdover = false ∧ u.acquired = true ∧
      { u with ftime := s.ftime, ftimeRem := s.ftimeRem, ftimeSlow := s.ftimeSlow, lastBeacon := s.lastBeacon
               acquired := s.acquired, holdover := s.holdover, events := s.events, nextEvent := s.nextEvent
               fresh := s.fresh } = s := by
  have served : ¬ (Config.nPorts ≤ port || !(s.port port).up) = true := by simp [up, Config.nPorts, Nat.not_le.2 hport]
  simp only [exec, execBeacon, if_neg served, if_pos hp]
  refine ⟨_, rfl, ?_⟩
  unfold State.lockTo
  split <;> split <;> exact ⟨rfl, rfl, rfl⟩

theorem beacon_ends {s : State} {port : Nat} (time : Dword) (hp : s.phase = .starting 6) (hport : port < 12)
    (up : (s.port port).up = true) :
    ∃ t, exec (.beacon port time) s = .next t ∧ s.UpFrom t ∧ t.holdover = false ∧ t.acquired = true := by
  obtain ⟨u, runs, holdover, acquired, frame⟩ := beacon_start time hp hport up
  have ends : s.UpFrom u.finishStart := by
    rw [← frame]
    exact u.upFrom_finishStart
  exact ⟨_, runs, ends, u.finishStart_holdover.trans holdover, u.finishStart_acquired.trans acquired⟩

/-! ### Banks (R17, R471 step 3) -/

theorem getLsbD_clear_bit (m : Word) (b : Nat) {k : Nat} (hk : k < 32) :
    (m &&& ~~~(1#32 <<< b)).getLsbD k = (m.getLsbD k && decide (k ≠ b)) := by
  rcases Nat.lt_trichotomy k b with h | h | h
  · simp [hk, h, Nat.ne_of_lt h]
  · subst h; simp
  · have below : ¬ k < b := by omega
    have above : k - b ≠ 0 := by omega
    have apart : k ≠ b := by omega
    simp [hk, below, above, apart]

/-- A bit after the bits of a list that a test picks were cleared. -/
theorem getLsbD_foldl_clear (p : Nat → Bool) {k : Nat} (hk : k < 32) : ∀ (l : List Nat) (m : Word),
    (l.foldl (fun (m : Word) b => if p b then m &&& ~~~(1#32 <<< b) else m) m).getLsbD k =
      (m.getLsbD k && !(decide (k ∈ l) && p k))
  | [], m => by simp
  | b :: l, m => by
    have bit : (if p b then m &&& ~~~(1#32 <<< b) else m).getLsbD k = (m.getLsbD k && !(decide (k = b) && p b)) := by
      split
      · next hb => rw [getLsbD_clear_bit m b hk, hb, Bool.and_true, decide_not]
      · next hb => simp [hb]
    rw [List.foldl_cons, getLsbD_foldl_clear p hk l, bit]
    by_cases e : k = b
    · subst e; cases p k <;> simp
    · simp [e]

theorem goodBanks_getLsbD (r : StartReport) (c : Nat) {b : Nat} (h : b < 32) :
    (goodBanks r c).getLsbD b = ((designBanks c).getLsbD b && !r.badBanks.contains (c, b)) := by
  rw [goodBanks, getLsbD_foldl_clear (fun b => r.badBanks.contains (c, b)) h]
  simp [h]

/-- The columns as a start leaves them, with the banks that a mask names (R471, R472). -/
def startColumns (mask : Nat → Word) : List Column :=
  (List.range Config.nColumns).map (fun c => { Column.reset c with bankMask := mask c })

theorem State.bankMask_of_startColumns {s : State} {mask : Nat → Word} (h : s.columns = startColumns mask) {c : Nat}
    (hc : c < 192) : (s.column c).bankMask = mask c := by
  rw [State.column, h]
  exact congrArg Column.bankMask (getD_map_range _ _ hc)

/-! ### Ports (R471 step 5) -/

/-- The ports as training leaves them. -/
def startPorts (r : StartReport) : List Port :=
  (List.range Config.nPorts).map (fun p => { Port.reset with up := r.ports.contains p })

theorem State.port_of_startPorts {s : State} {r : StartReport} (h : s.ports = startPorts r) {p : Nat} (hp : p < 12) :
    (s.port p).up = decide (p ∈ r.ports) := by
  rw [State.port, h]
  exact (congrArg Port.up (getD_map_range _ _ hp)).trans (List.contains_eq_mem p r.ports)

/-- The module once its fabric is trained, when frame-lock acquisition begins. -/
def State.trained (s : State) (r : StartReport) : State :=
  { s with ports := startPorts r, devid := r.devid % 64, switch := .joining, phase := .starting 6, step6 := s.ftime }

/-- A start goes on past step 5 where some port trains. -/
theorem State.trainFabric_of_port {s : State} {r : StartReport} (h : r.failStep ≠ some 5) (hp : ∃ p ∈ r.ports, p < 12) :
    s.trainFabric r = s.trained r := by
  have not_all : (startPorts r).all (fun p => !p.up) = false := by
    obtain ⟨p, mem, lt⟩ := hp
    exact List.all_eq_false.2 ⟨_, List.mem_map.2 ⟨p, List.mem_range.2 lt, rfl⟩, by simp [mem]⟩
  have goes_on : ¬ (decide (r.failStep = some 5) || (startPorts r).all (fun p => !p.up)) = true := by
    rw [not_all]; simpa using h
  exact if_neg goes_on

/-! ### Cold and warm starts (R471, R472) -/

/-- Retired banks are logged, each with a free value; nothing else moves. -/
theorem foldl_logOpen_eq (kind : Nat) : ∀ (l : List (Nat × Nat)) (s : State), ∃ fresh events nextEvent,
    l.foldl (fun s b => s.logOpen kind b.1) s = { s with fresh, events, nextEvent }
  | [], s => ⟨s.fresh, s.events, s.nextEvent, rfl⟩
  | b :: l, s => foldl_logOpen_eq kind l (s.logOpen kind b.1)

theorem State.retireBanks_eq (s : State) (r : StartReport) : ∃ fresh events nextEvent,
    s.retireBanks r = { s with columns := startColumns (goodBanks r), fresh, events, nextEvent } :=
  foldl_logOpen_eq 5 _ { s with columns := startColumns (goodBanks r) }

/-- A start keeps host memory, and no other (R472). -/
theorem State.blank_mem_get {s : State} (h : s.mem.wf = true) (a : Nat) :
    s.blank.mem.get a = if 2 ^ 58 ≤ a then s.mem.get a else 0 := by
  have kept := cellGet_filter (fun k => decide (2 ^ 58 ≤ k)) s.mem.cells 0 a ((Mem.wf_iff _).1 h).1
  simp only [decide_eq_true_eq] at kept
  exact kept

/-- A cold start that fails halts at its step, without contexts; from step 3 on its failing banks are retired. -/
theorem State.coldStart_of_fail (s : State) {r : StartReport} {k : Nat} (h : r.failStep = some k) (h1 : 1 ≤ k) (h5 : k ≤ 5) :
    (s.coldStart r).phase = .halted k ∧ (s.coldStart r).contexts = [] ∧
      (3 ≤ k → (s.coldStart r).columns = startColumns (goodBanks r)) := by
  obtain ⟨fresh, events, nextEvent, retired⟩ := State.retireBanks_eq { s.blank with keyed := true } r
  obtain rfl | rfl | rfl | rfl | rfl : k = 1 ∨ k = 2 ∨ k = 3 ∨ k = 4 ∨ k = 5 := by omega
  · simp only [State.coldStart, h]; exact ⟨rfl, rfl, by omega⟩
  · simp only [State.coldStart, h]; exact ⟨rfl, rfl, by omega⟩
  · simp only [State.coldStart, State.coldFrom3, h, retired]; exact ⟨rfl, rfl, fun _ => rfl⟩
  · simp only [State.coldStart, State.coldFrom3, h, retired]; exact ⟨rfl, rfl, fun _ => rfl⟩
  · simp only [State.coldStart, State.coldFrom3, h, retired, State.trainFabric]; exact ⟨rfl, rfl, fun _ => rfl⟩

/-- A cold start that does not fail waits for the time base of the switch, with nothing but what outlives a start. -/
theorem State.coldStart_of_trained (s : State) {r : StartReport} (h : r.failStep = none) (hp : ∃ p ∈ r.ports, p < 12) :
    ∃ fresh events nextEvent, s.coldStart r =
      ({ s.blank with keyed := true, columns := startColumns (goodBanks r), fresh, events, nextEvent } : State).trained r := by
  obtain ⟨fresh, events, nextEvent, retired⟩ := State.retireBanks_eq { s.blank with keyed := true } r
  refine ⟨fresh, events, nextEvent, ?_⟩
  simp only [State.coldStart, State.coldFrom3, h, retired]
  exact State.trainFabric_of_port (by simp [h]) hp

/-- A warm start that does not fail keeps the retirement of banks. -/
theorem State.warmStart_of_trained (s : State) {r : StartReport} (h : r.failStep = none) (hv : r.verifyFails = false)
    (hp : ∃ p ∈ r.ports, p < 12) : s.warmStart r =
      ({ s.blank with keyed := true, columns := startColumns (fun c => (s.column c).bankMask) } : State).trained r := by
  simp only [State.warmStart, h, hv]
  exact State.trainFabric_of_port (by simp [h]) hp

/-- A warm start that fails in step 1 or 2 halts there, and keeps the retirement of banks. -/
theorem State.warmStart_of_fail (s : State) {r : StartReport} {k : Nat} (h : r.failStep = some k) (hk : k = 1 ∨ k = 2) :
    (s.warmStart r).phase = .halted k ∧ (s.warmStart r).stop = none ∧
      (s.warmStart r).columns = startColumns (fun c => (s.column c).bankMask) := by
  rcases hk with rfl | rfl <;> simp only [State.warmStart, h] <;> exact ⟨rfl, rfl, rfl⟩

/-! ### RESET (R473) -/

/-- A command that is served, and that goes on, leaves the state in which it goes on. -/
theorem State.serve_of_busy {s t : State} {cmd : Bytes} {code : Nat} {mine : Bytes → Bool} {uses : List (Nat × Nat)}
    {during : Bool} {run : State → Bytes → Served} (hs : s.serving = some cmd) (hcode : field cmd 0 2 = code)
    (known : pelonarCodes.contains code = true) (hmine : mine cmd = true) (hp : s.phase = .ready ∨ during = true)
    (hstray : strayBytes cmd uses = false) (hrun : run s cmd = .busy t) : s.serve code mine uses during run = t := by
  rcases s.serve_cases code mine uses during run with ⟨idle, -⟩ | ⟨cmd', hs', ends⟩
  · simp [hs] at idle
  · obtain rfl : cmd = cmd' := Option.some.inj (hs.symm.trans hs')
    rcases ends with ⟨unknown, -⟩ | ⟨other, -⟩ | ⟨starting, no, -⟩ | ⟨stray, -⟩ | ⟨-, -, runs⟩
    · rw [hcode, known] at unknown; cases unknown
    · exact absurd ⟨hcode, hmine⟩ other
    · rcases hp with ready | serves
      · exact absurd ready starting
      · rw [serves] at no; cases no
    · rw [hstray] at stray; cases stray
    · rw [runs, hrun]

/-- The module when the start of a RESET begins. -/
def State.resetting (s : State) (cmd : Bytes) : State :=
  { s with resetCmd := some cmd, serving := none, begun := false, mbst := s.mbst &&& 6 }

theorem State.reset'_of_no_contexts {s : State} (h : s.contexts = []) (cmd : Bytes) (start : State → State) :
    s.reset' cmd start = .busy (start (s.resetting cmd)) := by
  simp [State.reset', State.killWhere, h, State.resetting]

/-- A start has halted (R471): RESET is served all the same. -/
def State.hasHalted (s : State) : Bool := match s.phase with | .halted _ => true | _ => false

section Reset

variable {s : State} {r : StartReport} {cmd : Bytes} (hs : s.serving = some cmd) (hcode : field cmd 0 2 = 2)
  (hstray : strayBytes cmd [(8, 1)] = false) (hctx : s.contexts = []) (hp : s.phase = .ready ∨ ∃ k, s.phase = .halted k)

include hs hcode hstray hp

/-- A RESET is served in a module that is ready or has halted. -/
theorem serve_reset {t : State} {mine : Bytes → Bool} {run : State → Bytes → Served} (hmine : mine cmd = true)
    (hrun : run s cmd = .busy t) : s.serve 0x02 mine [(8, 1)] s.hasHalted run = t :=
  State.serve_of_busy hs hcode (by decide) hmine (by rcases hp with h | ⟨k, h⟩ <;> simp [State.hasHalted, h]) hstray hrun

include hctx

/-- RESET with mode 0, of a module without contexts, begins a cold start. -/
theorem exec_resetCold (mode : field cmd 8 1 = 0) (hstop : ((s.resetting cmd).coldStart r).stop = none) :
    exec (.resetCold r) s = .next ((s.resetting cmd).coldStart r) := by
  have served := serve_reset hs hcode hstray hp (mine := byteIs 8 0 true) (by simp [byteIs, mode])
    (run := fun s cmd => if field cmd 8 1 ≠ 0 then .over s 2 [] else s.reset' cmd (fun s => s.coldStart r))
    (by rw [if_neg (by simp [mode]), State.reset'_of_no_contexts hctx])
  exact (congrArg done served).trans (done_of_none hstop)

/-- RESET with mode 1, of a module without contexts, begins a warm start. -/
theorem exec_resetWarm (mode : field cmd 8 1 = 1) (hstop : ((s.resetting cmd).warmStart r).stop = none) :
    exec (.resetWarm r) s = .next ((s.resetting cmd).warmStart r) := by
  have served := serve_reset hs hcode hstray hp (mine := byteIs 8 1 false) (by simp [byteIs, mode])
    (run := fun s cmd => s.reset' cmd (fun s => s.warmStart r)) (State.reset'_of_no_contexts hctx cmd _)
  exact (congrArg done served).trans (done_of_none hstop)

end Reset

/-! ### Starts -/

/-- The module at power-on or at a fundamental reset: the mailbox is clear, and no RESET waits (R471). -/
def State.powered (s : State) : State :=
  { s with mbcmd := List.replicate 256 0, mbrsp := List.replicate 256 0, mbst := 0, irqc := 0, resetCmd := none }

theorem exec_coldStart (s : State) (r : StartReport) : exec (.coldStart r) s = .next (s.powered.coldStart r) := rfl

/-- Settles O30, clause by clause: a cold start that fails, and one that does not; RESET in either mode; a warm start that fails;
the end of a start, in holdover or with a beacon. -/
theorem startSteps : Obligations.StartSteps := by
  intro s r
  refine ⟨fun k fail h1 h5 => ?_, fun trains port => ?_,
    fun cmd hs hcode hstray hctx _ ready trains port => ⟨fun mode => ?_, fun mode verified => ?_⟩,
    fun cmd hs hcode hstray hctx _ ready mode _ k fail hk => ?_,
    fun waits => ⟨startHoldover_ends waits, fun _ time => beacon_ends time waits⟩⟩
  · obtain ⟨phase, contexts, columns⟩ := s.powered.coldStart_of_fail fail h1 h5
    refine ⟨_, exec_coldStart s r, phase, contexts, fun h3 c hc b hb => ?_⟩
    rw [State.bankMask_of_startColumns (columns h3) hc, goodBanks_getLsbD r c hb]
  · obtain ⟨_, _, _, start⟩ := s.powered.coldStart_of_trained trains port
    refine ⟨_, exec_coldStart s r, ?_⟩
    rw [start]
    refine ⟨rfl, rfl, rfl, rfl, rfl, rfl, rfl, rfl, rfl, rfl, BitVec.zero_and, rfl,
      fun p hp => State.port_of_startPorts rfl hp, fun c hc b hb => ?_, fun wf a => State.blank_mem_get (s := s.powered) wf a⟩
    rw [State.bankMask_of_startColumns rfl hc, goodBanks_getLsbD r c hb]
  · obtain ⟨_, _, _, start⟩ := (s.resetting cmd).coldStart_of_trained trains port
    refine ⟨_, exec_resetCold hs hcode hstray hctx ready mode (by rw [start]; rfl), ?_⟩
    rw [start]
    have busy_clear : (s.mbst &&& 6 &&& 6).getLsbD 0 = false := by simp
    exact ⟨rfl, rfl, rfl, busy_clear⟩
  · have start := (s.resetting cmd).warmStart_of_trained trains verified port
    refine ⟨_, exec_resetWarm hs hcode hstray hctx ready mode (by rw [start]; rfl), ?_⟩
    rw [start]
    exact ⟨rfl, rfl, rfl, rfl, fun _ c hc =>
      State.bankMask_of_startColumns (mask := fun c => (s.column c).bankMask) rfl hc⟩
  · obtain ⟨phase, stop, columns⟩ := (s.resetting cmd).warmStart_of_fail fail hk
    exact ⟨_, exec_resetWarm hs hcode hstray hctx ready mode stop, phase,
      fun c hc => State.bankMask_of_startColumns columns hc⟩

end Sys2Proof.Machine
end

section
/-! PROOFS. The encoding of instructions (R82-R106): the decoder and the encoder undo each other. -/

namespace Sys2Proof

/-! ### Fields of a word -/

theorem bits_getLsbD (w : Dword) (lo n i : Nat) : (bits w lo n).getLsbD i = (decide (i < n) && w.getLsbD (lo + i)) := by
  rw [bits, BitVec.getLsbD_extractLsb']

theorem bits_or (x y : Dword) (lo n : Nat) : bits (x ||| y) lo n = bits x lo n ||| bits y lo n := by
  apply BitVec.eq_of_getLsbD_eq
  intro i hi
  simp only [bits_getLsbD, BitVec.getLsbD_or, Bool.and_or_distrib_left]

/-- A field is read where it was put. -/
theorem bits_put {n lo : Nat} (x : BitVec n) (h : lo + n ≤ 64) : bits (put x lo) lo n = x := by
  apply BitVec.eq_of_getLsbD_eq
  intro i hi
  have inside : lo + i < 64 := by omega
  simp only [bits_getLsbD, put_getLsbD, hi, inside, Nat.le_add_right, Nat.add_sub_cancel_left, decide_true, Bool.true_and]

/-- A bit that a field does not reach is 0. -/
theorem put_getLsbD_of_apart {n lo i : Nat} (x : BitVec n) (h : i < lo ∨ lo + n ≤ i) : (put x lo).getLsbD i = false := by
  rw [put_getLsbD]
  rcases h with below | above
  · simp only [Nat.not_le.2 below, decide_false, Bool.false_and, Bool.and_false]
  · rw [BitVec.getLsbD_of_ge x (i - lo) (by omega), Bool.and_false, Bool.and_false]

/-- A field leaves 0 in every other. -/
theorem bits_put_of_apart {m n lo other : Nat} (x : BitVec m) (h : other + m ≤ lo ∨ lo + n ≤ other) :
    bits (put x other) lo n = 0#n := by
  apply BitVec.eq_of_getLsbD_eq
  intro i hi
  rw [bits_getLsbD, put_getLsbD_of_apart x (by omega), Bool.and_false, BitVec.getLsbD_zero]

theorem ofBool_getLsbD (w : Dword) (i : Nat) : BitVec.ofBool (w.getLsbD i) = bits w i 1 := by
  apply BitVec.eq_of_getLsbD_eq
  intro k hk
  obtain rfl : k = 0 := by omega
  rw [bits_getLsbD, BitVec.getLsbD_ofBool, Nat.add_zero, decide_eq_true hk, decide_eq_true rfl]

/-- A field of one bit is read where it was put. -/
theorem put_ofBool_getLsbD (b : Bool) {lo : Nat} (h : lo < 64) : (put (BitVec.ofBool b) lo).getLsbD lo = b := by
  rw [put_getLsbD, Nat.sub_self, BitVec.getLsbD_ofBool, decide_eq_true h, decide_eq_true (Nat.le_refl lo), decide_eq_true rfl,
    Bool.true_and, Bool.true_and, Bool.true_and]

/-- The bits of a word that a field reaches. -/
def fieldMask (n lo : Nat) : Dword := put (BitVec.allOnes n) lo

theorem fieldMask_getLsbD (n lo i : Nat) :
    (fieldMask n lo).getLsbD i = (decide (i < 64) && decide (lo ≤ i ∧ i < lo + n)) := by
  have inside : lo ≤ i ∧ i - lo < n ↔ lo ≤ i ∧ i < lo + n := by omega
  rw [fieldMask, put_getLsbD, BitVec.getLsbD_allOnes, ← Bool.decide_and, decide_eq_decide.2 inside]

/-- A field of a word, put back where it stands, is what the word has there. -/
theorem put_bits (w : Dword) (lo n : Nat) : put (bits w lo n) lo = w &&& fieldMask n lo := by
  apply BitVec.eq_of_getLsbD_eq
  intro i hi
  rw [put_getLsbD, bits_getLsbD, BitVec.getLsbD_and, fieldMask_getLsbD]
  by_cases h : lo ≤ i
  · have inside : i - lo < n ↔ i < lo + n := by omega
    simp only [Nat.add_sub_cancel' h, h, inside, true_and, decide_true, Bool.true_and, hi, Bool.and_comm]
  · simp only [h, false_and, decide_false, Bool.false_and, Bool.and_false]

/-- Clearing the bits of a field keeps a word exactly if the field is 0. -/
theorem and_not_fieldMask_iff (w : Dword) {n lo : Nat} (h : lo + n ≤ 64) : w &&& ~~~fieldMask n lo = w ↔ bits w lo n = 0#n := by
  constructor
  · intro kept
    have nothing : w &&& fieldMask n lo = 0#64 := by
      rw [← kept, BitVec.and_assoc, BitVec.and_comm (~~~_), BitVec.and_not_self]
      exact BitVec.and_zero
    rw [← bits_put (bits w lo n) h, put_bits, nothing, bits, BitVec.extractLsb'_zero]
  · intro zero
    have nothing : w &&& fieldMask n lo = 0#64 := by
      rw [← put_bits, zero, put, BitVec.setWidth_zero, BitVec.zero_shiftLeft]
    calc w &&& ~~~fieldMask n lo
        = (w &&& fieldMask n lo) ||| (w &&& ~~~fieldMask n lo) := by rw [nothing, BitVec.zero_or]
      _ = w := by rw [← BitVec.and_or_distrib_left, BitVec.or_not_self, BitVec.and_allOnes]

theorem and_and_eq_self (w a b : Dword) : w &&& (a &&& b) = w ↔ w &&& a = w ∧ w &&& b = w := by
  constructor
  · intro both
    constructor <;> (rw [← both]; ac_nf)
  · rintro ⟨first, second⟩
    rw [← BitVec.and_assoc, first, second]

/-! ### Formats

A format's field map loses the bits of a word that none of its fields holds; every field that it writes it reads again. -/

theorem VFields.ofWord_toWord (v : VFields) (op : BitVec 8) : VFields.ofWord (v.toWord op) = v := by
  simp (disch := decide) only [VFields.ofWord, VFields.toWord, bits_or, BitVec.getLsbD_or, bits_put, bits_put_of_apart,
    put_ofBool_getLsbD, put_getLsbD_of_apart, BitVec.zero_or, BitVec.or_zero, Bool.false_or, Bool.or_false]

theorem VFields.op_toWord (v : VFields) (op : BitVec 8) : bits (v.toWord op) 56 8 = op := by
  simp (disch := decide) only [VFields.toWord, bits_or, bits_put, bits_put_of_apart, BitVec.or_zero]

theorem VFields.toWord_ofWord (w : Dword) : (VFields.ofWord w).toWord (bits w 56 8) = w := by
  simp only [VFields.ofWord, VFields.toWord, ofBool_getLsbD, put_bits, ← BitVec.and_or_distrib_left]
  exact BitVec.and_allOnes

theorem MFields.ofWord_toWord (m : MFields) (op : BitVec 8) : MFields.ofWord (m.toWord op) = m := by
  simp (disch := decide) only [MFields.ofWord, MFields.toWord, bits_or, BitVec.getLsbD_or, bits_put, bits_put_of_apart,
    put_ofBool_getLsbD, put_getLsbD_of_apart, BitVec.zero_or, BitVec.or_zero, Bool.false_or, Bool.or_false]

theorem MFields.op_toWord (m : MFields) (op : BitVec 8) : bits (m.toWord op) 56 8 = op := by
  simp (disch := decide) only [MFields.toWord, bits_or, bits_put, bits_put_of_apart, BitVec.or_zero]

theorem MFields.toWord_ofWord (w : Dword) : (MFields.ofWord w).toWord (bits w 56 8) = w &&& ~~~fieldMask 1 54 := by
  simp only [MFields.ofWord, MFields.toWord, ofBool_getLsbD, put_bits, ← BitVec.and_or_distrib_left]
  rfl

theorem XFields.ofWord_toWord (x : XFields) (op : BitVec 8) : XFields.ofWord (x.toWord op) = x := by
  simp (disch := decide) only [XFields.ofWord, XFields.toWord, bits_or, BitVec.getLsbD_or, bits_put, bits_put_of_apart,
    put_ofBool_getLsbD, put_getLsbD_of_apart, BitVec.zero_or, BitVec.or_zero, Bool.false_or, Bool.or_false]

theorem XFields.op_toWord (x : XFields) (op : BitVec 8) : bits (x.toWord op) 56 8 = op := by
  simp (disch := decide) only [XFields.toWord, bits_or, bits_put, bits_put_of_apart, BitVec.or_zero]

theorem XFields.toWord_ofWord (w : Dword) : (XFields.ofWord w).toWord (bits w 56 8) = w &&& ~~~fieldMask 1 54 := by
  simp only [XFields.ofWord, XFields.toWord, ofBool_getLsbD, put_bits, ← BitVec.and_or_distrib_left]
  rfl

theorem EFields.ofWord_toWord (e : EFields) (op : BitVec 8) : EFields.ofWord (e.toWord op) = e := by
  simp (disch := decide) only [EFields.ofWord, EFields.toWord, bits_or, BitVec.getLsbD_or, bits_put, bits_put_of_apart,
    put_ofBool_getLsbD, put_getLsbD_of_apart, BitVec.zero_or, BitVec.or_zero, Bool.false_or, Bool.or_false]

theorem EFields.op_toWord (e : EFields) (op : BitVec 8) : bits (e.toWord op) 56 8 = op := by
  simp (disch := decide) only [EFields.toWord, bits_or, bits_put, bits_put_of_apart, BitVec.or_zero]

theorem EFields.toWord_ofWord (w : Dword) : (EFields.ofWord w).toWord (bits w 56 8) = w &&& ~~~fieldMask 1 54 := by
  simp only [EFields.ofWord, EFields.toWord, ofBool_getLsbD, put_bits, ← BitVec.and_or_distrib_left]
  rfl

theorem SFields.ofWord_toWord (f : SFields) (op : BitVec 8) : SFields.ofWord (f.toWord op) = f := by
  simp (disch := decide) only [SFields.ofWord, SFields.toWord, bits_or, BitVec.getLsbD_or, bits_put, bits_put_of_apart,
    put_ofBool_getLsbD, put_getLsbD_of_apart, BitVec.zero_or, BitVec.or_zero, Bool.false_or, Bool.or_false]

theorem SFields.op_toWord (f : SFields) (op : BitVec 8) : bits (f.toWord op) 56 8 = op := by
  simp (disch := decide) only [SFields.toWord, bits_or, bits_put, bits_put_of_apart, BitVec.or_zero]

theorem SFields.toWord_ofWord (w : Dword) : (SFields.ofWord w).toWord (bits w 56 8) = w &&& ~~~fieldMask 1 54 := by
  simp only [SFields.ofWord, SFields.toWord, ofBool_getLsbD, put_bits, ← BitVec.and_or_distrib_left]
  rfl

theorem KFields.ofWord_toWord (k : KFields) (op : BitVec 8) : KFields.ofWord (k.toWord op) = k := by
  simp (disch := decide) only [KFields.ofWord, KFields.toWord, bits_or, BitVec.getLsbD_or, bits_put, bits_put_of_apart,
    put_ofBool_getLsbD, put_getLsbD_of_apart, BitVec.zero_or, BitVec.or_zero, Bool.false_or, Bool.or_false]

theorem KFields.op_toWord (k : KFields) (op : BitVec 8) : bits (k.toWord op) 56 8 = op := by
  simp (disch := decide) only [KFields.toWord, bits_or, bits_put, bits_put_of_apart, BitVec.or_zero]

theorem KFields.toWord_ofWord (w : Dword) :
    (KFields.ofWord w).toWord (bits w 56 8) = w &&& (~~~fieldMask 1 54 &&& ~~~fieldMask 10 32) := by
  simp only [KFields.ofWord, KFields.toWord, ofBool_getLsbD, put_bits, ← BitVec.and_or_distrib_left]
  rfl

/-! ### One coding per format -/

/-- What the decoder and the encoder hold of a format: its field map, its opcodes and its checks. -/
structure Coding (F : Type) where
  format : Format
  ofWord : Dword → F
  toWord : F → BitVec 8 → Dword
  table : List (Nat × (F → Instr))
  reason : Nat → F → Option Nat

/-- The decoder's half of a coding (R82-R96, R106): a word of the format passes its checks if its fields pass theirs and hold all of
its bits, and then gives the instruction that the table has for its opcode. -/
structure Coding.Decodes {F : Type} (c : Coding F) : Prop where
  ofWord_toWord : ∀ f op, c.ofWord (c.toWord f op) = f
  op_toWord : ∀ f op, bits (c.toWord f op) 56 8 = op
  slotReason_iff : ∀ w, formatOf (opOf w) = some c.format →
    (slotReason w = none ↔ c.reason (opOf w) (c.ofWord w) = none ∧ c.toWord (c.ofWord w) (bits w 56 8) = w)
  instrOf_eq : ∀ w, formatOf (opOf w) = some c.format →
    instrOf w = (lookupOp (opOf w) c.table).map (fun mk => mk (c.ofWord w))

/-- The encoder's half: every entry of the table has its opcode and all its fields in its word, and is well-formed. -/
def Coding.Encodes {F : Type} (c : Coding F) : Prop :=
  ∀ e ∈ c.table, ∀ f, c.reason e.1 f = none →
    encode (e.2 f) = some (c.toWord f (BitVec.ofNat 8 e.1)) ∧ (e.2 f).wf = true

theorem decodeSlot_eq_ok {w : Dword} {i : Instr} : decodeSlot w = .ok i ↔ slotReason w = none ∧ instrOf w = some i := by
  unfold decodeSlot
  cases slotReason w with
  | some r => simp
  | none => cases instrOf w <;> simp

theorem mem_of_lookupOp {α : Type} {op : Nat} {x : α} : ∀ {l : List (Nat × α)}, lookupOp op l = some x → (op, x) ∈ l
  | [], h => nomatch h
  | (o, y) :: t, h => by
    rw [lookupOp] at h
    split at h
    · next same => rw [same, Option.some.inj h]; exact List.mem_cons_self
    · exact List.mem_cons_of_mem _ (mem_of_lookupOp h)

/-- The word with an entry's opcode and fields that pass the checks decodes to the entry's instruction. -/
theorem Coding.Decodes.decodeSlot_toWord {F : Type} {c : Coding F} (hc : c.Decodes) {op : BitVec 8} {mk : F → Instr} {f : F}
    (hf : formatOf op.toNat = some c.format) (hl : lookupOp op.toNat c.table = some mk) (hr : c.reason op.toNat f = none) :
    decodeSlot (c.toWord f op) = .ok (mk f) := by
  have opcode : opOf (c.toWord f op) = op.toNat := congrArg BitVec.toNat (hc.op_toWord f op)
  have format : formatOf (opOf (c.toWord f op)) = some c.format := by rw [opcode, hf]
  rw [decodeSlot_eq_ok, hc.slotReason_iff _ format, hc.instrOf_eq _ format, hc.ofWord_toWord, hc.op_toWord, opcode, hl]
  exact ⟨⟨hr, rfl⟩, rfl⟩

/-- An instruction to which a word of the format decodes is well-formed and has that word. -/
theorem Coding.Decodes.encode_of_decodeSlot {F : Type} {c : Coding F} (hc : c.Decodes) (he : c.Encodes) {w : Dword} {i : Instr}
    (hf : formatOf (opOf w) = some c.format) (h : decodeSlot w = .ok i) : encode i = some w ∧ i.wf = true := by
  obtain ⟨passes, instr⟩ := decodeSlot_eq_ok.1 h
  obtain ⟨fields_pass, no_bit_lost⟩ := (hc.slotReason_iff w hf).1 passes
  rw [hc.instrOf_eq w hf] at instr
  obtain ⟨mk, entry, rfl⟩ := Option.map_eq_some_iff.1 instr
  obtain ⟨word, wf⟩ := he _ (mem_of_lookupOp entry) (c.ofWord w) fields_pass
  have opcode : BitVec.ofNat 8 (opOf w) = bits w 56 8 := (BitVec.ofNat_toNat 8 _).trans (BitVec.setWidth_eq _)
  rw [opcode, no_bit_lost] at word
  exact ⟨word, wf⟩

/-! ### The codings of the six formats -/

/-- Format V, whose fields hold every bit. -/
def vCoding : Coding VFields := ⟨.v, VFields.ofWord, VFields.toWord, vTable, vReason⟩
/-- Format M; as in the formats below, no field holds `Q`. -/
def mCoding : Coding MFields := ⟨.m, MFields.ofWord, MFields.toWord, mTable, mReason⟩
/-- Format K, of which no field holds bits 41:32 either. -/
def kCoding : Coding KFields := ⟨.k, KFields.ofWord, KFields.toWord, kTable, kReason⟩
/-- Format X. -/
def xCoding : Coding XFields := ⟨.x, XFields.ofWord, XFields.toWord, xTable, xReason⟩
/-- Format E. -/
def eCoding : Coding EFields := ⟨.e, EFields.ofWord, EFields.toWord, eTable, eReason⟩
/-- Format S. -/
def sCoding : Coding SFields := ⟨.s, SFields.ofWord, SFields.toWord, sTable, sReason⟩

theorem withQ_eq_none (w : Dword) (r : Option Nat) : withQ w r = none ↔ r = none ∧ w &&& ~~~fieldMask 1 54 = w := by
  rw [and_not_fieldMask_iff w (by decide), ← ofBool_getLsbD]
  unfold withQ
  cases w.getLsbD 54 with
  | false => simp
  | true => cases r with
    | none => simp
    | some n => by_cases h : n ≤ 5 <;> simp [h]

/-! ### The decoder's halves -/

theorem vCoding_decodes : vCoding.Decodes where
  ofWord_toWord := VFields.ofWord_toWord
  op_toWord := VFields.op_toWord
  slotReason_iff w h := by simp only [slotReason, h, vCoding, VFields.toWord_ofWord, and_true]
  instrOf_eq w h := by simp only [instrOf, h, vCoding]

theorem mCoding_decodes : mCoding.Decodes where
  ofWord_toWord := MFields.ofWord_toWord
  op_toWord := MFields.op_toWord
  slotReason_iff w h := by simp only [slotReason, h, mCoding, MFields.toWord_ofWord, withQ_eq_none]
  instrOf_eq w h := by simp only [instrOf, h, mCoding]

theorem xCoding_decodes : xCoding.Decodes where
  ofWord_toWord := XFields.ofWord_toWord
  op_toWord := XFields.op_toWord
  slotReason_iff w h := by simp only [slotReason, h, xCoding, XFields.toWord_ofWord, withQ_eq_none]
  instrOf_eq w h := by simp only [instrOf, h, xCoding]

theorem eCoding_decodes : eCoding.Decodes where
  ofWord_toWord := EFields.ofWord_toWord
  op_toWord := EFields.op_toWord
  slotReason_iff w h := by simp only [slotReason, h, eCoding, EFields.toWord_ofWord, withQ_eq_none]
  instrOf_eq w h := by simp only [instrOf, h, eCoding]

theorem sCoding_decodes : sCoding.Decodes where
  ofWord_toWord := SFields.ofWord_toWord
  op_toWord := SFields.op_toWord
  slotReason_iff w h := by simp only [slotReason, h, sCoding, SFields.toWord_ofWord, withQ_eq_none]
  instrOf_eq w h := by simp only [instrOf, h, sCoding]

/-- Format K also checks the bits between `A` and the target. -/
theorem kCoding_decodes : kCoding.Decodes where
  ofWord_toWord := KFields.ofWord_toWord
  op_toWord := KFields.op_toWord
  slotReason_iff w h := by
    simp only [slotReason, h, kCoding, KFields.toWord_ofWord, withQ_eq_none, and_and_eq_self,
      and_not_fieldMask_iff w (show 32 + 10 ≤ 64 by decide)]
    cases kReason (opOf w) (KFields.ofWord w) with
    | some r => simp
    | none => by_cases low : bits w 32 10 = 0#10 <;> simp [low]
  instrOf_eq w h := by simp only [instrOf, h, kCoding]

/-! ### Checks of an instruction -/

theorem ifSelected_eq_none {sub : Bool} {r : Option Nat} : ifSelected sub r = none ↔ sub = true ∧ r = none := by
  cases sub <;> simp [ifSelected]

theorem Instr.wf_of_pass {i : Instr} {r : Option Nat} (h : i.check = some r) (pass : r = none) : i.wf = true := by
  rw [Instr.wf, h, pass]; rfl

/-- The same for one of several instructions that share an opcode. -/
theorem Instr.wf_of_selected {i : Instr} {sub : Bool} {r : Option Nat} (h : i.check = some (ifSelected sub r)) (selected : sub = true)
    (pass : r = none) : i.wf = true :=
  Instr.wf_of_pass h (ifSelected_eq_none.2 ⟨selected, pass⟩)

theorem Instr.pass_of_wf {i : Instr} {r : Option Nat} (wf : i.wf = true) (h : i.check = some r) : r = none := by
  rw [Instr.wf, h] at wf
  exact Option.isNone_iff_eq_none.1 wf

/-- Checks in the order of their reasons all pass if the first and the others do. -/
theorem firstReason_cons_eq_none {r : Nat} {c : Bool} {t : List (Nat × Bool)} :
    firstReason ((r, c) :: t) = none ↔ c = false ∧ firstReason t = none := by
  cases c <;> simp [firstReason]

/-! ### The encoder's halves

Every entry of a table is the constructor of its opcode, but those of the opcodes that several instructions share: MSKMOV behind 42
entries of format V, FRAGX behind 9 of format X, and WRSR and FLG behind 17 and 5 more of format S. -/

/-- MSKMOV has three forms, which `SUB` tells apart. -/
theorem sub_of_mskmov_pass {f : VFields} (pass : vReason 0x2A f = none) : f.sub = 0 ∨ f.sub = 1 ∨ f.sub = 2 := by
  have low : f.sub.toNat ≤ 2 := by
    refine Decidable.byContradiction fun high => ?_
    have reserved : vDesc 0x2A f.ty.toNat f.sub.toNat = none :=
      if_neg fun admitted => high (of_decide_eq_true (Bool.and_eq_true_iff.1 admitted).2)
    rw [vReason, reserved] at pass
    cases pass
  bv_omega

/-- FRAGX has three forms, which `SUB` tells apart. -/
theorem sub_of_fragx_pass {f : XFields} (pass : xReason 0xC9 f = none) : f.sub = 0 ∨ f.sub = 1 ∨ f.sub = 2 := by
  have admitted := (firstReason_cons_eq_none.1 pass).1
  have low : ¬ 3 ≤ f.sub.toNat := of_decide_eq_false (Bool.or_eq_false_iff.1 admitted).2
  bv_omega

/-- WRSR writes the special registers 0, 1 and 5 alone (R357). -/
theorem id_of_wrsr_pass {f : SFields} (pass : sReason 0xF3 f = none) : f.id = 0 ∨ f.id = 1 ∨ f.id = 5 := by
  have admitted := (firstReason_cons_eq_none.1 pass).1
  have writable := (Bool.or_eq_false_iff.1 (Bool.or_eq_false_iff.1 admitted).1).2
  simp only [Bool.and_eq_false_iff, Bool.not_eq_false', Bool.or_eq_true, decide_eq_true_eq, decide_true, Bool.true_eq_false,
    false_or] at writable
  bv_omega

/-- FLG has two forms, which `SUB` tells apart. -/
theorem sub_of_flg_pass {f : SFields} (pass : sReason 0xF9 f = none) : f.sub = 0 ∨ f.sub = 1 := by
  have admitted := (firstReason_cons_eq_none.1 pass).1
  simp only [Bool.or_eq_false_iff] at admitted
  obtain ⟨⟨⟨⟨⟨⟨⟨⟨form, -⟩, -⟩, -⟩, -⟩, -⟩, -⟩, -⟩, -⟩ := admitted
  have low : ¬ 2 ≤ f.sub.toNat := of_decide_eq_false form
  bv_omega

theorem vCoding_encodes : vCoding.Encodes := by
  iterate 42 refine List.forall_mem_cons.2 ⟨fun f pass => ⟨rfl, Instr.wf_of_pass rfl pass⟩, ?_⟩
  refine List.forall_mem_cons.2 ⟨fun f pass => ?_, ?_⟩
  · rcases sub_of_mskmov_pass pass with h | h | h <;>
    · simp only [h]
      exact ⟨rfl, Instr.wf_of_selected rfl (decide_eq_true h) pass⟩
  iterate 47 refine List.forall_mem_cons.2 ⟨fun f pass => ⟨rfl, Instr.wf_of_pass rfl pass⟩, ?_⟩
  exact List.forall_mem_nil _

theorem mCoding_encodes : mCoding.Encodes := by
  iterate 19 refine List.forall_mem_cons.2 ⟨fun f pass => ⟨rfl, Instr.wf_of_pass rfl pass⟩, ?_⟩
  exact List.forall_mem_nil _

theorem kCoding_encodes : kCoding.Encodes := by
  iterate 15 refine List.forall_mem_cons.2 ⟨fun f pass => ⟨rfl, Instr.wf_of_pass rfl pass⟩, ?_⟩
  exact List.forall_mem_nil _

theorem xCoding_encodes : xCoding.Encodes := by
  iterate 9 refine List.forall_mem_cons.2 ⟨fun f pass => ⟨rfl, Instr.wf_of_pass rfl pass⟩, ?_⟩
  refine List.forall_mem_cons.2 ⟨fun f pass => ?_, List.forall_mem_nil _⟩
  rcases sub_of_fragx_pass pass with h | h | h <;>
  · simp only [h]
    exact ⟨rfl, Instr.wf_of_selected rfl (decide_eq_true h) pass⟩

theorem eCoding_encodes : eCoding.Encodes := by
  iterate 13 refine List.forall_mem_cons.2 ⟨fun f pass => ⟨rfl, Instr.wf_of_pass rfl pass⟩, ?_⟩
  exact List.forall_mem_nil _

theorem sCoding_encodes : sCoding.Encodes := by
  iterate 17 refine List.forall_mem_cons.2 ⟨fun f pass => ⟨rfl, Instr.wf_of_pass rfl pass⟩, ?_⟩
  refine List.forall_mem_cons.2 ⟨fun f pass => ?_, ?_⟩
  · rcases id_of_wrsr_pass pass with h | h | h <;>
    · simp only [h]
      exact ⟨rfl, Instr.wf_of_selected rfl (decide_eq_true h) pass⟩
  iterate 5 refine List.forall_mem_cons.2 ⟨fun f pass => ⟨rfl, Instr.wf_of_pass rfl pass⟩, ?_⟩
  refine List.forall_mem_cons.2 ⟨fun f pass => ?_, List.forall_mem_nil _⟩
  rcases sub_of_flg_pass pass with h | h <;>
  · simp only [h]
    exact ⟨rfl, Instr.wf_of_selected rfl (decide_eq_true h) pass⟩

/-! ### The round trip -/

/-- The word of a well-formed entry decodes to it. -/
theorem Coding.Decodes.decodeSlot_of_wf {F : Type} {c : Coding F} (hc : c.Decodes) {i : Instr} {w : Dword} {op : BitVec 8} {f : F}
    {mk : F → Instr} (word : encode i = some w) (fields : encode i = some (c.toWord f op)) (hf : formatOf op.toNat = some c.format)
    (hl : lookupOp op.toNat c.table = some mk) (hi : mk f = i) (pass : c.reason op.toNat f = none) : decodeSlot w = .ok i := by
  rw [← hi, ← Option.some.inj (fields.symm.trans word)]
  exact hc.decodeSlot_toWord hf hl pass

/-- The word of a well-formed instruction decodes to it.  Each constructor is the entry of its opcode; steps of the device have no
word. -/
theorem decodeSlot_of_encode {i : Instr} {w : Dword} (wf : i.wf = true) (word : encode i = some w) : decodeSlot w = .ok i := by
  cases i
  case iadd f | isub f | imul f | imulh f | imad f | imadw f | iaddc f | isubb f | imin f | imax f | iabs f | isad f |
    iclamp f | idot2 f | idot4 f | icmp f | andB f | orB f | xorB f | andn f | lop3 f | shl f | shr f | sar f | rot f |
    fshf f | bfe f | bfi f | brev f | popc f | clz f | ctz f | mov f | movl f | sel f | prmt f | sext f | mkaff f |
    mkgen f | shape f | laneid f | mskop f | fadd f | fsub f | fmul f | ffma f | fmin f | fmax f | fminm f | fmaxm f |
    fcmp f | frnd f | ffrac f | fclass f | fldexp f | fexpo f | fmant f | fdot2 f | fdot4 f | fcpys f | fmed3 f | cvt f |
    cvtpk f | cvtup f | qblk f | dqblk f | rcp f | rsq f | sqrt f | exp2 f | log2 f | sinpi f | cospi f | tanh f | sigm f |
    tbl f | tbli f | divf f | shfl f | rdfirst f | rdlane f | wrlane f | vote f | matchKey f | compact f | expand f |
    reduce f | scan f | sortk f =>
    exact vCoding_decodes.decodeSlot_of_wf word rfl rfl rfl rfl (Instr.pass_of_wf wf rfl)
  case ifCond f | elseJoin f | endif f | loop f | endloop f | brk f | cont f | jmp f | jmpu f | call f | calli f | ret f |
    exit f | setbnd f | nop f =>
    exact kCoding_decodes.decodeSlot_of_wf word rfl rfl rfl rfl (Instr.pass_of_wf wf rfl)
  case ld f | st f | ldu f | ldq f | stq f | atom f | cas f | atomu f | fence f | waitv f | bsalloc f | bsfree f |
    bsshare f | bslook f | tex f | texg f | rayq f | rayb f | attr f =>
    exact mCoding_decodes.decodeSlot_of_wf word rfl rfl rfl rfl (Instr.pass_of_wf wf rfl)
  case mma f | mmas f | mloop f | mloops f | accz f | accld f | accst f | accdrain f | mapchk f =>
    exact xCoding_decodes.decodeSlot_of_wf word rfl rfl rfl rfl (Instr.pass_of_wf wf rfl)
  case cpy f | cpyx f | pfl2 f | gathr f | scatb f | binrpl f | mrgo f | mrgp f | mrgc f | mrgs f | tokw f | tokq f |
    cancel f =>
    exact eCoding_decodes.decodeSlot_of_wf word rfl rfl rfl rfl (Instr.pass_of_wf wf rfl)
  case bar f | bara f | barw f | spawn f | emit f | claim f | regrp f | cbload f | cbcommit f | gwr f | gatom f | qsig f |
    sleep f | framec f | trap f | rte f | rdsr f | clk f | bkpt f | rply f | harvest f | diag f =>
    exact sCoding_decodes.decodeSlot_of_wf word rfl rfl rfl rfl (Instr.pass_of_wf wf rfl)
  case mskmov f | mskmovLane f | mskmovWord f =>
    obtain ⟨selected, pass⟩ := ifSelected_eq_none.1 (Instr.pass_of_wf wf rfl)
    exact vCoding_decodes.decodeSlot_of_wf word rfl rfl rfl (by simp [of_decide_eq_true selected]) pass
  case fragxGet f | fragxPut f | fragxStat f =>
    obtain ⟨selected, pass⟩ := ifSelected_eq_none.1 (Instr.pass_of_wf wf rfl)
    exact xCoding_decodes.decodeSlot_of_wf word rfl rfl rfl (by simp [of_decide_eq_true selected]) pass
  case wrsrCtl f | wrsrFlags f | wrsrSeed f | flgClr f | flgTest f =>
    obtain ⟨selected, pass⟩ := ifSelected_eq_none.1 (Instr.pass_of_wf wf rfl)
    exact sCoding_decodes.decodeSlot_of_wf word rfl rfl rfl (by simp [of_decide_eq_true selected]) pass
  all_goals cases word

theorem encode_of_decodeSlot {i : Instr} {w : Dword} (h : decodeSlot w = .ok i) : encode i = some w ∧ i.wf = true := by
  have passes := (decodeSlot_eq_ok.1 h).1
  cases hf : formatOf (opOf w) with
  | none => simp [slotReason, hf] at passes
  | some fm =>
    cases fm with
    | p => simp [slotReason, hf] at passes
    | v => exact vCoding_decodes.encode_of_decodeSlot vCoding_encodes hf h
    | m => exact mCoding_decodes.encode_of_decodeSlot mCoding_encodes hf h
    | k => exact kCoding_decodes.encode_of_decodeSlot kCoding_encodes hf h
    | x => exact xCoding_decodes.encode_of_decodeSlot xCoding_encodes hf h
    | e => exact eCoding_decodes.encode_of_decodeSlot eCoding_encodes hf h
    | s => exact sCoding_decodes.encode_of_decodeSlot sCoding_encodes hf h

/-- Settles O33: both halves go through the coding of the word's format. -/
theorem encodingRoundTrip : Obligations.EncodingRoundTrip :=
  ⟨fun _ _ => decodeSlot_of_encode, fun _ _ => encode_of_decodeSlot⟩

/-- Settles O37: the decoder evaluates on each word, and gives its fields. -/
theorem wordsDecode : Obligations.WordsDecode := by
  refine ⟨⟨_, rfl, rfl, rfl, rfl, rfl⟩, ⟨_, rfl, rfl, rfl, rfl, rfl, rfl⟩, ⟨_, rfl, rfl, rfl, rfl, rfl⟩, ⟨_, rfl, rfl⟩, ⟨_, rfl⟩,
    ⟨_, rfl, rfl, rfl, rfl, rfl, rfl, rfl, rfl⟩, ⟨_, rfl, rfl⟩, ⟨_, rfl, rfl, rfl⟩, ⟨_, rfl, rfl⟩, ⟨_, rfl, rfl⟩, rfl, rfl⟩

end Sys2Proof
end

section
/-! PROOFS. The end of a slot that transfers no control (R79, R97). -/

namespace Sys2Proof.Machine

/-! ### The warp after the slot -/

theorem Warp.rslOf_moveTo (w : Warp) (lanes : Word) (pc : Dword) {l : Nat} (h : l < 32) :
    (w.moveTo lanes pc).rslOf l = if lanes.getLsbD l then 0 else w.rslOf l := by
  unfold Warp.rslOf Warp.moveTo
  exact lanes_getD (fun l => if lanes.getLsbD l then 0 else w.rslOf l) 0 h

theorem Warp.waitOf_moveTo (w : Warp) (lanes : Word) (pc : Dword) {l : Nat} (h : l < 32) :
    (w.moveTo lanes pc).waitOf l = if lanes.getLsbD l then .none else w.waitOf l := by
  unfold Warp.waitOf Warp.moveTo
  exact lanes_getD (fun l => if lanes.getLsbD l then .none else w.waitOf l) .none h

/-- A slot that records a yield changes the yields of its warp, and nothing else. -/
theorem Cx.yielding_eq (c : Cx) (y : Bool) : ∃ ys, c.yielding y = { c with w := { c.w with yields := ys } } := by
  unfold Cx.yielding
  split
  · exact ⟨_, rfl⟩
  · exact ⟨c.w.yields, rfl⟩

/-- The warp `v` and the clause `r` that the end of a slot puts back: the warp of the slot but for where its lanes stand, and for
its yields; the clause at its next slot, or none when the lanes have left it. -/
def Cx.Ended (c : Cx) (v : Warp) (r : Option Running) : Prop :=
  { v with pcs := c.w.pcs, rsl := c.w.rsl, came := c.w.came, wait := c.w.wait, yields := c.w.yields } = c.w ∧
  (∀ l < 32, c.run.lanes.getLsbD l = false → v.pcOf l = c.w.pcOf l ∧ v.waitOf l = c.w.waitOf l ∧ v.rslOf l = c.w.rslOf l) ∧
  if c.slot + 1 < c.run.words.length then
    r = some { c.run with idx := c.slot + 1, lanes := c.joined (c.slot + 1) } ∧ v.pcs = c.w.pcs ∧ v.rsl = c.w.rsl ∧ v.wait = c.w.wait
  else
    r = none ∧ ∀ l < 32, c.run.lanes.getLsbD l = true → v.pcOf l = c.after ∧ v.waitOf l = .none ∧ v.rslOf l = 0

/-- The end of a slot puts back its warp and its clause as `Cx.Ended` says. -/
theorem Cx.finish_eq_commit (c : Cx) (y : Bool) : ∃ v r, c.finish y = ({ c with w := v } : Cx).commit r ∧ c.Ended v r := by
  obtain ⟨ys, yields⟩ := c.yielding_eq y
  rcases c.finish_cases y with ⟨inside, ends⟩ | ⟨last, ends⟩
  · rw [yields] at ends
    exact ⟨_, _, ends, rfl, fun _ _ _ => ⟨rfl, rfl, rfl⟩, by rw [if_pos inside]; exact ⟨rfl, rfl, rfl, rfl⟩⟩
  · rw [yields] at ends
    refine ⟨_, _, ends, rfl, fun l hl out => ?_, ?_⟩
    · rw [Warp.pcOf_moveTo _ _ _ hl, Warp.waitOf_moveTo _ _ _ hl, Warp.rslOf_moveTo _ _ _ hl, out]
      exact ⟨rfl, rfl, rfl⟩
    · rw [if_neg (Nat.not_lt.2 last)]
      refine ⟨rfl, fun l hl issued => ?_⟩
      rw [Warp.pcOf_moveTo _ _ _ hl, Warp.waitOf_moveTo _ _ _ hl, Warp.rslOf_moveTo _ _ _ hl, issued]
      exact ⟨rfl, rfl, rfl⟩

/-! ### The machine after the slot -/

/-- The slot of a partition stands in a column of the device. -/
theorem cx_col_lt {s : State} {c : Cx} (h : cx s = some c) : c.col < s.columns.length := by
  obtain ⟨-, -, -, -, runs⟩ := cx_parts h
  refine Nat.lt_of_not_le fun beyond => ?_
  have fresh : s.column c.col = Column.reset c.col := by
    rw [State.column, List.getD_eq_getElem?_getD, List.getElem?_eq_none beyond, Option.getD_none]
  obtain ⟨p, part, running⟩ := Option.bind_eq_some_iff.1 runs
  rw [fresh] at part
  have idle : p = { running := none, lastSlot := 15 } := List.eq_of_mem_replicate (List.mem_of_getElem? part)
  rw [idle] at running
  cases running

/-- What a slot's end leaves but for the groups and the columns. -/
theorem Cx.commit_rest (c : Cx) (r : Option Running) : { c.commit r with groups := c.s.groups, columns := c.s.columns } = c.s := rfl

theorem Cx.commit_group (c : Cx) (r : Option Running) (uid : Nat) :
    (c.commit r).group uid = if c.g.uid = uid then (c.s.group uid).map (fun _ => c.g.setWarp c.w) else c.s.group uid :=
  State.group_setGroup c.s (c.g.setWarp c.w) uid

/-- A slot's end replaces the clause of its partition. -/
theorem Cx.commit_column {c : Cx} {p : Partition} (r : Option Running) (hcol : c.col < c.s.columns.length)
    (hpart : (c.s.column c.col).parts[c.part]? = some p) (col : Nat) :
    (c.commit r).column col = if col = c.col then
      { c.s.column c.col with parts := (c.s.column c.col).parts.set c.part { p with running := r } } else c.s.column col := by
  have same : (c.s.setGroup (c.g.setWarp c.w)).column c.col = c.s.column c.col := rfl
  simp only [Cx.commit, State.updColumn, same, hpart]
  exact State.column_setColumn (c.s.setGroup (c.g.setWarp c.w)) c.col col _ hcol

/-- Settles O1: the end of a slot puts back one warp of its group (`Cx.commit_group`) and the clause of its partition
(`Cx.commit_column`), both as `Cx.Ended` says. -/
theorem slotEndMovesOn : Obligations.SlotEndMovesOn := by
  intro s t c w y hc hw ht
  obtain ⟨v, r, ends, same, others, clause⟩ := ({ c with w := w } : Cx).finish_eq_commit y
  obtain ⟨-, -, hgroup, hwarp, runs⟩ := cx_parts hc
  obtain ⟨p, part, -⟩ := Option.bind_eq_some_iff.1 runs
  have hcol := cx_col_lt hc
  obtain rfl := cx_state hc
  rw [← ht] at ends
  have group (uid : Nat) : t.group uid = if c.g.uid = uid then (c.s.group uid).map (fun _ => c.g.setWarp v) else c.s.group uid :=
    ends ▸ Cx.commit_group _ r uid
  have column (col : Nat) : t.column col = if col = c.col then
      { c.s.column c.col with parts := (c.s.column c.col).parts.set c.part { p with running := r } } else c.s.column col :=
    ends ▸ Cx.commit_column (c := { c with w := v }) r hcol part col
  have wid : v.wid = c.w.wid := (congrArg Warp.wid same).trans hw
  have inParts : c.part < (c.s.column c.col).parts.length := (List.getElem?_eq_some_iff.1 part).1
  refine ⟨ends ▸ Cx.commit_rest { c with w := v } r, fun uid other => ?_, fun col other => ?_, ?_, fun q other => ?_,
    c.g.setWarp v, v, { p with running := r }, ?_, rfl, fun k other => ?_, ?_, same, ?_, others, ?_⟩
  · rw [group, if_neg (Ne.symm other)]
  · rw [column, if_neg other]
  · rw [column, if_pos rfl]
  · rw [column, if_pos rfl, List.getElem?_set_ne (Ne.symm other)]
  · rw [group, if_pos rfl, State.group_uid hgroup, hgroup]; rfl
  · rw [Group.warp_setWarp, if_neg (wid ▸ Ne.symm other)]
  · rw [Group.warp_setWarp, if_pos wid, Group.warp_wid hwarp, hwarp]; rfl
  · rw [column, if_pos rfl, List.getElem?_set_self inParts]
  · exact clause

end Sys2Proof.Machine
end

section
/-! PROOFS. The matrix product of MMA and MMAS, and the sum of one of its steps (R138-R140, R280, R281). -/

namespace Sys2Proof.Machine

/-! ### Registers that a slot puts on their way -/

/-- What holds of the warp of a completed slot, weakened. -/
theorem Cx.Gives.imp {c : Cx} {o : Host.Outcome State Fault Refusal} {y : Bool} {P Q : Warp → Prop} (h : c.Gives o y P)
    (weaker : ∀ w, P w → Q w) : c.Gives o y Q := by
  obtain ⟨w, ends, lands⟩ := h
  exact ⟨w, ends, weaker _ lands⟩

/-- A slot that puts an operation on its way adds a flight with its results, and changes nothing else of its warp but the number
of the next flight and a counter (R98, R99). -/
theorem Cx.launchFlight_eq (c : Cx) (counter : Option Nat) (dests : List Dest) (flags : List (BitVec 5)) (kind : FlightKind)
    (log : Option Nat) (remote : List RemoteReq) (gens : List Nat) : ∃ (f : Flight) (next : Nat) (counters : List Nat),
      c.launchFlight counter dests flags kind log remote gens =
        { c with w := { c.w with flights := c.w.flights ++ [f], nextFlight := next, counters } } ∧
      f.id = c.w.nextFlight ∧ f.dests = dests ∧ f.flags = flags := by
  cases counter <;> exact ⟨_, _, _, rfl, rfl, rfl, rfl⟩

/-- With one flight more than at issue, the results of the slot are those of that flight. -/
theorem Cx.landed_of_flight {c : Cx} {w : Warp} {f : Flight} (sent : w.flights = c.w.flights ++ [f]) :
    c.landed w = w.takeResult f := by
  rw [Cx.landed, sent, List.drop_left, List.foldl_cons, List.foldl_nil]

@[simp] theorem Warp.endFlight_reg (w : Warp) (i q : Nat) : (w.endFlight i).reg q = w.reg q := by
  obtain ⟨regs, -⟩ := Warp.endFlight_parts w i
  simp only [Warp.reg, regs]

@[simp] theorem Warp.endFlight_mask (w : Warp) (i m : Nat) : (w.endFlight i).mask m = w.mask m := by
  obtain ⟨-, masks, live, -⟩ := Warp.endFlight_parts w i
  simp only [Warp.mask, masks, live]

/-- No flag enables no trap (R134). -/
theorem Warp.enabledLanes_nil (w : Warp) : w.enabledLanes [] = 0 := by
  have raises (l : Nat) : decide (([] : List (BitVec 5)).getD l 0 &&& w.trapEnables ≠ 0) = false :=
    decide_eq_false (not_not_intro BitVec.zero_and)
  exact foldl_of_fixed _ fun l _ => if_neg (Bool.eq_false_iff.1 (raises l))

/-- RESULT_WRITTEN of registers without flags: they are written, and the operation ends (R98). -/
theorem Warp.takeResult_vecs (w : Warp) {f : Flight} {lanes : Word} {rs : List (Nat × Reg)}
    (dests : f.dests = rs.map (fun x => .vec x.1 lanes x.2)) (flags : f.flags = []) :
    w.takeResult f = ((rs.foldl (fun w x => w.setReg x.1 x.2) w).addFlags []).endFlight f.id := by
  unfold Warp.takeResult
  rw [flags, Warp.enabledLanes_nil, dests, List.foldl_map]
  rfl

/-- A slot that puts values for different registers on their way, and no flag, completes with them written and with nothing
else of its warp changed. -/
theorem Cx.launchFlight_gives (c : Cx) (counter : Option Nat) (rs : List (Nat × Reg)) (lanes : Word) (y : Bool)
    (distinct : (rs.map Prod.fst).Nodup) :
    c.Gives (.next ((c.launchFlight counter (rs.map (fun x => .vec x.1 lanes x.2)) [] .result none [] []).finish y)) y
      (fun w => c.Keeps w (rs.map Prod.fst) [] ∧ c.Calm w ∧ ∀ x ∈ rs, w.reg x.1 = x.2) := by
  obtain ⟨f, next, counters, launch, id, dests, noFlags⟩ :=
    c.launchFlight_eq counter (rs.map (fun x => .vec x.1 lanes x.2)) [] .result none [] []
  rw [launch]
  refine ⟨_, rfl, ?_⟩
  rw [Cx.landed_of_flight rfl, Warp.takeResult_vecs _ dests noFlags, id]
  obtain ⟨v, issued⟩ : ∃ v, v = { c.w with flights := c.w.flights ++ [f], nextFlight := next, counters } := ⟨_, rfl⟩
  rw [← issued]
  obtain ⟨-, -, flags, causes, -, gens⟩ := Warp.foldl_setReg_fields rs v
  obtain ⟨-, -, -, endFlags, endGens, endCauses⟩ :=
    Warp.endFlight_parts ((rs.foldl (fun w x => w.setReg x.1 x.2) v).addFlags []) c.w.nextFlight
  refine ⟨⟨fun q out => ?_, fun m _ => ?_, ?_, ?_⟩, ⟨?_, fun l hl => ⟨?_, ?_⟩⟩, fun x hx => ?_⟩
  · rw [Warp.endFlight_reg]
    exact (Warp.reg_foldl_setReg_other q rs v (fun x hx e => out (e ▸ List.mem_map_of_mem hx))).trans (issued ▸ rfl)
  · rw [Warp.endFlight_mask]
    exact (Warp.foldl_setReg_mask m rs v).trans (issued ▸ rfl)
  · have owes := Warp.endFlight_owes ((rs.foldl (fun w x => w.setReg x.1 x.2) v).addFlags []) c.w.nextFlight
    have unack : ((rs.foldl (fun w x => w.setReg x.1 x.2) v).addFlags []).unack = c.w.unack :=
      (Warp.foldl_setReg_unack rs v).trans (issued ▸ rfl)
    rwa [unack] at owes
  · show Warp.blank (Warp.endFlight _ _) c.w = c.w
    rw [Warp.blank_endFlight, Warp.blank_addFlags, Warp.blank_foldl_setReg, issued]
    rfl
  · exact endCauses.trans (causes.trans (issued ▸ rfl))
  · rw [Warp.flagOf, endFlags]
    refine (Warp.flagOf_addFlags _ [] hl).trans ?_
    rw [Warp.flagOf, flags, List.getD_nil, issued]
    exact BitVec.or_zero
  · rw [endGens]
    exact congrArg (List.getD · l 0) (gens.trans (issued ▸ rfl))
  · rw [Warp.endFlight_reg]
    exact Warp.reg_foldl_setReg x.1 x.2 rs v distinct hx

/-! ### The matrix instructions -/

/-- The lanes of an MMA or MMAS that are live and in its mask (R280). -/
def Cx.mmaLanes (c : Cx) (x : XFields) : Word := c.w.live &&& c.w.mask (x.sub.toNat % 8)

/-- The shape of the operands of an MMA or MMAS (R274). -/
def mmaShape (x : XFields) (sparse : Bool) : FragShape :=
  { w := shapeW x.shape.toNat, k := shapeK x.shape.toNat sparse, sparse }

/-- The inputs of an MMA or MMAS are integers. -/
def Cx.mmaInts (c : Cx) (x : XFields) : Bool := intType (FSlot.ofWord (c.slotWord x.fa)).etype

/-- Row `m` of A (R278, R280). -/
def Cx.mmaRow (c : Cx) (x : XFields) (sparse : Bool) (m : Nat) : List FVal :=
  c.w.fragRow (mmaShape x sparse) (FSlot.ofWord (c.slotWord x.fa)) true x.a.toNat (c.mmaLanes x) m

/-- Column `n` of B (R278, R280). -/
def Cx.mmaCol (c : Cx) (x : XFields) (sparse : Bool) (n : Nat) : List FVal :=
  c.w.fragRow (mmaShape x sparse) (FSlot.ofWord (c.slotWord x.fb)) false x.b.toNat (c.mmaLanes x) n

/-- The element of D that lane `l` holds in its register `j` (R138-R140, R278). -/
def Cx.mmaElem (c : Cx) (x : XFields) (sparse : Bool) (j l : Nat) : Word :=
  let row := c.mmaRow x sparse (l % 16)
  let col := c.mmaCol x sparse (8 * (l / 16) + j)
  if c.mmaInts x = false ∧ (∃ e ∈ row ++ col, e.finite = false) then 0x7FC00000#32
  else stepAdd (c.mmaInts x) (if x.zc then 0 else c.w.rd (x.c.toNat + j) l) row col

/-- The word of lane `l` in register `j` of D: an inactive lane keeps its own (R280). -/
def Cx.mmaWord (c : Cx) (x : XFields) (sparse : Bool) (j l : Nat) : Word :=
  if (c.mmaLanes x).getLsbD l = false then c.w.rd (x.c.toNat + j) l else c.mmaElem x sparse j l

theorem Cx.mmaWord_active {c : Cx} {x : XFields} {l : Nat} (sparse : Bool) (j : Nat) (active : (c.mmaLanes x).getLsbD l = true) :
    c.mmaWord x sparse j l = c.mmaElem x sparse j l := if_neg (by rw [active]; decide)

theorem Cx.mmaWord_inactive {c : Cx} {x : XFields} {l : Nat} (sparse : Bool) (j : Nat)
    (inactive : (c.mmaLanes x).getLsbD l = false) : c.mmaWord x sparse j l = c.w.rd (x.c.toNat + j) l := if_pos inactive

theorem Cx.mmaElem_int {c : Cx} {x : XFields} (sparse : Bool) (j l : Nat) (ints : c.mmaInts x = true) :
    c.mmaElem x sparse j l = stepAdd true (if x.zc then 0 else c.w.rd (x.c.toNat + j) l) (c.mmaRow x sparse (l % 16))
      (c.mmaCol x sparse (8 * (l / 16) + j)) := by
  simp only [Cx.mmaElem, ints, Bool.true_eq_false, false_and, if_false]

/-- Register `j` of D. -/
def Cx.mmaReg (c : Cx) (x : XFields) (sparse : Bool) (j : Nat) : Nat × Reg :=
  (x.c.toNat + j, .g ((List.range 32).map (c.mmaWord x sparse j)))

/-- No slot is bad where none breaks R124. -/
theorem firstBadSlot_eq_none {ws : List (Nat × Dword)} (good : ∀ x ∈ ws, slotFormatReason x.2 = none) :
    firstBadSlot ws = none :=
  List.findSome?_eq_none_iff.2 fun x hx => by rw [good x hx, Option.map_none]

/-- Registers within the budget raise no fault (R72). -/
theorem Cx.regFault_eq_none {c : Cx} {us : List RegUse} (h : c.w.badReg us = none) : c.regFault us = none := by
  rw [Cx.regFault, h]

/-- A row or a column is marked when an element of it is not finite (R140). -/
theorem marked_iff (ints : Bool) (row col : List FVal) :
    (!ints && row.any (fun e => !e.finite) || !ints && col.any (fun e => !e.finite)) = true ↔
      ints = false ∧ ∃ e ∈ row ++ col, e.finite = false := by
  rw [← Bool.and_or_distrib_left, ← List.any_append, Bool.and_eq_true, List.any_eq_true]
  simp only [Bool.not_eq_true']

/-- MMA and MMAS whose checks pass put D on its way. -/
theorem runMma_of_ready {s : State} {c c' : Cx} {x : XFields} {sparse : Bool} (hc : cx s = some c) (hg : c.gather = .ok c')
    (ready : mmaReady c' x sparse = true) :
    runMma sparse x s = .next ((c'.launchFlight (some 3) (((List.range 8).map (c'.mmaReg x sparse)).map
      (fun r => .vec r.1 (c'.mmaLanes x) r.2)) [] .result none [] []).finish x.y) := by
  simp only [mmaReady, Bool.and_eq_true, Bool.or_eq_true, Bool.not_eq_eq_eq_not, Bool.not_true, Option.isNone_iff_eq_none,
    decide_eq_true_eq, beq_iff_eq, Decidable.or_iff_not_imp_left] at ready
  obtain ⟨⟨⟨⟨⟨⟨⟨⟨⟨free, room⟩, formats⟩, inA⟩, inB⟩, same⟩, acc⟩, regs⟩, wide⟩, blocks⟩ := ready
  have slots : firstBadSlot [(x.fa.toNat, c'.slotWord x.fa), (x.fb.toNat, c'.slotWord x.fb),
      (x.fc.toNat, c'.slotWord x.fc)] = none :=
    firstBadSlot_eq_none (by simpa using formats)
  have noCompact : (List.range 8).find? (fun i => c'.w.compact (x.c.toNat + i)) = none :=
    List.find?_eq_none.2 (by simpa using wide)
  have noFault := Cx.regFault_eq_none regs
  simp only [runMma, hc, hg]
  rw [if_neg (by simpa using ⟨free, room⟩), slots]
  dsimp only
  rw [if_neg (by simpa using inA), if_neg (by simpa using ⟨inB, same⟩), if_neg (by simpa using acc), noFault]
  dsimp only
  rw [noCompact]
  dsimp only
  rw [if_neg (by simpa using blocks)]
  refine congrArg (fun ds => Host.Outcome.next ((c'.launchFlight (some 3) ds [] .result none [] []).finish x.y)) ?_
  rw [List.map_map]
  refine List.map_congr_left fun j hj => congrArg (fun ws => Dest.vec (x.c.toNat + j) (c'.mmaLanes x) (.g ws)) ?_
  refine List.map_congr_left fun l hl => ?_
  have inRows : l % 16 < 16 := Nat.mod_lt _ (by decide)
  have inCols : 8 * (l / 16) + j < 16 := by
    have := List.mem_range.1 hj
    have := List.mem_range.1 hl
    omega
  rw [getD_map_range _ _ inRows, getD_map_range _ _ inCols]
  cases active : (c'.mmaLanes x).getLsbD l with
  | false => exact (if_neg (Bool.eq_false_iff.1 active)).trans (Cx.mmaWord_inactive sparse j active).symm
  | true =>
    refine (if_pos active).trans (Eq.trans ?_ (Cx.mmaWord_active sparse j active).symm)
    exact ite_congr (propext (marked_iff _ _ _)) (fun _ => rfl) (fun _ => rfl)

/-- MMA and MMAS complete with D written, and leave everything else of the warp (R98, R281). -/
theorem mma_gives {s : State} {c c' : Cx} {x : XFields} {sparse : Bool} (hc : cx s = some c) (hg : c.gather = .ok c')
    (ready : mmaReady c' x sparse = true) :
    c'.Gives (exec (if sparse then .mmas x else .mma x) s) x.y (fun w =>
      c'.Keeps w ((List.range 8).map (x.c.toNat + ·)) [] ∧ c'.Calm w ∧
      ∀ j < 8, ∀ l < 32, w.rd (x.c.toNat + j) l = c'.mmaWord x sparse j l) := by
  have runs : exec (if sparse then .mmas x else .mma x) s = runMma sparse x s := by cases sparse <;> rfl
  have names : ((List.range 8).map (c'.mmaReg x sparse)).map Prod.fst = (List.range 8).map (x.c.toNat + ·) := List.map_map
  have distinct : ((List.range 8).map (x.c.toNat + ·)).Nodup := List.range'_eq_map_range ▸ List.nodup_range'
  rw [runs, runMma_of_ready hc hg ready]
  refine (c'.launchFlight_gives _ _ _ _ (names ▸ distinct)).imp fun w ⟨keeps, calm, written⟩ =>
    ⟨names ▸ keeps, calm, fun j hj l hl => ?_⟩
  have reg : w.reg (x.c.toNat + j) = _ := written _ (List.mem_map_of_mem (List.mem_range.2 hj))
  rw [Warp.rd, reg]
  exact lanes_getD _ 0 hl

/-- Settles O14: the results of the slot are those of `Cx.mmaWord`, and nothing else changes (`mma_gives`). -/
theorem matrixProductResults : Obligations.MatrixProductResults := fun _ _ _ _ _ hc hg ready => mma_gives hc hg ready

/-! ### The sum of a step (R138, R139) -/

/-- With integer inputs the products are summed exactly, and added modulo 2^32 (R139). -/
theorem stepAdd_int (acc : Word) (as bs : List FVal) :
    stepAdd true acc as bs = acc + BitVec.ofInt 32 ((as.zip bs).map (fun p => p.1.units 0 * p.2.units 0)).sum := by
  rw [List.sum_eq_foldl, List.foldl_map]
  rfl

theorem runs32_nil (n : Nat) : runs32 n [] = [] := by cases n <;> rfl

theorem runs32_cons (n : Nat) {l : List (FVal × FVal)} (nonempty : l ≠ []) :
    runs32 (n + 1) l = l.take 32 :: runs32 n (l.drop 32) :=
  if_neg nonempty

/-- A group of at most 32 depths is one addition (R138). -/
theorem stepAdd_group (acc : Word) {a b : List FVal} (same : a.length = b.length) (short : a.length ≤ 32) (nonempty : a ≠ []) :
    stepAdd false acc a b = groupAdd acc (a.zip b) := by
  have length : (a.zip b).length = a.length := by rw [List.length_zip, same, Nat.min_self]
  have depths : a.zip b ≠ [] := List.ne_nil_of_length_pos (length ▸ List.length_pos_iff.2 nonempty)
  have one : runs32 ((a.zip b).length / 32 + 1) (a.zip b) = [a.zip b] := by
    rw [runs32_cons _ depths, List.take_of_length_le (length ▸ short), List.drop_of_length_le (length ▸ short), runs32_nil]
  exact congrArg (List.foldl groupAdd acc) one

/-- The first 32 depths are added first (R138). -/
theorem stepAdd_append (acc : Word) {a b : List FVal} (as bs : List FVal) (ha : a.length = 32) (hb : b.length = 32) :
    stepAdd false acc (a ++ as) (b ++ bs) = stepAdd false (groupAdd acc (a.zip b)) as bs := by
  have length : (a.zip b).length = 32 := by rw [List.length_zip, ha, hb, Nat.min_self]
  have depths : a.zip b ++ as.zip bs ≠ [] :=
    List.append_ne_nil_of_left_ne_nil (List.ne_nil_of_length_eq_add_one length) _
  have groups : (a.zip b ++ as.zip bs).length / 32 = (as.zip bs).length / 32 + 1 := by
    rw [List.length_append, length, Nat.add_div_left _ (by decide)]
  have first : runs32 ((a.zip b ++ as.zip bs).length / 32 + 1) (a.zip b ++ as.zip bs) =
      a.zip b :: runs32 ((as.zip bs).length / 32 + 1) (as.zip bs) := by
    rw [runs32_cons _ depths, List.take_left' length, List.drop_left' length, groups]
  unfold stepAdd
  rw [List.zip_append (ha.trans hb.symm)]
  exact congrArg (List.foldl groupAdd acc) first

/-- Settles O15: the sum of a step by cases of its inputs, which with integer inputs is what the slot writes (`mma_gives`). -/
theorem matrixStepSums : Obligations.MatrixStepSums := by
  refine ⟨fun acc as bs _ => ⟨stepAdd_int acc as bs, fun a b => stepAdd_group acc, fun a b => stepAdd_append acc as bs⟩, ?_⟩
  intro s c c' x sparse hc hg ready f g z act ints
  refine (mma_gives hc hg ready).imp fun w ⟨_, calm, words⟩ => ⟨calm, fun j hj l hl active => ?_⟩
  rw [words j hj l hl, Cx.mmaWord_active sparse j active, Cx.mmaElem_int sparse j l ints]
  exact stepAdd_int _ _ _

end Sys2Proof.Machine
end
